-- ==== Sys2Proof/Word.lean ====
section
/-! DEFINITION. The word types of the UW8100 (01 R16, R20, R21; 03 R67). -/

namespace Sys2Proof

/-- One byte of memory. -/
abbrev Byte := BitVec 8

/-- One vector register of one lane, and every 32-bit system register. -/
abbrev W32 := BitVec 32

/-- One uniform register, a register pair, a 64-bit system register. -/
abbrev W64 := BitVec 64

/-- A lane mask: bit `l` stands for lane `l` (00 R11). -/
abbrev Mask := BitVec 32

end Sys2Proof
end

