-- ==== Sys2Proof/Syntax.lean ====
section
/-! DEFINITION. The instructions and events of the UW8100: one constructor per row of spec/opcode_table.json.

The 32-bit instruction words (03 R68) have each operand at its encoded width; so have the stream words (11 R257). The other
rows are steps of the device that no word names: a gang's hardware, an engine, the launcher, the host, a peer or the repair
logic acts, and the operands say which unit, with natural-number names of units. (Words without operands and the steps from
outside stand last, for the compiler's limit on constructors with arguments.) -/

namespace Sys2Proof

/-- One row of the opcode table. Log entry 63, DESIGN CHOICE. -/
inductive Instr where
  -- 32-bit instruction words with operands
  /-- ADD (R98): Adds a and b element by element, integer or floating, and delivers the result through the fan-out set. -/
  | add (d : BitVec 6) (a : BitVec 6) (b : BitVec 6)
  /-- SUB (R98): Subtracts b from a element by element. -/
  | sub (d : BitVec 6) (a : BitVec 6) (b : BitVec 6)
  /-- MUL (R98): Multiplies a by b element by element. -/
  | mul (d : BitVec 6) (a : BitVec 6) (b : BitVec 6)
  /-- MULH (R98): Delivers the upper w bits of the exact integer product of a and b. -/
  | mulh (d : BitVec 6) (a : BitVec 6) (b : BitVec 6)
  /-- MIN (R98): Delivers the lesser of a and b, under the NaN and signed-zero rules. -/
  | min (d : BitVec 6) (a : BitVec 6) (b : BitVec 6)
  /-- MAX (R98): Delivers the greater of a and b, under the NaN and signed-zero rules. -/
  | max (d : BitVec 6) (a : BitVec 6) (b : BitVec 6)
  /-- DIV (R98): Divides a by b, as an integer with the edge rules or as a rounded float. -/
  | div (d : BitVec 6) (a : BitVec 6) (b : BitVec 6)
  /-- REM (R97): Delivers the integer remainder, which carries the sign of a. -/
  | rem (d : BitVec 6) (a : BitVec 6) (b : BitVec 6)
  /-- ABS (R99): Delivers the absolute value of a. -/
  | abs (d : BitVec 6) (a : BitVec 6)
  /-- NEG (R99): Delivers the negation of a. -/
  | neg (d : BitVec 6) (a : BitVec 6)
  /-- SQRT (R99): Delivers the correctly rounded square root of a. -/
  | sqrt (d : BitVec 6) (a : BitVec 6)
  /-- RCP (R99): Delivers the correctly rounded reciprocal of a. -/
  | rcp (d : BitVec 6) (a : BitVec 6)
  /-- RSQ (R99): Delivers the correctly rounded reciprocal square root of a. -/
  | rsq (d : BitVec 6) (a : BitVec 6)
  /-- EXP2 (R99): Delivers 2 raised to the power a, correctly rounded. -/
  | exp2 (d : BitVec 6) (a : BitVec 6)
  /-- LOG2 (R99): Delivers the base-2 logarithm of a, correctly rounded. -/
  | log2 (d : BitVec 6) (a : BitVec 6)
  /-- SIN (R99): Delivers the sine of a in radians, correctly rounded. -/
  | sin (d : BitVec 6) (a : BitVec 6)
  /-- COS (R99): Delivers the cosine of a in radians, correctly rounded. -/
  | cos (d : BitVec 6) (a : BitVec 6)
  /-- AND (R101): Bitwise AND of a and b. -/
  | and (d : BitVec 6) (a : BitVec 6) (b : BitVec 6)
  /-- OR (R101): Bitwise OR of a and b. -/
  | or (d : BitVec 6) (a : BitVec 6) (b : BitVec 6)
  /-- XOR (R101): Bitwise XOR of a and b. -/
  | xor (d : BitVec 6) (a : BitVec 6) (b : BitVec 6)
  /-- ANDN (R101): Bitwise a AND NOT b. -/
  | andn (d : BitVec 6) (a : BitVec 6) (b : BitVec 6)
  /-- NOT (R101): Bitwise complement of a. -/
  | not (d : BitVec 6) (a : BitVec 6)
  /-- SHL (R102): Shifts each element of a left by the count in b. -/
  | shl (d : BitVec 6) (a : BitVec 6) (b : BitVec 6)
  /-- SHR (R102): Shifts each element of a right by the count in b, filling with zeros. -/
  | shr (d : BitVec 6) (a : BitVec 6) (b : BitVec 6)
  /-- SAR (R102): Shifts each element of a right by the count in b, filling with copies of its top bit. -/
  | sar (d : BitVec 6) (a : BitVec 6) (b : BitVec 6)
  /-- ROT (R102): Rotates each element of a left by the count in b, modulo the width. -/
  | rot (d : BitVec 6) (a : BitVec 6) (b : BitVec 6)
  /-- POPC (R103): Counts the one bits of each element. -/
  | popc (d : BitVec 6) (a : BitVec 6)
  /-- CLZ (R103): Counts the leading zero bits of each element. -/
  | clz (d : BitVec 6) (a : BitVec 6)
  /-- BREV (R103): Reverses the bit order of each element. -/
  | brev (d : BitVec 6) (a : BitVec 6)
  /-- CVT (R111): Converts from MODE.type2 to MODE.type; k selects which destination elements are written or which source elements are read. -/
  | cvt (k : BitVec 6) (d : BitVec 6) (a : BitVec 6) (b : BitVec 6)
  /-- CMP_EQ (R107): Sets predicate d where a equals b. -/
  | cmpEq (d : BitVec 6) (a : BitVec 6) (b : BitVec 6)
  /-- CMP_NE (R107): Sets predicate d where a does not equal b. -/
  | cmpNe (d : BitVec 6) (a : BitVec 6) (b : BitVec 6)
  /-- CMP_LT (R107): Sets predicate d where a is less than b. -/
  | cmpLt (d : BitVec 6) (a : BitVec 6) (b : BitVec 6)
  /-- CMP_LE (R107): Sets predicate d where a is at most b. -/
  | cmpLe (d : BitVec 6) (a : BitVec 6) (b : BitVec 6)
  /-- CMP_GT (R107): Sets predicate d where a is greater than b. -/
  | cmpGt (d : BitVec 6) (a : BitVec 6) (b : BitVec 6)
  /-- CMP_GE (R107): Sets predicate d where a is at least b. -/
  | cmpGe (d : BitVec 6) (a : BitVec 6) (b : BitVec 6)
  /-- CMP_UN (R107): Sets predicate d where either operand is NaN. -/
  | cmpUn (d : BitVec 6) (a : BitVec 6) (b : BitVec 6)
  /-- CMP_CLASS (R108): Sets predicate d from the bit of mask b that names the class of a. -/
  | cmpClass (d : BitVec 6) (a : BitVec 6) (b : BitVec 6)
  /-- MOV (R112): Copies a to d unchanged. -/
  | mov (d : BitVec 6) (a : BitVec 6)
  /-- MOVW (R114): Copies uniform register a into vector register d in every active lane. -/
  | movw (d : BitVec 6) (a : BitVec 6)
  /-- WMOV (R114): Writes uniform register d from the lowest active lane, subject to ownership. -/
  | wmov (d : BitVec 6) (a : BitVec 6)
  /-- PAND (R115): Predicate AND. -/
  | pand (d : BitVec 6) (a : BitVec 6) (b : BitVec 6)
  /-- POR (R115): Predicate OR. -/
  | por (d : BitVec 6) (a : BitVec 6) (b : BitVec 6)
  /-- PXOR (R115): Predicate XOR. -/
  | pxor (d : BitVec 6) (a : BitVec 6) (b : BitVec 6)
  /-- PNOT (R115): Predicate NOT. -/
  | pnot (d : BitVec 6) (a : BitVec 6)
  /-- PMOV (R115): Predicate copy. -/
  | pmov (d : BitVec 6) (a : BitVec 6)
  /-- SHFL (R116): Each lane reads a from the lane named in b. -/
  | shfl (d : BitVec 6) (a : BitVec 6) (b : BitVec 6)
  /-- SHFLUP (R116): Each lane reads a from the lane b below it. -/
  | shflup (d : BitVec 6) (a : BitVec 6) (b : BitVec 6)
  /-- SHFLDN (R116): Each lane reads a from the lane b above it. -/
  | shfldn (d : BitVec 6) (a : BitVec 6) (b : BitVec 6)
  /-- SHFLX (R116): Each lane reads a from its own lane XOR b. -/
  | shflx (d : BitVec 6) (a : BitVec 6) (b : BitVec 6)
  /-- BALLOT (R117): Writes the mask of active lanes whose predicate a is set. -/
  | ballot (d : BitVec 6) (a : BitVec 6)
  /-- VANY (R117): Sets predicate d when any active lane holds predicate a. -/
  | vany (d : BitVec 6) (a : BitVec 6)
  /-- VALL (R117): Sets predicate d when every active lane holds predicate a. -/
  | vall (d : BitVec 6) (a : BitVec 6)
  /-- MATCH (R117): Sets predicate d when every active lane holds the same bits in a. -/
  | match (d : BitVec 6) (a : BitVec 6)
  /-- RNGSPLIT (R118): Seeds each lane's xorshift128+ state from a uniform seed, a stream number and the lane index. -/
  | rngsplit (a : BitVec 6) (b : BitVec 6)
  /-- RNGNEXT (R119): Advances xs one step and writes the 64-bit result to pair d. -/
  | rngnext (d : BitVec 6)
  /-- RNGF (R119): Advances xs one step and writes a float in [0, 1). -/
  | rngf (d : BitVec 6)
  /-- SRD (R120): Reads the system register selected by a into d. -/
  | srd (d : BitVec 6) (a : BitVec 6)
  /-- MAD (R100): Fused multiply-add a times b plus c. -/
  | mad (d : BitVec 6) (a : BitVec 6) (b : BitVec 6) (c : BitVec 6)
  /-- BFX (R104): Extracts a bit field of a at position b with length c. -/
  | bfx (d : BitVec 6) (a : BitVec 6) (b : BitVec 6) (c : BitVec 6)
  /-- BFI (R104): Inserts bits of a into d at position b with length c. -/
  | bfi (d : BitVec 6) (a : BitVec 6) (b : BitVec 6) (c : BitVec 6)
  /-- LEA (R105): Adds the sign-extended b, shifted by c, to the 64-bit pair a. -/
  | lea (d : BitVec 6) (a : BitVec 6) (b : BitVec 6) (c : BitVec 6)
  /-- SEL (R109): Selects a or b per lane by predicate c. -/
  | sel (d : BitVec 6) (a : BitVec 6) (b : BitVec 6) (c : BitVec 6)
  /-- ADDI (R106): Adds a signed 12-bit immediate. -/
  | addi (d : BitVec 6) (a : BitVec 6) (i : BitVec 12)
  /-- ANDI (R106): ANDs a zero-extended immediate. -/
  | andi (d : BitVec 6) (a : BitVec 6) (i : BitVec 12)
  /-- ORI (R106): ORs a zero-extended immediate. -/
  | ori (d : BitVec 6) (a : BitVec 6) (i : BitVec 12)
  /-- XORI (R106): XORs a zero-extended immediate. -/
  | xori (d : BitVec 6) (a : BitVec 6) (i : BitVec 12)
  /-- SHLI (R106): Shifts left by an immediate count. -/
  | shli (d : BitVec 6) (a : BitVec 6) (i : BitVec 6)
  /-- SHRI (R106): Shifts right logically by an immediate count. -/
  | shri (d : BitVec 6) (a : BitVec 6) (i : BitVec 6)
  /-- SARI (R106): Shifts right arithmetically by an immediate count. -/
  | sari (d : BitVec 6) (a : BitVec 6) (i : BitVec 6)
  /-- LDI (R113): Writes a sign-extended 18-bit constant. -/
  | ldi (d : BitVec 6) (i : BitVec 18)
  /-- LDIH (R113): Replaces bits [31:14] of d with an 18-bit immediate. -/
  | ldih (d : BitVec 6) (i : BitVec 18)
  /-- BR (R125): Moves the whole cohort to the target. -/
  | br (o : BitVec 18)
  /-- BRP (R126): Divides slices by a per-lane condition and pushes the fall-through lanes as a pending path. -/
  | brp (c : BitVec 6) (o : BitVec 18)
  /-- BRA (R125): Moves the cohort when every active lane holds the predicate, or when the rejoin register is complete. -/
  | bra (c : BitVec 6) (o : BitVec 18)
  /-- BRN (R125): Moves the cohort when no active lane holds the predicate, or when the rejoin register is incomplete. -/
  | brn (c : BitVec 6) (o : BitVec 18)
  /-- CALL (R133): Saves the return address, slides the window by 32 and jumps to the target. -/
  | call (o : BitVec 18)
  /-- CALLR (R133): Calls through the register target held in pair a. -/
  | callr (a : BitVec 6)
  /-- JMPR (R133): Jumps to the register target held in pair a. -/
  | jmpr (a : BitVec 6)
  /-- JSET (R127): Sets a rejoin register's expect mask from a register. -/
  | jset (d : BitVec 6) (a : BitVec 6)
  /-- JSET_ACT (R127): Sets a rejoin register's expect mask to the path lanes. -/
  | jsetAct (d : BitVec 6)
  /-- REGANG (R131): Makes the cohort's slices wait at this REGANG for the slice mask. -/
  | regang (a : BitVec 6)
  /-- SETMV (R135): Writes MODE from a register. -/
  | setmv (a : BitVec 6)
  /-- GETM (R136): Delivers the slice's MODE. -/
  | getm (d : BitVec 6)
  /-- TRAP (R139): Completes, then takes cause 0x11, or a supervisor service request for codes 0x3FF00 to 0x3FFFF. -/
  | trap (c : BitVec 18)
  /-- BKPT (R139): Completes, then takes the breakpoint cause to the user handler. -/
  | bkpt (c : BitVec 18)
  /-- SETM (R135): Writes MODE[23:0] from a 24-bit immediate. -/
  | setm (v : BitVec 24)
  /-- SETM_H (R135): Writes MODE[31:24] from an 8-bit immediate. -/
  | setmH (v : BitVec 8)
  /-- FANSET (R137): Sets the consumer mask of fan-out set f1 to f7. -/
  | fanset (d : BitVec 6) (m : BitVec 7)
  /-- REP (R80): Issues the next word count times, stepping its register fields. -/
  | rep (n : BitVec 6) (d : BitVec 3) (a : BitVec 3) (b : BitVec 3) (c : BitVec 3)
  /-- WAIT (R84): Stalls until the outstanding load, store, copy and tile counts are at or below the limits. -/
  | wait (l : BitVec 5) (s : BitVec 5) (c : BitVec 5) (t : BitVec 3)
  /-- LDX_ZB (R158): Loads a zero-extended byte at pair a plus register b. -/
  | ldxZb (d : BitVec 6) (a : BitVec 6) (b : BitVec 6)
  /-- LDX_SB (R158): Loads a sign-extended byte at pair a plus register b. -/
  | ldxSb (d : BitVec 6) (a : BitVec 6) (b : BitVec 6)
  /-- LDX_ZH (R158): Loads a zero-extended half-word. -/
  | ldxZh (d : BitVec 6) (a : BitVec 6) (b : BitVec 6)
  /-- LDX_SH (R158): Loads a sign-extended half-word. -/
  | ldxSh (d : BitVec 6) (a : BitVec 6) (b : BitVec 6)
  /-- LDX_W (R158): Loads a word at a register offset. -/
  | ldxW (d : BitVec 6) (a : BitVec 6) (b : BitVec 6)
  /-- LDX_D (R158): Loads a double word into a pair at a register offset. -/
  | ldxD (d : BitVec 6) (a : BitVec 6) (b : BitVec 6)
  /-- STX_B (R158): Stores the low byte of d at a register offset. -/
  | stxB (d : BitVec 6) (a : BitVec 6) (b : BitVec 6)
  /-- STX_H (R158): Stores the low half-word of d at a register offset. -/
  | stxH (d : BitVec 6) (a : BitVec 6) (b : BitVec 6)
  /-- STX_W (R158): Stores a word at a register offset. -/
  | stxW (d : BitVec 6) (a : BitVec 6) (b : BitVec 6)
  /-- STX_D (R158): Stores a pair at a register offset. -/
  | stxD (d : BitVec 6) (a : BitVec 6) (b : BitVec 6)
  /-- LDA (R164): Acquire load at scope s, emptying the load cache at .cns or wider. -/
  | lda (s : BitVec 2) (d : BitVec 6) (a : BitVec 6)
  /-- STL (R164): Release store at scope s, through the store queue. -/
  | stl (s : BitVec 2) (d : BitVec 6) (a : BitVec 6)
  /-- PREF (R174): Requests the 128-byte line into the load cache or home slice. -/
  | pref (d : BitVec 6) (a : BitVec 6)
  /-- AADD (R169): Atomic add with return at scope s, combined per address group in lane order. -/
  | aadd (s : BitVec 2) (d : BitVec 6) (a : BitVec 6) (b : BitVec 6)
  /-- AMIN (R169): Atomic minimum with return. -/
  | amin (s : BitVec 2) (d : BitVec 6) (a : BitVec 6) (b : BitVec 6)
  /-- AMAX (R169): Atomic maximum with return. -/
  | amax (s : BitVec 2) (d : BitVec 6) (a : BitVec 6) (b : BitVec 6)
  /-- AAND (R169): Atomic AND with return. -/
  | aand (s : BitVec 2) (d : BitVec 6) (a : BitVec 6) (b : BitVec 6)
  /-- AOR (R169): Atomic OR with return. -/
  | aor (s : BitVec 2) (d : BitVec 6) (a : BitVec 6) (b : BitVec 6)
  /-- AXOR (R169): Atomic XOR with return. -/
  | axor (s : BitVec 2) (d : BitVec 6) (a : BitVec 6) (b : BitVec 6)
  /-- AXCH (R169): Atomic exchange. -/
  | axch (s : BitVec 2) (d : BitVec 6) (a : BitVec 6) (b : BitVec 6)
  /-- AINC (R169): Atomic increment that wraps to zero at the bound. -/
  | ainc (s : BitVec 2) (d : BitVec 6) (a : BitVec 6) (b : BitVec 6)
  /-- RED_ADD (R172): Atomic add with no return, queued as a store. -/
  | redAdd (s : BitVec 2) (a : BitVec 6) (b : BitVec 6)
  /-- RED_MIN (R172): Atomic minimum with no return. -/
  | redMin (s : BitVec 2) (a : BitVec 6) (b : BitVec 6)
  /-- RED_MAX (R172): Atomic maximum with no return. -/
  | redMax (s : BitVec 2) (a : BitVec 6) (b : BitVec 6)
  /-- RED_AND (R172): Atomic AND with no return. -/
  | redAnd (s : BitVec 2) (a : BitVec 6) (b : BitVec 6)
  /-- RED_OR (R172): Atomic OR with no return. -/
  | redOr (s : BitVec 2) (a : BitVec 6) (b : BitVec 6)
  /-- RED_XOR (R172): Atomic XOR with no return. -/
  | redXor (s : BitVec 2) (a : BitVec 6) (b : BitVec 6)
  /-- FENCE (R175): Waits until older loads have completed and older stores are visible at scope s. -/
  | fence (s : BitVec 2)
  /-- XFENCE (R176): Makes observed writes of path x visible to path y. -/
  | xfence (a : BitVec 6) (b : BitVec 6)
  /-- CAS (R171): Compare-and-swap at scope s per address group in lane order. -/
  | cas (s : BitVec 2) (d : BitVec 6) (a : BitVec 6) (b : BitVec 6) (c : BitVec 6)
  /-- LD (R158): Loads 4 or 8 bytes from global memory at pair a plus an immediate. -/
  | ld (d : BitVec 6) (a : BitVec 6) (i : BitVec 12)
  /-- ST (R158): Stores 4 or 8 bytes to global memory. -/
  | st (d : BitVec 6) (a : BitVec 6) (i : BitVec 12)
  /-- LD2 (R158): Loads 8 bytes into d and d+1. -/
  | ld2 (d : BitVec 6) (a : BitVec 6) (i : BitVec 12)
  /-- ST2 (R158): Stores 8 bytes from d and d+1. -/
  | st2 (d : BitVec 6) (a : BitVec 6) (i : BitVec 12)
  /-- LD4 (R158): Loads 16 bytes into d to d+3. -/
  | ld4 (d : BitVec 6) (a : BitVec 6) (i : BitVec 12)
  /-- ST4 (R158): Stores 16 bytes from d to d+3. -/
  | st4 (d : BitVec 6) (a : BitVec 6) (i : BitVec 12)
  /-- LDS (R158): Loads from scratchpad. -/
  | lds (d : BitVec 6) (a : BitVec 6) (i : BitVec 12)
  /-- STS (R158): Stores to scratchpad. -/
  | sts (d : BitVec 6) (a : BitVec 6) (i : BitVec 12)
  /-- MSTR (R197): Requests a pass of each quarter's eight A rows of a record against the active plane. -/
  | mstr (a : BitVec 6) (b : BitVec 6)
  /-- MSTR_P (R200): Requests a pass fed from the quarter's matrix stream port. -/
  | mstrP (a : BitVec 6)
  /-- MZERO (R195): Claims, binds and zeroes a band per quarter, waiting while the band is owned elsewhere. -/
  | mzero (a : BitVec 6)
  /-- MPARK (R206): Writes the band state word and parks and releases the gang's bands. -/
  | mpark (d : BitVec 6) (a : BitVec 6)
  /-- MUNPARK (R206): Restores bands from a parked image under a state word. -/
  | munpark (a : BitVec 6) (b : BitVec 6)
  /-- MLDS (R193): Loads a B slab into the shadow plane. -/
  | mlds (a : BitVec 6) (b : BitVec 6)
  /-- OBREL (R189): Marks a reservation record invalid. -/
  | obrel (a : BitVec 6)
  /-- CRED_ADD (R209): Contributes words to a consort reduction round that sums them. -/
  | credAdd (d : BitVec 6) (a : BitVec 6)
  /-- CRED_MAX (R209): Contributes words to a maximum round. -/
  | credMax (d : BitVec 6) (a : BitVec 6)
  /-- CRED_MIN (R209): Contributes words to a minimum round. -/
  | credMin (d : BitVec 6) (a : BitVec 6)
  /-- CRED_SMERGE (R209): Contributes softmax rows to a merge round. -/
  | credSmerge (d : BitVec 6) (a : BitVec 6)
  /-- OBRES (R188): Checks and writes a reservation record. -/
  | obres (d : BitVec 6) (a : BitVec 6) (b : BitVec 6)
  /-- MDRN (R202): Drains band rows per quarter to scratchpad or a fan-out set, with optional scale, clear, release and credit. -/
  | mdrn (d : BitVec 6) (a : BitVec 6) (b : BitVec 6) (c : BitVec 6)
  /-- OBLD (R190): Copies global memory into the operand buffer at a record's base. -/
  | obld (d : BitVec 6) (a : BitVec 6) (i : BitVec 12)
  /-- MSTAT (R207): Returns band or plane status. -/
  | mstat (d : BitVec 6) (i : BitVec 12)
  /-- BINIT (R243): Initialises a barrier object with a base count. -/
  | binit (a : BitVec 6) (b : BitVec 6)
  /-- BARR (R242): Makes one arrival for a phase, with release semantics. -/
  | barr (a : BitVec 6) (b : BitVec 6)
  /-- BEXP (R243): Adds expected bytes to an open phase. -/
  | bexp (d : BitVec 6) (a : BitVec 6) (b : BitVec 6)
  /-- BWAIT (R244): Waits until a phase completes, trapping on overrun or a faulted phase. -/
  | bwait (a : BitVec 6) (b : BitVec 6)
  /-- BTEST (R243): Sets a predicate where a phase is complete, without waiting. -/
  | btest (d : BitVec 6) (a : BitVec 6) (b : BitVec 6)
  /-- SESTOP (R256): Stops a stream context at its next operation boundary. -/
  | sestop (a : BitVec 6)
  /-- SERESUME (R256): Restarts a stopped stream context. -/
  | seresume (a : BitVec 6)
  /-- SEQRY (R256): Returns a stream context's state, entry, fault code and tag. -/
  | seqry (d : BitVec 6) (a : BitVec 6)
  /-- QPUSH (R275): Sends one entry of active words to a queue. -/
  | qpush (d : BitVec 6) (a : BitVec 6)
  /-- QPOP (R276): Takes the oldest entry of a queue, blocking or pending when it is empty. -/
  | qpop (d : BitVec 6) (a : BitVec 6)
  /-- QOWN (R277): Takes or keeps a link end if it is free and reports the result in a predicate. -/
  | qown (d : BitVec 6) (a : BitVec 6)
  /-- QOWN_REL (R277): Releases an owned link end. -/
  | qownRel (a : BitVec 6)
  /-- BXCOPY (R269): Hands a 64-byte copy request to a bulk engine. -/
  | bxcopy (a : BitVec 6)
  /-- SEGO (R255): Starts a stream context on a push catalogue entry and returns its handle. -/
  | sego (d : BitVec 6) (a : BitVec 6) (e : BitVec 5)
  /-- CATSET (R248): Writes a window catalogue entry from a scratchpad record. -/
  | catset (a : BitVec 6) (e : BitVec 5)
  /-- WREL (R251): Releases a window: a free-barrier arrival for push, or marks it absent for on-touch. -/
  | wrel (a : BitVec 6) (e : BitVec 5)
  /-- DECTBL (R273): Loads a canonical prefix-code table into a decoder slot. -/
  | dectbl (a : BitVec 6) (s : BitVec 2)
  /-- CATCLR (R249): Stops any context on the entry, waits for fills, and invalidates the entry. -/
  | catclr (e : BitVec 5)
  /-- CATQRY (R250): Returns an entry's status or next index. -/
  | catqry (d : BitVec 6) (s : BitVec 1) (e : BitVec 5)
  /-- TLD (R301): Gathers elements through a descriptor's axis translation. -/
  | tld (d : BitVec 6) (a : BitVec 6) (b : BitVec 6)
  /-- TST (R301): Scatters elements through a descriptor's axis translation. -/
  | tst (d : BitVec 6) (a : BitVec 6) (b : BitVec 6)
  /-- AXPERM (R292): Reorders a slot's axes. -/
  | axperm (d : BitVec 6) (a : BitVec 6)
  /-- AXQRY (R299): Reports the translation of an index without faulting. -/
  | axqry (d : BitVec 6) (a : BitVec 6) (b : BitVec 6)
  /-- AXINV_CORE (R296): Removes cached axis items from the issuing core. -/
  | axinvCore (a : BitVec 6)
  /-- AXINV_CNS (R296): Removes cached axis items from the consort's cores. -/
  | axinvCns (a : BitVec 6)
  /-- AXINV_DEV (R296): Removes cached axis items from every core and stream engine. -/
  | axinvDev (a : BitVec 6)
  /-- AXSET (R293): Replaces the overlapped part of an axis table with an entry. -/
  | axset (a : BitVec 6) (b : BitVec 6)
  /-- AXINS (R293): Inserts an entry, shifting later entries up and growing the extent. -/
  | axins (a : BitVec 6) (b : BitVec 6)
  /-- AXDEL (R293): Deletes a range, shifting later entries down and shrinking the extent. -/
  | axdel (a : BitVec 6) (b : BitVec 6)
  /-- TDLD (R291): Loads and checks a 128-byte descriptor into a slot. -/
  | tdld (d : BitVec 6) (a : BitVec 6) (i : BitVec 12)
  /-- TDST (R291): Stores a slot's descriptor to memory. -/
  | tdst (d : BitVec 6) (a : BitVec 6) (i : BitVec 12)
  /-- LQCANCEL (R363): Cancels a queued or placing launch, or ends the issuing group's own launch. -/
  | lqcancel (d : BitVec 6) (a : BitVec 6) (b : BitVec 6)
  /-- EXITC (R364): Exits, then adds a value to a counter after the gang finishes. -/
  | exitc (a : BitVec 6) (b : BitVec 6)
  /-- LQPUSH (R361): Claims a launch-queue slot and writes a record into it with release at .dev. -/
  | lqpush (d : BitVec 6) (a : BitVec 6) (q : BitVec 6)
  /-- LQSTAT (R362): Returns a launch queue's header fields, cons, prod or dispatch index. -/
  | lqstat (d : BitVec 6) (s : BitVec 2) (q : BitVec 6)
  /-- SWR (R393): Writes a system register at supervisor level. -/
  | swr (d : BitVec 6) (a : BitVec 6)
  /-- TLBINV (R394): Removes the running context's translations from the TLBs of a scope. -/
  | tlbinv (a : BitVec 6) (b : BitVec 6)
  /-- QUIESCE (R396): Stops a target context and waits until it is quiescent. -/
  | quiesce (d : BitVec 6) (a : BitVec 6)
  /-- CTXSAVE (R396): Writes a quiescent context's image, sealed when protected. -/
  | ctxsave (d : BitVec 6) (a : BitVec 6) (b : BitVec 6)
  /-- CTXLOAD (R396): Checks an image and places it on cores, making the context resident. -/
  | ctxload (d : BitVec 6) (a : BitVec 6) (b : BitVec 6)
  /-- SPLV (R395): Stores 32 stack slots per lane of a slice to the spill area. -/
  | splv (a : BitVec 6) (b : BitVec 6)
  /-- FILV (R395): Restores 32 stack slots per lane of a slice from the spill area. -/
  | filv (a : BitVec 6) (b : BitVec 6)
  /-- KEYSEL (R396): Binds a save key handle to a protected target context. -/
  | keysel (d : BitVec 6) (a : BitVec 6) (b : BitVec 6)
  /-- HALT (R397): Stops every gang of the issuing context and posts a kind 5 record. -/
  | halt (a : BitVec 6)
  -- stream words
  /-- SE_SET (R258): Stream op: sets an e register from an immediate. -/
  | seSet (ra rb rc : BitVec 4) (imm : BitVec 40)
  /-- SE_ADD (R258): Stream op: adds registers and an immediate. -/
  | seAdd (ra rb rc : BitVec 4) (imm : BitVec 40)
  /-- SE_MUL (R258): Stream op: multiplies a register by a register or an immediate. -/
  | seMul (ra rb rc : BitVec 4) (imm : BitVec 40)
  /-- SE_LOOP (R258): Stream op: opens a counted loop. -/
  | seLoop (ra rb rc : BitVec 4) (imm : BitVec 40)
  /-- SE_NEXT (R258): Stream op: decrements a loop counter and branches back. -/
  | seNext (ra rb rc : BitVec 4) (imm : BitVec 40)
  /-- SE_JMP (R258): Stream op: branches unconditionally or on a nonzero register. -/
  | seJmp (ra rb rc : BitVec 4) (imm : BitVec 40)
  /-- SE_STOP (R258): Stream op: waits for earlier writes to be credited, then ends the context. -/
  | seStop (ra rb rc : BitVec 4) (imm : BitVec 40)
  /-- SE_COORD (R259): Stream op: sets a box's origin and extent on one axis. -/
  | seCoord (ra rb rc : BitVec 4) (imm : BitVec 40)
  /-- SE_FETCH (R261): Stream op: fetches a box, optionally decoded, into the window or a return port, and credits it. -/
  | seFetch (ra rb rc : BitVec 4) (imm : BitVec 40)
  /-- SE_WAITF (R263): Stream op: waits for a free window and an open full phase, opens the fill and takes a checkpoint. -/
  | seWaitf (ra rb rc : BitVec 4) (imm : BitVec 40)
  /-- SE_EXPECT (R264): Stream op: adds expected bytes and one arrival to full phase cur. -/
  | seExpect (ra rb rc : BitVec 4) (imm : BitVec 40)
  /-- SE_GATHER (R262): Stream op: fetches a box with one axis replaced by an index list. -/
  | seGather (ra rb rc : BitVec 4) (imm : BitVec 40)
  /-- SE_KVFETCH (R265): Stream op: fetches a box, resolving remote entries through their owning chip. -/
  | seKvfetch (ra rb rc : BitVec 4) (imm : BitVec 40)
  /-- SE_SIGNAL (R265): Stream op: after earlier writes are visible, atomically adds to a 64-bit counter and takes a checkpoint. -/
  | seSignal (ra rb rc : BitVec 4) (imm : BitVec 40)
  /-- SE_FENCE (R265): Stream op: waits until earlier writes are visible and credited. -/
  | seFence (ra rb rc : BitVec 4) (imm : BitVec 40)
  /-- SE_MARK (R265): Stream op: sets the mark tag and takes a checkpoint. -/
  | seMark (ra rb rc : BitVec 4) (imm : BitVec 40)
  -- steps that the device makes of itself
  /-- JOIN_COMPLETE (R129): When all expected lanes have arrived and every slice waits at one JWAIT, the slices join into one cohort. -/
  | joinComplete (g m : Nat)
  /-- REJOIN_TIMEOUT (R130): In ageing mode, when a wait's age reaches 65,536, each waiting slice is released alone and sys.rlost counts one. -/
  | rejoinTimeout (g m : Nat)
  /-- REGANG_COMPLETE (R131): When every slice of the mask waits at one REGANG, the slices join into one cohort. -/
  | regangComplete (g sl : Nat)
  /-- REGANG_TIMEOUT (R131): In ageing mode, an incomplete REGANG releases its waiting slices after 65,536 cycles. -/
  | regangTimeout (g sl : Nat)
  /-- STORE_QUEUE_RETIRE (R162): The head store-queue entry, once its operands have settled and older loads have completed, is performed and leaves the queue. -/
  | storeQueueRetire (g : Nat)
  /-- TAGGED_DELIVERY (R226): A late value arrives under a register and tag, is offered to waiting residuals, and is written if the tag is current. -/
  | taggedDelivery (g i : Nat)
  /-- RESIDUAL_RUN (R227): A ready residual issues ahead of in-order work under its MODE snapshot and captured operands. -/
  | residualRun (g i : Nat)
  /-- POSTED_FAULT_TAKE (R438): A posted or held fault is taken at the gang's next instruction boundary outside every handler. -/
  | postedFaultTake (g : Nat)
  /-- MATRIX_PASS (R198): A pass, once merged and with the array free, accumulates A rows against the active plane into the bands. -/
  | matrixPass (c : Nat)
  /-- SLAB_LOAD (R193): An accepted MLDS begins when earlier loads and readers are done, and loads the plane in 32 cycles. -/
  | slabLoad (c : Nat)
  /-- BAND_DRAIN (R203): An accepted MDRN converts and delivers each row once the band's last pass is final. -/
  | bandDrain (c : Nat)
  /-- BAND_PARK (R206): An accepted MPARK or MUNPARK moves band images to or from the parking share. -/
  | bandPark (c : Nat)
  /-- CRU_ROUND_COMPLETE (R210): When every participant has contributed, the unit combines, writes each result and pushes a completion word. -/
  | cruRoundComplete (u : Nat)
  /-- DECODER_TABLE_LOAD (R273): Forty cycles after DECTBL issues, the new table replaces the slot. -/
  | decoderTableLoad (c : Nat)
  /-- DECODE_CHUNK (R274): The weight decoder expands a chunk into bytes, or marks it in error. -/
  | decodeChunk (g : Nat)
  /-- WINDOW_PRESENT (R253): An on-touch fill ends and its bytes are visible, so the window becomes present, or faulted if the context faulted. -/
  | windowPresent (grp e i : Nat)
  /-- CREDIT (R242): Engine bytes, once visible and with their phase open, are credited to the phase and Advance is applied. -/
  | credit (i : Nat)
  /-- BULK_COPY_COMPLETE (R271): A bulk copy ends; the engine claims a ring slot, writes the completion record and releases it. -/
  | bulkCopyComplete (b : Nat)
  /-- QUEUE_RECEIVE (R232): A receiver accepts the next in-order entry or refuses it with a negative acknowledgement. -/
  | queueReceive (l : Nat)
  /-- QUEUE_REPLAY (R233): After the back-off delay, the sender resends entries from the refused one onward. -/
  | queueReplay (l : Nat)
  /-- ACTIVE_SET_ENTRY (R220): When the active set has a vacancy, the oldest ready pending gang enters it. -/
  | activeSetEntry (c : Nat)
  /-- DISPLACEMENT (R220): A ready pending gang kept out for 4,096 cycles displaces the youngest active gang. -/
  | displacement (c : Nat)
  /-- STARVATION_PRIORITY (R218): An active gang ready and ungranted for 4,096 cycles takes first priority for a slot. -/
  | starvationPriority (c : Nat)
  /-- DRAIN_STALL_PARK (R219): A gang that has issued nothing for 64 cycles of drain-point stall leaves the active set as parked. -/
  | drainStallPark (g : Nat)
  /-- HANG_DETECT (R223): A gang that has retired nothing for 2^24 cycles has a hang record posted. -/
  | hangDetect (g : Nat)
  /-- GANG_FINISH (R138): Once every lane has exited and its counts are zero, the gang releases its slots and bands and finishes. -/
  | gangFinish (g : Nat)
  /-- LAUNCH_DISPATCH (R351): An eligible record with dependences met is checked and refused or begins placing. -/
  | launchDispatch (p q : Nat)
  /-- DEPENDENCE_POLL (R356): The launcher re-reads a dependence counter with an acquire at least every 1,024 cycles. -/
  | dependencePoll (p q : Nat)
  /-- QUEUE_RESERVING (R359): A queue unplaceable for 65,536 cycles becomes reserving. -/
  | queueReserving (p q : Nat)
  /-- GROUP_PLACE (R358): The launcher grants a ready queue and places its next group or consort with the start state. -/
  | groupPlace (p q c : Nat)
  /-- GROUP_FINISH (R355): A finished group frees its resources and adds 1 to the completion counter with release. -/
  | groupFinish (grp : Nat)
  /-- BUDGET_PERIOD (R365): Every 25,000 cycles each engine-class balance is reset to the budget less carried debt. -/
  | budgetPeriod (p : Nat)
  /-- FAULT_RING_RETRY (R376): While a record waits, the fault-ring header is re-read at least every 25,000 cycles. -/
  | faultRingRetry (p : Nat)
  /-- QUIESCENT (R384): A stopping context becomes quiescent after the idle tree has been high for 1,024 cycles. -/
  | quiescent (x : Nat)
  /-- FLIT_RESEND (R407): An unacknowledged flit is resent after 10,000 cycles, and after 64 resends its destination is unreachable. -/
  | flitResend (dst : Nat)
  /-- CROSSBAR_RESEND (R408): An unacknowledged crossbar request is resent after 2,048 cycles, bypassing failing ports. -/
  | crossbarResend (i : Nat)
  /-- USAGE_RECORD_CLOSE (R414): Every 2.5 x 10^9 cycles Ecolmut closes a signed usage record, holding or discarding it if the ring is full. -/
  | usageRecordClose (p : Nat)
  /-- RING_RECORD_WRITE (R414): A held usage or error record is written when the ring has room, taking its Hprev. -/
  | ringRecordWrite (r : Nat)
  /-- OBLD_COPY (R190): The copy that OBLD started lands in the operand buffer, possibly poisoned, and the gang's copy count falls. -/
  | obldCopy (i : Nat)
  -- 32-bit instruction words without operands
  /-- RET (R133): Returns through v30:v31 and slides the window back by 32. -/
  | ret
  /-- EXIT (R138): Waits for the residual queue to empty, then the path lanes exit. -/
  | exit
  /-- JARR (R128): Records the path lanes as arrived at m[MODE.jsel]. -/
  | jarr
  /-- JWAIT (R129): Makes the cohort's slices wait on m[MODE.jsel]. -/
  | jwait
  /-- DRAIN (R138): Stalls until the residual queue is empty and nothing is pending. -/
  | drain
  /-- NOP (R138): Does nothing. -/
  | nop
  /-- YIELD (R138): The gang leaves the active set as ready pending. -/
  | yield
  /-- TRET (R143): Restores MODE and level, then re-executes the tmask lanes, continues, or replays the faulted residual. -/
  | tret
  /-- MSWAP (R194): Exchanges the active and shadow planes once earlier passes and loads allow. -/
  | mswap
  /-- AXFENCE (R297): Stalls until older AXINVs are complete and older TLD and TST have translated. -/
  | axfence
  -- steps of the host, a peer, the links or the repair logic
  /-- DOORBELL (R349): A host write to a queue doorbell makes the device read the queue header. -/
  | doorbell (p q v : Nat)
  /-- PAGE_WALK (R375): A TLB miss walks four levels, checks provenance and fills the TLB or faults. -/
  | pageWalk (x c va : Nat)
  /-- PAGE_EXPORT (R381): Ecolmut encrypts a protected page out under a ticket and version and frees it. -/
  | pageExport (x pa buf : Nat)
  /-- PAGE_IMPORT (R381): Ecolmut verifies an imported page and restores it to the world. -/
  | pageImport (p t pa buf : Nat)
  /-- QBIND (R401): Control command 0x01: binds a launch queue to a header address. -/
  | qbind (p : Nat)
  /-- CTXNEW (R401): Control command 0x02: creates a context with a root, world and runtime flag. -/
  | ctxnew (p : Nat)
  /-- CTXSTOP (R401): Control command 0x03: stops a context until it is quiescent. -/
  | ctxstop (p : Nat)
  /-- CTXEND (R401): Control command 0x04: stops and destroys a context without an image. -/
  | ctxend (p : Nat)
  /-- FRESUME (R377): Control command 0x05: resumes the agent of a kind 1 or 2 fault record. -/
  | fresume (p : Nat)
  /-- FEND (R377): Control command 0x06: ends the context of a fault record. -/
  | fend (p : Nat)
  /-- THAW (R401): Control command 0x07: resumes protected contexts stopped by link loss. -/
  | thaw (p : Nat)
  /-- BIND (R401): Control command 0x08: sets a context's accession binding. -/
  | bind (p : Nat)
  /-- ACCESSION (R411): Control command 0x09: Ecolmut writes a signed accession record. -/
  | accession (p : Nat)
  /-- PGSET (R380): Control command 0x0A: Ecolmut changes the provenance bytes of a page range. -/
  | pgset (p : Nat)
  /-- SSTAB (R410): Control command 0x0B: binds the partition's second-stage table. -/
  | sstab (p : Nat)
  /-- PCREATE (R404): Management command 0x20: creates a partition, scrubbing it and loading its tables within 30 ms. -/
  | pcreate
  /-- PRESET (R405): Management command 0x21: destroys a partition's contexts, scrubs and re-admits it. -/
  | preset
  /-- PDESTROY (R405): Management command 0x22: destroys a partition and emits its final usage record. -/
  | pdestroy
  /-- CHIPSET (R401): Management command 0x23: sets the device's chip number. -/
  | chipset
  /-- REGISTER_WRITE (R400): A write to a page register with no behaviour of its own stores or ignores the value by its access code. -/
  | registerWrite (page off val : Nat)
  /-- HOT_RESET (R399): A hot reset or PF0 FLR zeroises keys and destroys contexts and partitions. -/
  | hotReset
  /-- VF_FLR (R399): A Function Level Reset of VF p+1 resets partition p. -/
  | vfFlr (p : Nat)
  /-- LINK_DOWN (R399): A host link loss or TDI leaving RUN stops protected contexts and holds host accesses. -/
  | linkDown (p : Nat)
  /-- HOST_MEMORY_ACCESS (R379): A host PCIe read, write or AtomicOp on device memory is allowed only to permitted pages. -/
  | hostMemoryAccess (op addr n data cmp : Nat)
  /-- GET_VERSION (R398): SPDM request answered by the responder on PF0. -/
  | getVersion
  /-- GET_CAPABILITIES (R398): SPDM request answered by the responder. -/
  | getCapabilities
  /-- NEGOTIATE_ALGORITHMS (R398): SPDM request answered by the responder. -/
  | negotiateAlgorithms
  /-- GET_DIGESTS (R398): SPDM request answered by the responder. -/
  | getDigests
  /-- GET_CERTIFICATE (R398): SPDM request answered by the responder. -/
  | getCertificate
  /-- CHALLENGE (R398): SPDM request answered with an ML-DSA-65 signature. -/
  | challenge (nonce : Nat)
  /-- GET_MEASUREMENTS (R398): SPDM request returning the measurement blocks. -/
  | getMeasurements (nonce : Nat)
  /-- KEY_EXCHANGE (R398): SPDM request that starts a session key exchange. -/
  | keyExchange (nonce : Nat)
  /-- FINISH (R398): SPDM request that completes the session handshake. -/
  | finish
  /-- KEY_UPDATE (R398): SPDM request that updates session keys. -/
  | keyUpdate
  /-- END_SESSION (R398): SPDM request that ends a session. -/
  | endSession
  /-- PORT_TRAINING (R406): A Hutur port trains, authenticates mutually with SPDM and is admitted or left down. -/
  | portTraining (port chip digest meas : Nat)
  /-- FLIT_RECEIVE (R407): A destination accepts, buffers, drops or re-acknowledges an arriving flit by sequence number. -/
  | flitReceive (src seq data : Nat)
  /-- PATROL_SCRUB (R415): The scrubber reads each word periodically, correcting what it can and poisoning what it cannot. -/
  | patrolScrub (addr err : Nat)
  /-- WAY_REPAIR (R421): A failing home-slice way is replaced live by a spare way. -/
  | wayRepair (die sl way : Nat)
  /-- SLICE_FAILING (R422): A home slice whose tags fail is marked failing and its partner takes its interleave. -/
  | sliceFailing (die sl : Nat)
  /-- CONTAINMENT (R425): An unconfinable uncorrectable error stops the affected partitions' contexts within 1 ms and posts a record. -/
  | containment (unit parts : Nat)
  /-- LINK_RETURN (R399): The host link comes back up, or the TDI returns to RUN, so held host-memory accesses and doorbells are carried again. -/
  | linkReturn (p : Nat)
  /-- HUTUR_PORT_DOWN (R406): A Hutur port loses its link and goes down, so its flits must be resent over other routes and it must retrain. -/
  | huturPortDown (port : Nat)
  /-- IDE_KEY_PROGRAMMING (R399): The host programs new Selective IDE keys for a partition's stream. -/
  | ideKeyProgramming (p : Nat)
  /-- PEER_WINDOW_ACCESS (R410): A request from a peer chip through the peer window, or an SE.KVFETCH block request, is resolved through this chip's second-stage table and served or refused. -/
  | peerWindowAccess (op blk off n data world tier : Nat)
  deriving DecidableEq, Repr

end Sys2Proof
end

