-- ==== Sys2Proof/Decode.lean ====
section
/-! DEFINITION. The instruction word: the checks of step 2 of 03 R75 on a 32-bit word, the decoder, and after it the
encoder written from the same tables (03 R68, R85, R86; 21 R436). -/

namespace Sys2Proof

/-- Why a word is no instruction. -/
inductive DecodeError where
  /-- The major opcode is reserved or always illegal: illegal-instruction (03 R86). -/
  | reservedMajor
  /-- The A-form minor is not allocated: illegal-instruction (03 R86). -/
  | reservedMinor
  /-- A field or bit that the entry does not use is not zero: illegal-instruction (03 R70). -/
  | unusedField
  /-- BR or CALL with a cond other than 63: illegal-operand, field 4 (03 R72; 05 R125, R133). -/
  | badCond
  /-- A stream word whose op is not 0x01 to 0x10: stream fault 0x01 (11 R257). -/
  | reservedOp
  /-- A stream word with a bit set that its operation does not use: stream fault 0x02 (11 R257). -/
  | streamUnused
  deriving DecidableEq, Repr

/-- The `n`-bit field of a word whose least significant bit is `lo`. -/
def field (w : BitVec 32) (lo n : Nat) : BitVec n := w.extractLsb' lo n

/-- The major opcode, bits [31:24] (03 R68). -/
def major (w : BitVec 32) : Nat := (field w 24 8).toNat

/-- The A-form minor, bits [23:18] (03 R68). -/
def minor (w : BitVec 32) : Nat := (field w 18 6).toNat

/-- An instruction whose unused bits, under `mask`, must be zero (03 R70). -/
def checked (w mask : BitVec 32) (i : Instr) : Except DecodeError Instr :=
  if w &&& mask = 0#32 then .ok i else .error .unusedField

/-- Words of major 0x01. -/
def decode01 (w : BitVec 32) : Except DecodeError Instr :=
  if minor w = 0 then .ok (.add (field w 12 6) (field w 6 6) (field w 0 6))
  else if minor w = 1 then .ok (.sub (field w 12 6) (field w 6 6) (field w 0 6))
  else if minor w = 2 then .ok (.mul (field w 12 6) (field w 6 6) (field w 0 6))
  else if minor w = 3 then .ok (.mulh (field w 12 6) (field w 6 6) (field w 0 6))
  else if minor w = 4 then .ok (.min (field w 12 6) (field w 6 6) (field w 0 6))
  else if minor w = 5 then .ok (.max (field w 12 6) (field w 6 6) (field w 0 6))
  else if minor w = 6 then .ok (.div (field w 12 6) (field w 6 6) (field w 0 6))
  else if minor w = 7 then .ok (.rem (field w 12 6) (field w 6 6) (field w 0 6))
  else .error .reservedMinor

/-- Words of major 0x02. -/
def decode02 (w : BitVec 32) : Except DecodeError Instr :=
  if minor w = 0 then checked w 0x0000003F#32 (.abs (field w 12 6) (field w 6 6))
  else if minor w = 1 then checked w 0x0000003F#32 (.neg (field w 12 6) (field w 6 6))
  else if minor w = 2 then checked w 0x0000003F#32 (.sqrt (field w 12 6) (field w 6 6))
  else if minor w = 3 then checked w 0x0000003F#32 (.rcp (field w 12 6) (field w 6 6))
  else if minor w = 4 then checked w 0x0000003F#32 (.rsq (field w 12 6) (field w 6 6))
  else if minor w = 5 then checked w 0x0000003F#32 (.exp2 (field w 12 6) (field w 6 6))
  else if minor w = 6 then checked w 0x0000003F#32 (.log2 (field w 12 6) (field w 6 6))
  else if minor w = 7 then checked w 0x0000003F#32 (.sin (field w 12 6) (field w 6 6))
  else if minor w = 8 then checked w 0x0000003F#32 (.cos (field w 12 6) (field w 6 6))
  else .error .reservedMinor

/-- Words of major 0x03. -/
def decode03 (w : BitVec 32) : Except DecodeError Instr :=
  if minor w = 0 then .ok (.and (field w 12 6) (field w 6 6) (field w 0 6))
  else if minor w = 1 then .ok (.or (field w 12 6) (field w 6 6) (field w 0 6))
  else if minor w = 2 then .ok (.xor (field w 12 6) (field w 6 6) (field w 0 6))
  else if minor w = 3 then .ok (.andn (field w 12 6) (field w 6 6) (field w 0 6))
  else if minor w = 4 then checked w 0x0000003F#32 (.not (field w 12 6) (field w 6 6))
  else if minor w = 5 then .ok (.shl (field w 12 6) (field w 6 6) (field w 0 6))
  else if minor w = 6 then .ok (.shr (field w 12 6) (field w 6 6) (field w 0 6))
  else if minor w = 7 then .ok (.sar (field w 12 6) (field w 6 6) (field w 0 6))
  else if minor w = 8 then .ok (.rot (field w 12 6) (field w 6 6) (field w 0 6))
  else if minor w = 9 then checked w 0x0000003F#32 (.popc (field w 12 6) (field w 6 6))
  else if minor w = 10 then checked w 0x0000003F#32 (.clz (field w 12 6) (field w 6 6))
  else if minor w = 11 then checked w 0x0000003F#32 (.brev (field w 12 6) (field w 6 6))
  else .error .reservedMinor

/-- Words of major 0x04. -/
def decode04 (w : BitVec 32) : Except DecodeError Instr :=
  if minor w ≤ 19 then .ok (.cvt (field w 18 6) (field w 12 6) (field w 6 6) (field w 0 6))
  else .error .reservedMinor

/-- Words of major 0x05. -/
def decode05 (w : BitVec 32) : Except DecodeError Instr :=
  if minor w = 0 then .ok (.cmpEq (field w 12 6) (field w 6 6) (field w 0 6))
  else if minor w = 1 then .ok (.cmpNe (field w 12 6) (field w 6 6) (field w 0 6))
  else if minor w = 2 then .ok (.cmpLt (field w 12 6) (field w 6 6) (field w 0 6))
  else if minor w = 3 then .ok (.cmpLe (field w 12 6) (field w 6 6) (field w 0 6))
  else if minor w = 4 then .ok (.cmpGt (field w 12 6) (field w 6 6) (field w 0 6))
  else if minor w = 5 then .ok (.cmpGe (field w 12 6) (field w 6 6) (field w 0 6))
  else if minor w = 6 then .ok (.cmpUn (field w 12 6) (field w 6 6) (field w 0 6))
  else if minor w = 7 then .ok (.cmpClass (field w 12 6) (field w 6 6) (field w 0 6))
  else .error .reservedMinor

/-- Words of major 0x06. -/
def decode06 (w : BitVec 32) : Except DecodeError Instr :=
  if minor w = 0 then checked w 0x0000003F#32 (.mov (field w 12 6) (field w 6 6))
  else if minor w = 1 then checked w 0x0000003F#32 (.movw (field w 12 6) (field w 6 6))
  else if minor w = 2 then checked w 0x0000003F#32 (.wmov (field w 12 6) (field w 6 6))
  else .error .reservedMinor

/-- Words of major 0x07. -/
def decode07 (w : BitVec 32) : Except DecodeError Instr :=
  if minor w = 0 then .ok (.pand (field w 12 6) (field w 6 6) (field w 0 6))
  else if minor w = 1 then .ok (.por (field w 12 6) (field w 6 6) (field w 0 6))
  else if minor w = 2 then .ok (.pxor (field w 12 6) (field w 6 6) (field w 0 6))
  else if minor w = 3 then checked w 0x0000003F#32 (.pnot (field w 12 6) (field w 6 6))
  else if minor w = 4 then checked w 0x0000003F#32 (.pmov (field w 12 6) (field w 6 6))
  else .error .reservedMinor

/-- Words of major 0x08. -/
def decode08 (w : BitVec 32) : Except DecodeError Instr :=
  if minor w = 0 then .ok (.shfl (field w 12 6) (field w 6 6) (field w 0 6))
  else if minor w = 1 then .ok (.shflup (field w 12 6) (field w 6 6) (field w 0 6))
  else if minor w = 2 then .ok (.shfldn (field w 12 6) (field w 6 6) (field w 0 6))
  else if minor w = 3 then .ok (.shflx (field w 12 6) (field w 6 6) (field w 0 6))
  else .error .reservedMinor

/-- Words of major 0x09. -/
def decode09 (w : BitVec 32) : Except DecodeError Instr :=
  if minor w = 0 then checked w 0x0000003F#32 (.ballot (field w 12 6) (field w 6 6))
  else if minor w = 1 then checked w 0x0000003F#32 (.vany (field w 12 6) (field w 6 6))
  else if minor w = 2 then checked w 0x0000003F#32 (.vall (field w 12 6) (field w 6 6))
  else if minor w = 3 then checked w 0x0000003F#32 (.match (field w 12 6) (field w 6 6))
  else .error .reservedMinor

/-- Words of major 0x0A. -/
def decode0A (w : BitVec 32) : Except DecodeError Instr :=
  if minor w = 0 then checked w 0x0003F000#32 (.rngsplit (field w 6 6) (field w 0 6))
  else if minor w = 1 then checked w 0x00000FFF#32 (.rngnext (field w 12 6))
  else if minor w = 2 then checked w 0x00000FFF#32 (.rngf (field w 12 6))
  else .error .reservedMinor

/-- Words of major 0x0B. -/
def decode0B (w : BitVec 32) : Except DecodeError Instr :=
  if minor w = 0 then checked w 0x0000003F#32 (.srd (field w 12 6) (field w 6 6))
  else .error .reservedMinor

/-- Words of major 0x30. -/
def decode30 (w : BitVec 32) : Except DecodeError Instr :=
  if minor w = 0 then checked w 0x0003F03F#32 (.callr (field w 6 6))
  else if minor w = 1 then checked w 0x0003FFFF#32 (.ret)
  else if minor w = 2 then checked w 0x0003F03F#32 (.jmpr (field w 6 6))
  else if minor w = 3 then checked w 0x0003FFFF#32 (.exit)
  else .error .reservedMinor

/-- Words of major 0x31. -/
def decode31 (w : BitVec 32) : Except DecodeError Instr :=
  if minor w = 0 then checked w 0x0000003F#32 (.jset (field w 12 6) (field w 6 6))
  else if minor w = 1 then checked w 0x00000FFF#32 (.jsetAct (field w 12 6))
  else if minor w = 2 then checked w 0x0003FFFF#32 (.jarr)
  else if minor w = 3 then checked w 0x0003FFFF#32 (.jwait)
  else if minor w = 4 then checked w 0x0003F03F#32 (.regang (field w 6 6))
  else .error .reservedMinor

/-- Words of major 0x32. -/
def decode32 (w : BitVec 32) : Except DecodeError Instr :=
  if minor w = 0 then checked w 0x0003F03F#32 (.setmv (field w 6 6))
  else if minor w = 1 then checked w 0x00000FFF#32 (.getm (field w 12 6))
  else if minor w = 2 then checked w 0x0003FFFF#32 (.drain)
  else if minor w = 3 then checked w 0x0003FFFF#32 (.nop)
  else if minor w = 4 then checked w 0x0003FFFF#32 (.yield)
  else if minor w = 5 then .ok (.trap (field w 0 18))
  else if minor w = 6 then checked w 0x0003FFFF#32 (.tret)
  else if minor w = 7 then .ok (.bkpt (field w 0 18))
  else .error .reservedMinor

/-- Words of major 0x33. -/
def decode33 (w : BitVec 32) : Except DecodeError Instr :=
  if minor w = 0 then checked w 0x0000003F#32 (.swr (field w 12 6) (field w 6 6))
  else if minor w = 1 then checked w 0x0003F000#32 (.tlbinv (field w 6 6) (field w 0 6))
  else if minor w = 2 then checked w 0x0000003F#32 (.quiesce (field w 12 6) (field w 6 6))
  else if minor w = 3 then .ok (.ctxsave (field w 12 6) (field w 6 6) (field w 0 6))
  else if minor w = 4 then .ok (.ctxload (field w 12 6) (field w 6 6) (field w 0 6))
  else if minor w = 5 then checked w 0x0003F000#32 (.splv (field w 6 6) (field w 0 6))
  else if minor w = 6 then checked w 0x0003F000#32 (.filv (field w 6 6) (field w 0 6))
  else if minor w = 7 then .ok (.keysel (field w 12 6) (field w 6 6) (field w 0 6))
  else if minor w = 8 then checked w 0x0003F03F#32 (.halt (field w 6 6))
  else .error .reservedMinor

/-- Words of major 0x34. Log entry 33, DEDUCED. -/
def decode34 (w : BitVec 32) : Except DecodeError Instr :=
  if minor w = 0 then .ok (.ldxZb (field w 12 6) (field w 6 6) (field w 0 6))
  else if minor w = 1 then .ok (.ldxSb (field w 12 6) (field w 6 6) (field w 0 6))
  else if minor w = 2 then .ok (.ldxZh (field w 12 6) (field w 6 6) (field w 0 6))
  else if minor w = 3 then .ok (.ldxSh (field w 12 6) (field w 6 6) (field w 0 6))
  else if minor w = 4 then .ok (.ldxW (field w 12 6) (field w 6 6) (field w 0 6))
  else if minor w = 5 then .ok (.ldxD (field w 12 6) (field w 6 6) (field w 0 6))
  else if minor w = 8 then .ok (.stxB (field w 12 6) (field w 6 6) (field w 0 6))
  else if minor w = 9 then .ok (.stxH (field w 12 6) (field w 6 6) (field w 0 6))
  else if minor w = 10 then .ok (.stxW (field w 12 6) (field w 6 6) (field w 0 6))
  else if minor w = 11 then .ok (.stxD (field w 12 6) (field w 6 6) (field w 0 6))
  else if minor w / 4 = 4 then checked w 0x0000003F#32 (.lda (field w 18 2) (field w 12 6) (field w 6 6))
  else if minor w / 4 = 5 then checked w 0x0000003F#32 (.stl (field w 18 2) (field w 12 6) (field w 6 6))
  else if minor w = 24 then if field w 12 6 ≤ 1#6 then checked w 0x0000003F#32 (.pref (field w 12 6) (field w 6 6)) else .error .unusedField
  else .error .reservedMinor

/-- Words of major 0x35. -/
def decode35 (w : BitVec 32) : Except DecodeError Instr :=
  if minor w / 4 = 0 then .ok (.aadd (field w 18 2) (field w 12 6) (field w 6 6) (field w 0 6))
  else if minor w / 4 = 1 then .ok (.amin (field w 18 2) (field w 12 6) (field w 6 6) (field w 0 6))
  else if minor w / 4 = 2 then .ok (.amax (field w 18 2) (field w 12 6) (field w 6 6) (field w 0 6))
  else if minor w / 4 = 3 then .ok (.aand (field w 18 2) (field w 12 6) (field w 6 6) (field w 0 6))
  else if minor w / 4 = 4 then .ok (.aor (field w 18 2) (field w 12 6) (field w 6 6) (field w 0 6))
  else if minor w / 4 = 5 then .ok (.axor (field w 18 2) (field w 12 6) (field w 6 6) (field w 0 6))
  else if minor w / 4 = 6 then .ok (.axch (field w 18 2) (field w 12 6) (field w 6 6) (field w 0 6))
  else if minor w / 4 = 7 then .ok (.ainc (field w 18 2) (field w 12 6) (field w 6 6) (field w 0 6))
  else .error .reservedMinor

/-- Words of major 0x36. -/
def decode36 (w : BitVec 32) : Except DecodeError Instr :=
  if minor w / 4 = 0 then checked w 0x0003F000#32 (.redAdd (field w 18 2) (field w 6 6) (field w 0 6))
  else if minor w / 4 = 1 then checked w 0x0003F000#32 (.redMin (field w 18 2) (field w 6 6) (field w 0 6))
  else if minor w / 4 = 2 then checked w 0x0003F000#32 (.redMax (field w 18 2) (field w 6 6) (field w 0 6))
  else if minor w / 4 = 3 then checked w 0x0003F000#32 (.redAnd (field w 18 2) (field w 6 6) (field w 0 6))
  else if minor w / 4 = 4 then checked w 0x0003F000#32 (.redOr (field w 18 2) (field w 6 6) (field w 0 6))
  else if minor w / 4 = 5 then checked w 0x0003F000#32 (.redXor (field w 18 2) (field w 6 6) (field w 0 6))
  else .error .reservedMinor

/-- Words of major 0x37. -/
def decode37 (w : BitVec 32) : Except DecodeError Instr :=
  if minor w / 4 = 0 then checked w 0x0003FFFF#32 (.fence (field w 18 2))
  else if minor w = 4 then checked w 0x0003F000#32 (.xfence (field w 6 6) (field w 0 6))
  else .error .reservedMinor

/-- Words of major 0x38. -/
def decode38 (w : BitVec 32) : Except DecodeError Instr :=
  if minor w = 0 then checked w 0x0003F000#32 (.mstr (field w 6 6) (field w 0 6))
  else if minor w = 1 then checked w 0x0003F03F#32 (.mstrP (field w 6 6))
  else if minor w = 2 then checked w 0x0003F03F#32 (.mzero (field w 6 6))
  else if minor w = 3 then checked w 0x0003FFFF#32 (.mswap)
  else if minor w = 4 then checked w 0x0000003F#32 (.mpark (field w 12 6) (field w 6 6))
  else if minor w = 5 then checked w 0x0003F000#32 (.munpark (field w 6 6) (field w 0 6))
  else if minor w = 6 then checked w 0x0003F000#32 (.mlds (field w 6 6) (field w 0 6))
  else if minor w = 7 then checked w 0x0003F03F#32 (.obrel (field w 6 6))
  else .error .reservedMinor

/-- Words of major 0x3A. -/
def decode3A (w : BitVec 32) : Except DecodeError Instr :=
  if minor w = 0 then checked w 0x0000003F#32 (.credAdd (field w 12 6) (field w 6 6))
  else if minor w = 1 then checked w 0x0000003F#32 (.credMax (field w 12 6) (field w 6 6))
  else if minor w = 2 then checked w 0x0000003F#32 (.credMin (field w 12 6) (field w 6 6))
  else if minor w = 3 then checked w 0x0000003F#32 (.credSmerge (field w 12 6) (field w 6 6))
  else .error .reservedMinor

/-- Words of major 0x3B. -/
def decode3B (w : BitVec 32) : Except DecodeError Instr :=
  if minor w = 0 then checked w 0x0003F000#32 (.binit (field w 6 6) (field w 0 6))
  else if minor w = 1 then checked w 0x0003F000#32 (.barr (field w 6 6) (field w 0 6))
  else if minor w = 2 then .ok (.bexp (field w 12 6) (field w 6 6) (field w 0 6))
  else if minor w = 3 then checked w 0x0003F000#32 (.bwait (field w 6 6) (field w 0 6))
  else if minor w = 4 then .ok (.btest (field w 12 6) (field w 6 6) (field w 0 6))
  else if minor w = 5 then checked w 0x0003F03F#32 (.sestop (field w 6 6))
  else if minor w = 6 then checked w 0x0003F03F#32 (.seresume (field w 6 6))
  else if minor w = 7 then checked w 0x0000003F#32 (.seqry (field w 12 6) (field w 6 6))
  else .error .reservedMinor

/-- Words of major 0x3C. -/
def decode3C (w : BitVec 32) : Except DecodeError Instr :=
  if minor w = 0 then checked w 0x0000003F#32 (.qpush (field w 12 6) (field w 6 6))
  else if minor w = 1 then checked w 0x0000003F#32 (.qpop (field w 12 6) (field w 6 6))
  else if minor w = 2 then checked w 0x0000003F#32 (.qown (field w 12 6) (field w 6 6))
  else if minor w = 3 then checked w 0x0003F03F#32 (.qownRel (field w 6 6))
  else if minor w = 4 then checked w 0x0003F03F#32 (.bxcopy (field w 6 6))
  else .error .reservedMinor

/-- Words of major 0x3D. -/
def decode3D (w : BitVec 32) : Except DecodeError Instr :=
  if minor w = 0 then .ok (.tld (field w 12 6) (field w 6 6) (field w 0 6))
  else if minor w = 1 then .ok (.tst (field w 12 6) (field w 6 6) (field w 0 6))
  else if minor w = 2 then checked w 0x0000003F#32 (.axperm (field w 12 6) (field w 6 6))
  else if minor w = 3 then .ok (.axqry (field w 12 6) (field w 6 6) (field w 0 6))
  else if minor w = 4 then checked w 0x0003FFFF#32 (.axfence)
  else if minor w = 8 then checked w 0x0003F03F#32 (.axinvCore (field w 6 6))
  else if minor w = 9 then checked w 0x0003F03F#32 (.axinvCns (field w 6 6))
  else if minor w = 10 then checked w 0x0003F03F#32 (.axinvDev (field w 6 6))
  else .error .reservedMinor

/-- Words of major 0x3E. -/
def decode3E (w : BitVec 32) : Except DecodeError Instr :=
  if minor w = 0 then checked w 0x0003F000#32 (.axset (field w 6 6) (field w 0 6))
  else if minor w = 1 then checked w 0x0003F000#32 (.axins (field w 6 6) (field w 0 6))
  else if minor w = 2 then checked w 0x0003F000#32 (.axdel (field w 6 6) (field w 0 6))
  else .error .reservedMinor

/-- Words of major 0x3F. -/
def decode3F (w : BitVec 32) : Except DecodeError Instr :=
  if minor w = 0 then .ok (.lqcancel (field w 12 6) (field w 6 6) (field w 0 6))
  else if minor w = 1 then checked w 0x0003F000#32 (.exitc (field w 6 6) (field w 0 6))
  else .error .reservedMinor

/-- Words of major 0x40. -/
def decode40 (w : BitVec 32) : Except DecodeError Instr :=
  .ok (.mad (field w 18 6) (field w 12 6) (field w 6 6) (field w 0 6))

/-- Words of major 0x41. -/
def decode41 (w : BitVec 32) : Except DecodeError Instr :=
  .ok (.bfx (field w 18 6) (field w 12 6) (field w 6 6) (field w 0 6))

/-- Words of major 0x42. -/
def decode42 (w : BitVec 32) : Except DecodeError Instr :=
  .ok (.bfi (field w 18 6) (field w 12 6) (field w 6 6) (field w 0 6))

/-- Words of major 0x43. -/
def decode43 (w : BitVec 32) : Except DecodeError Instr :=
  .ok (.lea (field w 18 6) (field w 12 6) (field w 6 6) (field w 0 6))

/-- Words of major 0x44. -/
def decode44 (w : BitVec 32) : Except DecodeError Instr :=
  .ok (.sel (field w 18 6) (field w 12 6) (field w 6 6) (field w 0 6))

/-- Words of major 0x4C. -/
def decode4C (w : BitVec 32) : Except DecodeError Instr :=
  .ok (.cas (field w 24 2) (field w 18 6) (field w 12 6) (field w 6 6) (field w 0 6))

/-- Words of major 0x4D. -/
def decode4D (w : BitVec 32) : Except DecodeError Instr :=
  .ok (.cas (field w 24 2) (field w 18 6) (field w 12 6) (field w 6 6) (field w 0 6))

/-- Words of major 0x4E. -/
def decode4E (w : BitVec 32) : Except DecodeError Instr :=
  .ok (.cas (field w 24 2) (field w 18 6) (field w 12 6) (field w 6 6) (field w 0 6))

/-- Words of major 0x4F. -/
def decode4F (w : BitVec 32) : Except DecodeError Instr :=
  .ok (.cas (field w 24 2) (field w 18 6) (field w 12 6) (field w 6 6) (field w 0 6))

/-- Words of major 0x50. -/
def decode50 (w : BitVec 32) : Except DecodeError Instr :=
  checked w 0x0000003F#32 (.obres (field w 18 6) (field w 12 6) (field w 6 6))

/-- Words of major 0x51. -/
def decode51 (w : BitVec 32) : Except DecodeError Instr :=
  .ok (.mdrn (field w 18 6) (field w 12 6) (field w 6 6) (field w 0 6))

/-- Words of major 0x60. -/
def decode60 (w : BitVec 32) : Except DecodeError Instr :=
  .ok (.addi (field w 18 6) (field w 12 6) (field w 0 12))

/-- Words of major 0x61. -/
def decode61 (w : BitVec 32) : Except DecodeError Instr :=
  .ok (.andi (field w 18 6) (field w 12 6) (field w 0 12))

/-- Words of major 0x62. -/
def decode62 (w : BitVec 32) : Except DecodeError Instr :=
  .ok (.ori (field w 18 6) (field w 12 6) (field w 0 12))

/-- Words of major 0x63. -/
def decode63 (w : BitVec 32) : Except DecodeError Instr :=
  .ok (.xori (field w 18 6) (field w 12 6) (field w 0 12))

/-- Words of major 0x64. -/
def decode64 (w : BitVec 32) : Except DecodeError Instr :=
  checked w 0x00000FC0#32 (.shli (field w 18 6) (field w 12 6) (field w 0 6))

/-- Words of major 0x65. -/
def decode65 (w : BitVec 32) : Except DecodeError Instr :=
  checked w 0x00000FC0#32 (.shri (field w 18 6) (field w 12 6) (field w 0 6))

/-- Words of major 0x66. -/
def decode66 (w : BitVec 32) : Except DecodeError Instr :=
  checked w 0x00000FC0#32 (.sari (field w 18 6) (field w 12 6) (field w 0 6))

/-- Words of major 0x6C. -/
def decode6C (w : BitVec 32) : Except DecodeError Instr :=
  .ok (.ld (field w 18 6) (field w 12 6) (field w 0 12))

/-- Words of major 0x6D. -/
def decode6D (w : BitVec 32) : Except DecodeError Instr :=
  .ok (.st (field w 18 6) (field w 12 6) (field w 0 12))

/-- Words of major 0x6E. -/
def decode6E (w : BitVec 32) : Except DecodeError Instr :=
  .ok (.ld2 (field w 18 6) (field w 12 6) (field w 0 12))

/-- Words of major 0x6F. -/
def decode6F (w : BitVec 32) : Except DecodeError Instr :=
  .ok (.st2 (field w 18 6) (field w 12 6) (field w 0 12))

/-- Words of major 0x70. -/
def decode70 (w : BitVec 32) : Except DecodeError Instr :=
  .ok (.ld4 (field w 18 6) (field w 12 6) (field w 0 12))

/-- Words of major 0x71. -/
def decode71 (w : BitVec 32) : Except DecodeError Instr :=
  .ok (.st4 (field w 18 6) (field w 12 6) (field w 0 12))

/-- Words of major 0x72. -/
def decode72 (w : BitVec 32) : Except DecodeError Instr :=
  .ok (.lds (field w 18 6) (field w 12 6) (field w 0 12))

/-- Words of major 0x73. -/
def decode73 (w : BitVec 32) : Except DecodeError Instr :=
  .ok (.sts (field w 18 6) (field w 12 6) (field w 0 12))

/-- Words of major 0x74. -/
def decode74 (w : BitVec 32) : Except DecodeError Instr :=
  .ok (.obld (field w 18 6) (field w 12 6) (field w 0 12))

/-- Words of major 0x75. -/
def decode75 (w : BitVec 32) : Except DecodeError Instr :=
  checked w 0x0003F000#32 (.mstat (field w 18 6) (field w 0 12))

/-- Words of major 0x78. -/
def decode78 (w : BitVec 32) : Except DecodeError Instr :=
  checked w 0x00000FE0#32 (.sego (field w 18 6) (field w 12 6) (field w 0 5))

/-- Words of major 0x79. -/
def decode79 (w : BitVec 32) : Except DecodeError Instr :=
  checked w 0x00FC0FE0#32 (.catset (field w 12 6) (field w 0 5))

/-- Words of major 0x7A. -/
def decode7A (w : BitVec 32) : Except DecodeError Instr :=
  checked w 0x00FC0FE0#32 (.wrel (field w 12 6) (field w 0 5))

/-- Words of major 0x7B. -/
def decode7B (w : BitVec 32) : Except DecodeError Instr :=
  checked w 0x00FC0FFC#32 (.dectbl (field w 12 6) (field w 0 2))

/-- Words of major 0x7C. -/
def decode7C (w : BitVec 32) : Except DecodeError Instr :=
  .ok (.tdld (field w 18 6) (field w 12 6) (field w 0 12))

/-- Words of major 0x7D. -/
def decode7D (w : BitVec 32) : Except DecodeError Instr :=
  .ok (.tdst (field w 18 6) (field w 12 6) (field w 0 12))

/-- Words of major 0x7E. -/
def decode7E (w : BitVec 32) : Except DecodeError Instr :=
  checked w 0x00000FC0#32 (.lqpush (field w 18 6) (field w 12 6) (field w 0 6))

/-- Words of major 0x7F. -/
def decode7F (w : BitVec 32) : Except DecodeError Instr :=
  checked w 0x0003FF00#32 (.lqstat (field w 18 6) (field w 6 2) (field w 0 6))

/-- Words of major 0x80. -/
def decode80 (w : BitVec 32) : Except DecodeError Instr :=
  .ok (.ldi (field w 18 6) (field w 0 18))

/-- Words of major 0x81. -/
def decode81 (w : BitVec 32) : Except DecodeError Instr :=
  .ok (.ldih (field w 18 6) (field w 0 18))

/-- Words of major 0x88. -/
def decode88 (w : BitVec 32) : Except DecodeError Instr :=
  checked w 0x00FC0000#32 (.wait (field w 13 5) (field w 8 5) (field w 3 5) (field w 0 3))

/-- Words of major 0x89. -/
def decode89 (w : BitVec 32) : Except DecodeError Instr :=
  .ok (.setm (field w 0 24))

/-- Words of major 0x8A. -/
def decode8A (w : BitVec 32) : Except DecodeError Instr :=
  checked w 0x00FFFF00#32 (.setmH (field w 0 8))

/-- Words of major 0x8B. -/
def decode8B (w : BitVec 32) : Except DecodeError Instr :=
  checked w 0x0003FF80#32 (.fanset (field w 18 6) (field w 0 7))

/-- Words of major 0x8C. -/
def decode8C (w : BitVec 32) : Except DecodeError Instr :=
  checked w 0x00FFFFE0#32 (.catclr (field w 0 5))

/-- Words of major 0x8D. -/
def decode8D (w : BitVec 32) : Except DecodeError Instr :=
  checked w 0x0003FFC0#32 (.catqry (field w 18 6) (field w 5 1) (field w 0 5))

/-- Words of major 0xA0. -/
def decodeA0 (w : BitVec 32) : Except DecodeError Instr :=
  if field w 18 6 = 63#6 then .ok (.br (field w 0 18)) else .error .badCond

/-- Words of major 0xA1. -/
def decodeA1 (w : BitVec 32) : Except DecodeError Instr :=
  .ok (.brp (field w 18 6) (field w 0 18))

/-- Words of major 0xA2. -/
def decodeA2 (w : BitVec 32) : Except DecodeError Instr :=
  .ok (.bra (field w 18 6) (field w 0 18))

/-- Words of major 0xA3. -/
def decodeA3 (w : BitVec 32) : Except DecodeError Instr :=
  .ok (.brn (field w 18 6) (field w 0 18))

/-- Words of major 0xA4. -/
def decodeA4 (w : BitVec 32) : Except DecodeError Instr :=
  if field w 18 6 = 63#6 then .ok (.call (field w 0 18)) else .error .badCond

/-- Words of major 0xC0. -/
def decodeC0 (w : BitVec 32) : Except DecodeError Instr :=
  checked w 0x0000003F#32 (.rep (field w 18 6) (field w 15 3) (field w 12 3) (field w 9 3) (field w 6 3))

/-- The decoder: step 2 of 03 R75 on one word. -/
def decodeWord (w : BitVec 32) : Except DecodeError Instr :=
  if major w = 0x01 then decode01 w
  else if major w = 0x02 then decode02 w
  else if major w = 0x03 then decode03 w
  else if major w = 0x04 then decode04 w
  else if major w = 0x05 then decode05 w
  else if major w = 0x06 then decode06 w
  else if major w = 0x07 then decode07 w
  else if major w = 0x08 then decode08 w
  else if major w = 0x09 then decode09 w
  else if major w = 0x0A then decode0A w
  else if major w = 0x0B then decode0B w
  else if major w = 0x30 then decode30 w
  else if major w = 0x31 then decode31 w
  else if major w = 0x32 then decode32 w
  else if major w = 0x33 then decode33 w
  else if major w = 0x34 then decode34 w
  else if major w = 0x35 then decode35 w
  else if major w = 0x36 then decode36 w
  else if major w = 0x37 then decode37 w
  else if major w = 0x38 then decode38 w
  else if major w = 0x3A then decode3A w
  else if major w = 0x3B then decode3B w
  else if major w = 0x3C then decode3C w
  else if major w = 0x3D then decode3D w
  else if major w = 0x3E then decode3E w
  else if major w = 0x3F then decode3F w
  else if major w = 0x40 then decode40 w
  else if major w = 0x41 then decode41 w
  else if major w = 0x42 then decode42 w
  else if major w = 0x43 then decode43 w
  else if major w = 0x44 then decode44 w
  else if major w = 0x4C then decode4C w
  else if major w = 0x4D then decode4D w
  else if major w = 0x4E then decode4E w
  else if major w = 0x4F then decode4F w
  else if major w = 0x50 then decode50 w
  else if major w = 0x51 then decode51 w
  else if major w = 0x60 then decode60 w
  else if major w = 0x61 then decode61 w
  else if major w = 0x62 then decode62 w
  else if major w = 0x63 then decode63 w
  else if major w = 0x64 then decode64 w
  else if major w = 0x65 then decode65 w
  else if major w = 0x66 then decode66 w
  else if major w = 0x6C then decode6C w
  else if major w = 0x6D then decode6D w
  else if major w = 0x6E then decode6E w
  else if major w = 0x6F then decode6F w
  else if major w = 0x70 then decode70 w
  else if major w = 0x71 then decode71 w
  else if major w = 0x72 then decode72 w
  else if major w = 0x73 then decode73 w
  else if major w = 0x74 then decode74 w
  else if major w = 0x75 then decode75 w
  else if major w = 0x78 then decode78 w
  else if major w = 0x79 then decode79 w
  else if major w = 0x7A then decode7A w
  else if major w = 0x7B then decode7B w
  else if major w = 0x7C then decode7C w
  else if major w = 0x7D then decode7D w
  else if major w = 0x7E then decode7E w
  else if major w = 0x7F then decode7F w
  else if major w = 0x80 then decode80 w
  else if major w = 0x81 then decode81 w
  else if major w = 0x88 then decode88 w
  else if major w = 0x89 then decode89 w
  else if major w = 0x8A then decode8A w
  else if major w = 0x8B then decode8B w
  else if major w = 0x8C then decode8C w
  else if major w = 0x8D then decode8D w
  else if major w = 0xA0 then decodeA0 w
  else if major w = 0xA1 then decodeA1 w
  else if major w = 0xA2 then decodeA2 w
  else if major w = 0xA3 then decodeA3 w
  else if major w = 0xA4 then decodeA4 w
  else if major w = 0xC0 then decodeC0 w
  else .error .reservedMajor

/-- The field `lo..lo+n-1` of a stream word. -/
def sfield (w : BitVec 64) (lo n : Nat) : BitVec n := w.extractLsb' lo n

/-- The op of a stream word, bits [63:56] (11 R257). -/
def streamOp (w : BitVec 64) : Nat := (sfield w 56 8).toNat

/-- The decoder of a stream word (11 R257): the op, ra, rb, rc and imm40. Bits [43:40] are zero; the ranges of the
operands of each operation are checked when the word is reached (R258 to R265). -/
def decodeStream (w : BitVec 64) : Except DecodeError Instr :=
  let ra := sfield w 52 4
  let rb := sfield w 48 4
  let rc := sfield w 44 4
  let imm := sfield w 0 40
  if streamOp w = 0 ∨ 16 < streamOp w then .error .reservedOp
  else if sfield w 40 4 ≠ 0#4 then .error .streamUnused
  else if streamOp w = 1 then .ok (.seSet ra rb rc imm)
  else if streamOp w = 2 then .ok (.seAdd ra rb rc imm)
  else if streamOp w = 3 then .ok (.seMul ra rb rc imm)
  else if streamOp w = 4 then .ok (.seLoop ra rb rc imm)
  else if streamOp w = 5 then .ok (.seNext ra rb rc imm)
  else if streamOp w = 6 then .ok (.seJmp ra rb rc imm)
  else if streamOp w = 7 then .ok (.seStop ra rb rc imm)
  else if streamOp w = 8 then .ok (.seCoord ra rb rc imm)
  else if streamOp w = 9 then .ok (.seFetch ra rb rc imm)
  else if streamOp w = 10 then .ok (.seWaitf ra rb rc imm)
  else if streamOp w = 11 then .ok (.seExpect ra rb rc imm)
  else if streamOp w = 12 then .ok (.seGather ra rb rc imm)
  else if streamOp w = 13 then .ok (.seKvfetch ra rb rc imm)
  else if streamOp w = 14 then .ok (.seSignal ra rb rc imm)
  else if streamOp w = 15 then .ok (.seFence ra rb rc imm)
  else .ok (.seMark ra rb rc imm)

/-- The bytes of a core word at `PC`: four, the least significant first (03 R67). -/
def wordBytes (w : BitVec 32) : List Byte :=
  [w.extractLsb' 0 8, w.extractLsb' 8 8, w.extractLsb' 16 8, w.extractLsb' 24 8]

/-- A little-endian word of four bytes, and the bytes after it. -/
def bytesWord : List Byte → Option (BitVec 32 × List Byte)
  | b0 :: b1 :: b2 :: b3 :: rest => some (b3 ++ b2 ++ b1 ++ b0, rest)
  | _ => none

/-- The decoder on bytes: an instruction and the bytes after it, or none. -/
def decodeBytes (bs : List Byte) : Option (Instr × List Byte) :=
  match bytesWord bs with
  | none => none
  | some (w, rest) =>
    match decodeWord w with
    | .ok i => some (i, rest)
    | .error _ => none

/-- The instruction read from a word numbered as spec/opcode_table.json numbers its bits: `nbits` 64 names a stream
word, any other width a core word. -/
def decodeTableWord (nbits w : Nat) : Option Instr :=
  if nbits = 64 then
    match decodeStream (BitVec.ofNat 64 w) with
    | .ok i => some i
    | .error _ => none
  else
    match decodeBytes (wordBytes (BitVec.ofNat 32 w)) with
    | some (i, _) => some i
    | none => none

/-- The word of an instruction (03 R68, R79, R84). Stream words and steps of the device have no 32-bit word. -/
def encode : Instr → Option (BitVec 32)
  | .add d a b => some (0x1#8 ++ 0x0#6 ++ d ++ a ++ b)
  | .sub d a b => some (0x1#8 ++ 0x1#6 ++ d ++ a ++ b)
  | .mul d a b => some (0x1#8 ++ 0x2#6 ++ d ++ a ++ b)
  | .mulh d a b => some (0x1#8 ++ 0x3#6 ++ d ++ a ++ b)
  | .min d a b => some (0x1#8 ++ 0x4#6 ++ d ++ a ++ b)
  | .max d a b => some (0x1#8 ++ 0x5#6 ++ d ++ a ++ b)
  | .div d a b => some (0x1#8 ++ 0x6#6 ++ d ++ a ++ b)
  | .rem d a b => some (0x1#8 ++ 0x7#6 ++ d ++ a ++ b)
  | .abs d a => some (0x2#8 ++ 0x0#6 ++ d ++ a ++ 0x0#6)
  | .neg d a => some (0x2#8 ++ 0x1#6 ++ d ++ a ++ 0x0#6)
  | .sqrt d a => some (0x2#8 ++ 0x2#6 ++ d ++ a ++ 0x0#6)
  | .rcp d a => some (0x2#8 ++ 0x3#6 ++ d ++ a ++ 0x0#6)
  | .rsq d a => some (0x2#8 ++ 0x4#6 ++ d ++ a ++ 0x0#6)
  | .exp2 d a => some (0x2#8 ++ 0x5#6 ++ d ++ a ++ 0x0#6)
  | .log2 d a => some (0x2#8 ++ 0x6#6 ++ d ++ a ++ 0x0#6)
  | .sin d a => some (0x2#8 ++ 0x7#6 ++ d ++ a ++ 0x0#6)
  | .cos d a => some (0x2#8 ++ 0x8#6 ++ d ++ a ++ 0x0#6)
  | .and d a b => some (0x3#8 ++ 0x0#6 ++ d ++ a ++ b)
  | .or d a b => some (0x3#8 ++ 0x1#6 ++ d ++ a ++ b)
  | .xor d a b => some (0x3#8 ++ 0x2#6 ++ d ++ a ++ b)
  | .andn d a b => some (0x3#8 ++ 0x3#6 ++ d ++ a ++ b)
  | .not d a => some (0x3#8 ++ 0x4#6 ++ d ++ a ++ 0x0#6)
  | .shl d a b => some (0x3#8 ++ 0x5#6 ++ d ++ a ++ b)
  | .shr d a b => some (0x3#8 ++ 0x6#6 ++ d ++ a ++ b)
  | .sar d a b => some (0x3#8 ++ 0x7#6 ++ d ++ a ++ b)
  | .rot d a b => some (0x3#8 ++ 0x8#6 ++ d ++ a ++ b)
  | .popc d a => some (0x3#8 ++ 0x9#6 ++ d ++ a ++ 0x0#6)
  | .clz d a => some (0x3#8 ++ 0xA#6 ++ d ++ a ++ 0x0#6)
  | .brev d a => some (0x3#8 ++ 0xB#6 ++ d ++ a ++ 0x0#6)
  | .cvt k d a b => some (0x4#8 ++ k ++ d ++ a ++ b)
  | .cmpEq d a b => some (0x5#8 ++ 0x0#6 ++ d ++ a ++ b)
  | .cmpNe d a b => some (0x5#8 ++ 0x1#6 ++ d ++ a ++ b)
  | .cmpLt d a b => some (0x5#8 ++ 0x2#6 ++ d ++ a ++ b)
  | .cmpLe d a b => some (0x5#8 ++ 0x3#6 ++ d ++ a ++ b)
  | .cmpGt d a b => some (0x5#8 ++ 0x4#6 ++ d ++ a ++ b)
  | .cmpGe d a b => some (0x5#8 ++ 0x5#6 ++ d ++ a ++ b)
  | .cmpUn d a b => some (0x5#8 ++ 0x6#6 ++ d ++ a ++ b)
  | .cmpClass d a b => some (0x5#8 ++ 0x7#6 ++ d ++ a ++ b)
  | .mov d a => some (0x6#8 ++ 0x0#6 ++ d ++ a ++ 0x0#6)
  | .movw d a => some (0x6#8 ++ 0x1#6 ++ d ++ a ++ 0x0#6)
  | .wmov d a => some (0x6#8 ++ 0x2#6 ++ d ++ a ++ 0x0#6)
  | .pand d a b => some (0x7#8 ++ 0x0#6 ++ d ++ a ++ b)
  | .por d a b => some (0x7#8 ++ 0x1#6 ++ d ++ a ++ b)
  | .pxor d a b => some (0x7#8 ++ 0x2#6 ++ d ++ a ++ b)
  | .pnot d a => some (0x7#8 ++ 0x3#6 ++ d ++ a ++ 0x0#6)
  | .pmov d a => some (0x7#8 ++ 0x4#6 ++ d ++ a ++ 0x0#6)
  | .shfl d a b => some (0x8#8 ++ 0x0#6 ++ d ++ a ++ b)
  | .shflup d a b => some (0x8#8 ++ 0x1#6 ++ d ++ a ++ b)
  | .shfldn d a b => some (0x8#8 ++ 0x2#6 ++ d ++ a ++ b)
  | .shflx d a b => some (0x8#8 ++ 0x3#6 ++ d ++ a ++ b)
  | .ballot d a => some (0x9#8 ++ 0x0#6 ++ d ++ a ++ 0x0#6)
  | .vany d a => some (0x9#8 ++ 0x1#6 ++ d ++ a ++ 0x0#6)
  | .vall d a => some (0x9#8 ++ 0x2#6 ++ d ++ a ++ 0x0#6)
  | .match d a => some (0x9#8 ++ 0x3#6 ++ d ++ a ++ 0x0#6)
  | .rngsplit a b => some (0xA#8 ++ 0x0#6 ++ 0x0#6 ++ a ++ b)
  | .rngnext d => some (0xA#8 ++ 0x1#6 ++ d ++ 0x0#6 ++ 0x0#6)
  | .rngf d => some (0xA#8 ++ 0x2#6 ++ d ++ 0x0#6 ++ 0x0#6)
  | .srd d a => some (0xB#8 ++ 0x0#6 ++ d ++ a ++ 0x0#6)
  | .mad d a b c => some (0x40#8 ++ d ++ a ++ b ++ c)
  | .bfx d a b c => some (0x41#8 ++ d ++ a ++ b ++ c)
  | .bfi d a b c => some (0x42#8 ++ d ++ a ++ b ++ c)
  | .lea d a b c => some (0x43#8 ++ d ++ a ++ b ++ c)
  | .sel d a b c => some (0x44#8 ++ d ++ a ++ b ++ c)
  | .addi d a i => some (0x60#8 ++ d ++ a ++ i)
  | .andi d a i => some (0x61#8 ++ d ++ a ++ i)
  | .ori d a i => some (0x62#8 ++ d ++ a ++ i)
  | .xori d a i => some (0x63#8 ++ d ++ a ++ i)
  | .shli d a i => some (0x64#8 ++ d ++ a ++ 0x0#6 ++ i)
  | .shri d a i => some (0x65#8 ++ d ++ a ++ 0x0#6 ++ i)
  | .sari d a i => some (0x66#8 ++ d ++ a ++ 0x0#6 ++ i)
  | .ldi d i => some (0x80#8 ++ d ++ i)
  | .ldih d i => some (0x81#8 ++ d ++ i)
  | .br o => some (0xA0#8 ++ 0x3F#6 ++ o)
  | .brp c o => some (0xA1#8 ++ c ++ o)
  | .bra c o => some (0xA2#8 ++ c ++ o)
  | .brn c o => some (0xA3#8 ++ c ++ o)
  | .call o => some (0xA4#8 ++ 0x3F#6 ++ o)
  | .callr a => some (0x30#8 ++ 0x0#6 ++ 0x0#6 ++ a ++ 0x0#6)
  | .ret => some (0x30#8 ++ 0x1#6 ++ 0x0#6 ++ 0x0#6 ++ 0x0#6)
  | .jmpr a => some (0x30#8 ++ 0x2#6 ++ 0x0#6 ++ a ++ 0x0#6)
  | .exit => some (0x30#8 ++ 0x3#6 ++ 0x0#6 ++ 0x0#6 ++ 0x0#6)
  | .jset d a => some (0x31#8 ++ 0x0#6 ++ d ++ a ++ 0x0#6)
  | .jsetAct d => some (0x31#8 ++ 0x1#6 ++ d ++ 0x0#6 ++ 0x0#6)
  | .jarr => some (0x31#8 ++ 0x2#6 ++ 0x0#6 ++ 0x0#6 ++ 0x0#6)
  | .jwait => some (0x31#8 ++ 0x3#6 ++ 0x0#6 ++ 0x0#6 ++ 0x0#6)
  | .regang a => some (0x31#8 ++ 0x4#6 ++ 0x0#6 ++ a ++ 0x0#6)
  | .setmv a => some (0x32#8 ++ 0x0#6 ++ 0x0#6 ++ a ++ 0x0#6)
  | .getm d => some (0x32#8 ++ 0x1#6 ++ d ++ 0x0#6 ++ 0x0#6)
  | .drain => some (0x32#8 ++ 0x2#6 ++ 0x0#6 ++ 0x0#6 ++ 0x0#6)
  | .nop => some (0x32#8 ++ 0x3#6 ++ 0x0#6 ++ 0x0#6 ++ 0x0#6)
  | .yield => some (0x32#8 ++ 0x4#6 ++ 0x0#6 ++ 0x0#6 ++ 0x0#6)
  | .trap c => some (0x32#8 ++ 0x5#6 ++ c)
  | .tret => some (0x32#8 ++ 0x6#6 ++ 0x0#6 ++ 0x0#6 ++ 0x0#6)
  | .bkpt c => some (0x32#8 ++ 0x7#6 ++ c)
  | .setm v => some (0x89#8 ++ v)
  | .setmH v => some (0x8A#8 ++ 0x0#6 ++ 0x0#6 ++ 0x0#4 ++ v)
  | .fanset d m => some (0x8B#8 ++ d ++ 0x0#6 ++ 0x0#5 ++ m)
  | .rep n d a b c => some (0xC0#8 ++ n ++ d ++ a ++ b ++ c ++ 0x0#6)
  | .wait l s c t => some (0x88#8 ++ 0x0#6 ++ l ++ s ++ c ++ t)
  | .ldxZb d a b => some (0x34#8 ++ 0x0#6 ++ d ++ a ++ b)
  | .ldxSb d a b => some (0x34#8 ++ 0x1#6 ++ d ++ a ++ b)
  | .ldxZh d a b => some (0x34#8 ++ 0x2#6 ++ d ++ a ++ b)
  | .ldxSh d a b => some (0x34#8 ++ 0x3#6 ++ d ++ a ++ b)
  | .ldxW d a b => some (0x34#8 ++ 0x4#6 ++ d ++ a ++ b)
  | .ldxD d a b => some (0x34#8 ++ 0x5#6 ++ d ++ a ++ b)
  | .stxB d a b => some (0x34#8 ++ 0x8#6 ++ d ++ a ++ b)
  | .stxH d a b => some (0x34#8 ++ 0x9#6 ++ d ++ a ++ b)
  | .stxW d a b => some (0x34#8 ++ 0xA#6 ++ d ++ a ++ b)
  | .stxD d a b => some (0x34#8 ++ 0xB#6 ++ d ++ a ++ b)
  | .lda s d a => some (0x34#8 ++ 0x4#4 ++ s ++ d ++ a ++ 0x0#6)
  | .stl s d a => some (0x34#8 ++ 0x5#4 ++ s ++ d ++ a ++ 0x0#6)
  | .pref d a => some (0x34#8 ++ 0x18#6 ++ d ++ a ++ 0x0#6)
  | .aadd s d a b => some (0x35#8 ++ 0x0#4 ++ s ++ d ++ a ++ b)
  | .amin s d a b => some (0x35#8 ++ 0x1#4 ++ s ++ d ++ a ++ b)
  | .amax s d a b => some (0x35#8 ++ 0x2#4 ++ s ++ d ++ a ++ b)
  | .aand s d a b => some (0x35#8 ++ 0x3#4 ++ s ++ d ++ a ++ b)
  | .aor s d a b => some (0x35#8 ++ 0x4#4 ++ s ++ d ++ a ++ b)
  | .axor s d a b => some (0x35#8 ++ 0x5#4 ++ s ++ d ++ a ++ b)
  | .axch s d a b => some (0x35#8 ++ 0x6#4 ++ s ++ d ++ a ++ b)
  | .ainc s d a b => some (0x35#8 ++ 0x7#4 ++ s ++ d ++ a ++ b)
  | .redAdd s a b => some (0x36#8 ++ 0x0#4 ++ s ++ 0x0#6 ++ a ++ b)
  | .redMin s a b => some (0x36#8 ++ 0x1#4 ++ s ++ 0x0#6 ++ a ++ b)
  | .redMax s a b => some (0x36#8 ++ 0x2#4 ++ s ++ 0x0#6 ++ a ++ b)
  | .redAnd s a b => some (0x36#8 ++ 0x3#4 ++ s ++ 0x0#6 ++ a ++ b)
  | .redOr s a b => some (0x36#8 ++ 0x4#4 ++ s ++ 0x0#6 ++ a ++ b)
  | .redXor s a b => some (0x36#8 ++ 0x5#4 ++ s ++ 0x0#6 ++ a ++ b)
  | .fence s => some (0x37#8 ++ 0x0#4 ++ s ++ 0x0#6 ++ 0x0#6 ++ 0x0#6)
  | .xfence a b => some (0x37#8 ++ 0x4#6 ++ 0x0#6 ++ a ++ b)
  | .cas s d a b c => some (0x13#6 ++ s ++ d ++ a ++ b ++ c)
  | .ld d a i => some (0x6C#8 ++ d ++ a ++ i)
  | .st d a i => some (0x6D#8 ++ d ++ a ++ i)
  | .ld2 d a i => some (0x6E#8 ++ d ++ a ++ i)
  | .st2 d a i => some (0x6F#8 ++ d ++ a ++ i)
  | .ld4 d a i => some (0x70#8 ++ d ++ a ++ i)
  | .st4 d a i => some (0x71#8 ++ d ++ a ++ i)
  | .lds d a i => some (0x72#8 ++ d ++ a ++ i)
  | .sts d a i => some (0x73#8 ++ d ++ a ++ i)
  | .mstr a b => some (0x38#8 ++ 0x0#6 ++ 0x0#6 ++ a ++ b)
  | .mstrP a => some (0x38#8 ++ 0x1#6 ++ 0x0#6 ++ a ++ 0x0#6)
  | .mzero a => some (0x38#8 ++ 0x2#6 ++ 0x0#6 ++ a ++ 0x0#6)
  | .mswap => some (0x38#8 ++ 0x3#6 ++ 0x0#6 ++ 0x0#6 ++ 0x0#6)
  | .mpark d a => some (0x38#8 ++ 0x4#6 ++ d ++ a ++ 0x0#6)
  | .munpark a b => some (0x38#8 ++ 0x5#6 ++ 0x0#6 ++ a ++ b)
  | .mlds a b => some (0x38#8 ++ 0x6#6 ++ 0x0#6 ++ a ++ b)
  | .obrel a => some (0x38#8 ++ 0x7#6 ++ 0x0#6 ++ a ++ 0x0#6)
  | .credAdd d a => some (0x3A#8 ++ 0x0#6 ++ d ++ a ++ 0x0#6)
  | .credMax d a => some (0x3A#8 ++ 0x1#6 ++ d ++ a ++ 0x0#6)
  | .credMin d a => some (0x3A#8 ++ 0x2#6 ++ d ++ a ++ 0x0#6)
  | .credSmerge d a => some (0x3A#8 ++ 0x3#6 ++ d ++ a ++ 0x0#6)
  | .obres d a b => some (0x50#8 ++ d ++ a ++ b ++ 0x0#6)
  | .mdrn d a b c => some (0x51#8 ++ d ++ a ++ b ++ c)
  | .obld d a i => some (0x74#8 ++ d ++ a ++ i)
  | .mstat d i => some (0x75#8 ++ d ++ 0x0#6 ++ i)
  | .binit a b => some (0x3B#8 ++ 0x0#6 ++ 0x0#6 ++ a ++ b)
  | .barr a b => some (0x3B#8 ++ 0x1#6 ++ 0x0#6 ++ a ++ b)
  | .bexp d a b => some (0x3B#8 ++ 0x2#6 ++ d ++ a ++ b)
  | .bwait a b => some (0x3B#8 ++ 0x3#6 ++ 0x0#6 ++ a ++ b)
  | .btest d a b => some (0x3B#8 ++ 0x4#6 ++ d ++ a ++ b)
  | .sestop a => some (0x3B#8 ++ 0x5#6 ++ 0x0#6 ++ a ++ 0x0#6)
  | .seresume a => some (0x3B#8 ++ 0x6#6 ++ 0x0#6 ++ a ++ 0x0#6)
  | .seqry d a => some (0x3B#8 ++ 0x7#6 ++ d ++ a ++ 0x0#6)
  | .qpush d a => some (0x3C#8 ++ 0x0#6 ++ d ++ a ++ 0x0#6)
  | .qpop d a => some (0x3C#8 ++ 0x1#6 ++ d ++ a ++ 0x0#6)
  | .qown d a => some (0x3C#8 ++ 0x2#6 ++ d ++ a ++ 0x0#6)
  | .qownRel a => some (0x3C#8 ++ 0x3#6 ++ 0x0#6 ++ a ++ 0x0#6)
  | .bxcopy a => some (0x3C#8 ++ 0x4#6 ++ 0x0#6 ++ a ++ 0x0#6)
  | .sego d a e => some (0x78#8 ++ d ++ a ++ 0x0#6 ++ 0x0#1 ++ e)
  | .catset a e => some (0x79#8 ++ 0x0#6 ++ a ++ 0x0#6 ++ 0x0#1 ++ e)
  | .wrel a e => some (0x7A#8 ++ 0x0#6 ++ a ++ 0x0#6 ++ 0x0#1 ++ e)
  | .dectbl a s => some (0x7B#8 ++ 0x0#6 ++ a ++ 0x0#6 ++ 0x0#4 ++ s)
  | .catclr e => some (0x8C#8 ++ 0x0#6 ++ 0x0#6 ++ 0x0#6 ++ 0x0#1 ++ e)
  | .catqry d s e => some (0x8D#8 ++ d ++ 0x0#6 ++ 0x0#6 ++ s ++ e)
  | .tld d a b => some (0x3D#8 ++ 0x0#6 ++ d ++ a ++ b)
  | .tst d a b => some (0x3D#8 ++ 0x1#6 ++ d ++ a ++ b)
  | .axperm d a => some (0x3D#8 ++ 0x2#6 ++ d ++ a ++ 0x0#6)
  | .axqry d a b => some (0x3D#8 ++ 0x3#6 ++ d ++ a ++ b)
  | .axfence => some (0x3D#8 ++ 0x4#6 ++ 0x0#6 ++ 0x0#6 ++ 0x0#6)
  | .axinvCore a => some (0x3D#8 ++ 0x8#6 ++ 0x0#6 ++ a ++ 0x0#6)
  | .axinvCns a => some (0x3D#8 ++ 0x9#6 ++ 0x0#6 ++ a ++ 0x0#6)
  | .axinvDev a => some (0x3D#8 ++ 0xA#6 ++ 0x0#6 ++ a ++ 0x0#6)
  | .axset a b => some (0x3E#8 ++ 0x0#6 ++ 0x0#6 ++ a ++ b)
  | .axins a b => some (0x3E#8 ++ 0x1#6 ++ 0x0#6 ++ a ++ b)
  | .axdel a b => some (0x3E#8 ++ 0x2#6 ++ 0x0#6 ++ a ++ b)
  | .tdld d a i => some (0x7C#8 ++ d ++ a ++ i)
  | .tdst d a i => some (0x7D#8 ++ d ++ a ++ i)
  | .lqcancel d a b => some (0x3F#8 ++ 0x0#6 ++ d ++ a ++ b)
  | .exitc a b => some (0x3F#8 ++ 0x1#6 ++ 0x0#6 ++ a ++ b)
  | .lqpush d a q => some (0x7E#8 ++ d ++ a ++ 0x0#6 ++ q)
  | .lqstat d s q => some (0x7F#8 ++ d ++ 0x0#6 ++ 0x0#4 ++ s ++ q)
  | .swr d a => some (0x33#8 ++ 0x0#6 ++ d ++ a ++ 0x0#6)
  | .tlbinv a b => some (0x33#8 ++ 0x1#6 ++ 0x0#6 ++ a ++ b)
  | .quiesce d a => some (0x33#8 ++ 0x2#6 ++ d ++ a ++ 0x0#6)
  | .ctxsave d a b => some (0x33#8 ++ 0x3#6 ++ d ++ a ++ b)
  | .ctxload d a b => some (0x33#8 ++ 0x4#6 ++ d ++ a ++ b)
  | .splv a b => some (0x33#8 ++ 0x5#6 ++ 0x0#6 ++ a ++ b)
  | .filv a b => some (0x33#8 ++ 0x6#6 ++ 0x0#6 ++ a ++ b)
  | .keysel d a b => some (0x33#8 ++ 0x7#6 ++ d ++ a ++ b)
  | .halt a => some (0x33#8 ++ 0x8#6 ++ 0x0#6 ++ a ++ 0x0#6)
  | _ => none

/-- The word of a stream operation (11 R257). -/
def encodeStream : Instr → Option (BitVec 64)
  | .seSet ra rb rc imm => some (0x01#8 ++ ra ++ rb ++ rc ++ 0#4 ++ imm)
  | .seAdd ra rb rc imm => some (0x02#8 ++ ra ++ rb ++ rc ++ 0#4 ++ imm)
  | .seMul ra rb rc imm => some (0x03#8 ++ ra ++ rb ++ rc ++ 0#4 ++ imm)
  | .seLoop ra rb rc imm => some (0x04#8 ++ ra ++ rb ++ rc ++ 0#4 ++ imm)
  | .seNext ra rb rc imm => some (0x05#8 ++ ra ++ rb ++ rc ++ 0#4 ++ imm)
  | .seJmp ra rb rc imm => some (0x06#8 ++ ra ++ rb ++ rc ++ 0#4 ++ imm)
  | .seStop ra rb rc imm => some (0x07#8 ++ ra ++ rb ++ rc ++ 0#4 ++ imm)
  | .seCoord ra rb rc imm => some (0x08#8 ++ ra ++ rb ++ rc ++ 0#4 ++ imm)
  | .seFetch ra rb rc imm => some (0x09#8 ++ ra ++ rb ++ rc ++ 0#4 ++ imm)
  | .seWaitf ra rb rc imm => some (0x0A#8 ++ ra ++ rb ++ rc ++ 0#4 ++ imm)
  | .seExpect ra rb rc imm => some (0x0B#8 ++ ra ++ rb ++ rc ++ 0#4 ++ imm)
  | .seGather ra rb rc imm => some (0x0C#8 ++ ra ++ rb ++ rc ++ 0#4 ++ imm)
  | .seKvfetch ra rb rc imm => some (0x0D#8 ++ ra ++ rb ++ rc ++ 0#4 ++ imm)
  | .seSignal ra rb rc imm => some (0x0E#8 ++ ra ++ rb ++ rc ++ 0#4 ++ imm)
  | .seFence ra rb rc imm => some (0x0F#8 ++ ra ++ rb ++ rc ++ 0#4 ++ imm)
  | .seMark ra rb rc imm => some (0x10#8 ++ ra ++ rb ++ rc ++ 0#4 ++ imm)
  | _ => none

end Sys2Proof
end

