-- ==== Sys2Proof/Machine/Bits.lean ====
section
/-! DEFINITION. Bit fields, sign extension, lane masks and little-endian byte lists: the small arithmetic that every
meaning uses (00 R7, R11). -/

namespace Sys2Proof.Machine

/-- Bits `[lo + n - 1 : lo]` of a number. -/
def bits (x lo n : Nat) : Nat := x / 2 ^ lo % 2 ^ n

/-- Bit `i` of a number. -/
def bit (x i : Nat) : Bool := x / 2 ^ i % 2 == 1

/-- One for true, zero for false. -/
def b2n (b : Bool) : Nat := if b then 1 else 0

/-- A set of numbers without those of another, each number a bit. -/
def without (x m : Nat) : Nat := Nat.xor x (Nat.land x m)

/-- The `n`-bit two's-complement reading of a number. -/
def signed (n x : Nat) : Int :=
  let y := x % 2 ^ n
  if y < 2 ^ (n - 1) then (y : Int) else (y : Int) - 2 ^ n

/-- An integer reduced modulo `2^n`. -/
def wrap (n : Nat) (x : Int) : Nat := (x % (2 : Int) ^ n).toNat

/-- The whole numbers `0 … n - 1` that satisfy a test. -/
def those (n : Nat) (p : Nat → Bool) : List Nat := (List.range n).filter p

/-- The least number below `n` that satisfies a test. -/
def firstOf (n : Nat) (p : Nat → Bool) : Option Nat := (List.range n).find? p

/-- The mask of the lanes (below 32) that satisfy a test (00 R11). -/
def maskOf (p : Nat → Bool) : Mask :=
  BitVec.ofNat 32 ((List.range 32).foldl (fun m l => if p l then m + 2 ^ l else m) 0)

/-- Lane `l` is in the mask. -/
def has (m : Mask) (l : Nat) : Bool := m.getLsbD l

/-- The lanes of a mask, ascending. -/
def lanesOf (m : Mask) : List Nat := those 32 (has m)

/-- The lowest lane of a mask, or lane 0 for the empty mask. -/
def lowest (m : Mask) : Nat := (firstOf 32 (has m)).getD 0

/-- The lanes of slice `sl` (01 R13). -/
def sliceMask (sl : Nat) : Mask := BitVec.ofNat 32 (15 * 2 ^ (4 * sl))

/-- The lanes of a list of slices. -/
def slicesMask (ss : List Nat) : Mask := maskOf fun l => ss.contains (l / 4)

/-- The lanes of quarter `q` (01 R13). -/
def quarterMask (q : Nat) : Mask := BitVec.ofNat 32 (255 * 2 ^ (8 * q))

/-- The number of one bits below bit `n`. -/
def popCount (n x : Nat) : Nat := ((List.range n).filter (bit x)).length

/-- The position of the highest one bit below bit `n`, plus one; 0 where there is none. -/
def bitLength : (n x : Nat) → Nat
  | 0, _ => 0
  | n + 1, x => if bit x n then n + 1 else bitLength n x

/-- The `n` low bits in reverse order. -/
def bitReverse (n x : Nat) : Nat :=
  (List.range n).foldl (fun r i => r + b2n (bit x i) * 2 ^ (n - 1 - i)) 0

/-- The number that `n` little-endian bytes spell (00 R7). -/
def fromBytes (bs : List Byte) : Nat := bs.foldr (fun b r => b.toNat + 256 * r) 0

/-- The `n` little-endian bytes of a number (00 R7). -/
def toBytes : (n x : Nat) → List Byte
  | 0, _ => []
  | n + 1, x => BitVec.ofNat 8 x :: toBytes n (x / 256)

/-- `⌈x / y⌉`. -/
def ceilDiv (x y : Nat) : Nat := (x + y - 1) / y

/-- A 32-bit word of a number. -/
abbrev w32 (x : Nat) : W32 := BitVec.ofNat 32 x

/-- A 64-bit word of a number. -/
abbrev w64 (x : Nat) : W64 := BitVec.ofNat 64 x

/-- The 64-bit value of an even and odd register (01 R19). -/
def join64 (lo hi : W32) : W64 := hi ++ lo

/-- The low and the high word of a 64-bit value. -/
def lo32 (x : W64) : W32 := x.extractLsb' 0 32
def hi32 (x : W64) : W32 := x.extractLsb' 32 32

/-- The list with the element at position `i` changed by `f`. -/
def modAt {α : Type} (f : α → α) : Nat → List α → List α
  | _, [] => []
  | 0, a :: as => f a :: as
  | i + 1, a :: as => a :: modAt f i as

/-- The list without the element at position `i`. -/
def dropAt {α : Type} : Nat → List α → List α
  | _, [] => []
  | 0, _ :: as => as
  | i + 1, a :: as => a :: dropAt i as

end Sys2Proof.Machine
end

