-- ==== Sys2Proof/Machine/Fmt.lean ====
section
/-! DEFINITION. Number formats, rounding and flags (02 R41 to R60): exact values as signed dyadic numbers, one rounding
function for every format and direction, and the conversions that CVT, the drains and the atomics share. -/

namespace Sys2Proof.Machine

/-- The raised flags of R55, in the bit order of sys.fpflags (01 R37): nv 1, dz 2, of 4, uf 8, nx 16. -/
abbrev Flags := Nat

def nvF : Flags := 1
def dzF : Flags := 2
def ofF : Flags := 4
def ufF : Flags := 8
def nxF : Flags := 16

/-- The union of two sets of flags. -/
def orF (a b : Flags) : Flags := Nat.lor a b

/-- One floating format of R43: exponent and fraction widths, bias, the pattern of the largest finite magnitude, the
patterns of infinity and of the canonical NaN where the format has them. -/
structure Fmt where
  eb : Nat
  fb : Nat
  bias : Nat
  maxPat : Nat
  infPat : Option Nat
  nanPat : Option Nat
  deriving DecidableEq, Repr

def fmt64 : Fmt := ⟨11, 52, 1023, 0x7FEFFFFFFFFFFFFF, some 0x7FF0000000000000, some 0x7FF8000000000000⟩
def fmt32 : Fmt := ⟨8, 23, 127, 0x7F7FFFFF, some 0x7F800000, some 0x7FC00000⟩
def fmt16 : Fmt := ⟨5, 10, 15, 0x7BFF, some 0x7C00, some 0x7E00⟩
def fmtB16 : Fmt := ⟨8, 7, 127, 0x7F7F, some 0x7F80, some 0x7FC0⟩
def fmtE4M3 : Fmt := ⟨4, 3, 7, 0x7E, none, some 0x7F⟩
def fmtE5M2 : Fmt := ⟨5, 2, 15, 0x7B, some 0x7C, some 0x7E⟩
def fmtE2M1 : Fmt := ⟨2, 1, 1, 0x7, none, none⟩

/-- The number of bits of a format. -/
def Fmt.width (f : Fmt) : Nat := 1 + f.eb + f.fb

/-- The exponent of the least significant bit of a subnormal. -/
def Fmt.qmin (f : Fmt) : Int := 1 - (f.bias : Int) - (f.fb : Int)

/-- A decoded element: a NaN (signalling or not), an infinity, or `(-1)^neg · m · 2^e`. -/
inductive Val where
  | nan (sig : Bool)
  | inf (neg : Bool)
  | fin (neg : Bool) (m : Nat) (e : Int)
  deriving DecidableEq, Repr

/-- The value of an element's bits (R43, R44). -/
def Fmt.decode (f : Fmt) (x : Nat) : Val :=
  let neg := bit x (f.eb + f.fb)
  let pat := bits x 0 (f.eb + f.fb)
  let e := bits x f.fb f.eb
  let fr := bits x 0 f.fb
  if f.infPat = some pat then .inf neg
  else if f.infPat.isSome ∧ e = 2 ^ f.eb - 1 then .nan (fr < 2 ^ (f.fb - 1))
  else if f.infPat = none ∧ f.nanPat = some pat then .nan false
  else if e = 0 then .fin neg fr f.qmin
  else .fin neg (2 ^ f.fb + fr) (f.qmin + (e : Int) - 1)

/-- The value read under MODE.ftz: a subnormal reads as zero of its sign (R54). -/
def Fmt.decodeZ (f : Fmt) (ftz : Bool) (x : Nat) : Val :=
  match f.decode x with
  | .fin neg m e => if ftz && decide (m < 2 ^ f.fb) then .fin neg 0 e else .fin neg m e
  | v => v

/-- An exact result before rounding (R52): a NaN, an infinity, a signed zero, or a magnitude in `[m, m + 1) · 2^e` that
is exactly `m · 2^e` unless `more` holds; `open_` is a special function's result that the model's precision leaves open. -/
inductive Exact where
  | nan
  | inf (neg : Bool)
  | zero (neg : Bool)
  | mag (neg : Bool) (m : Nat) (e : Int) (more : Bool)
  | open_ (neg : Bool) (n : Nat)
  deriving DecidableEq, Repr

/-- The signed dyadic value with mantissa `m`, as an exact result. -/
def exactOf (neg : Bool) (m : Nat) (e : Int) : Exact := if m = 0 then .zero neg else .mag neg m e false

/-- What rounding a magnitude leaves (R52, R53): the pattern as though exponents were unbounded, and whether it is
inexact. -/
structure Rounded where
  pat : Nat
  inexact : Bool
  deriving DecidableEq, Repr

/-- Whether a truncated magnitude `n` rounds up in direction `rnd` (R52, R53): `r` of `2^k` is what lies below the least
significant bit, `more` says that still more lies below, `u` is the lane's stochastic draw. -/
def roundsUp (rnd u n r k : Nat) (neg more : Bool) : Bool :=
  let inexact := decide (r ≠ 0) || more
  let half := 2 ^ k / 2
  match rnd with
  | 0 => decide (k ≠ 0) && (decide (r > half) || (decide (r = half) && (more || decide (n % 2 = 1))))
  | 1 => false
  | 2 => neg && inexact
  | 3 => !neg && inexact
  | 4 => decide (k ≠ 0) && decide (r ≥ half)
  | _ => decide (r * 2 ^ 32 / 2 ^ k + u % 2 ^ 32 ≥ 2 ^ 32)

/-- The magnitude `m · 2^e` truncated to multiples of `2^q`: the multiple, the rest, and the rest's width in bits. -/
def truncAt (m : Nat) (e q : Int) : Nat × Nat × Nat :=
  if q ≤ e then (m * 2 ^ (e - q).toNat, 0, 0)
  else let k := (q - e).toNat; (m / 2 ^ k, m % 2 ^ k, k)

/-- Rounds a magnitude to a format (R52, R53). -/
def Fmt.round (f : Fmt) (rnd u : Nat) (neg : Bool) (m : Nat) (e : Int) (more : Bool) : Rounded :=
  let top : Int := (Nat.log2 m : Int) + e
  let q := max (top - (f.fb : Int)) f.qmin
  let (n, r, k) := truncAt m e q
  let n' := n + b2n (roundsUp rnd u n r k neg more)
  ⟨(q - f.qmin).toNat * 2 ^ f.fb + n', decide (r ≠ 0) || more⟩

/-- The bits of a magnitude pattern with a sign. -/
def Fmt.withSign (f : Fmt) (neg : Bool) (pat : Nat) : Nat := b2n neg * 2 ^ (f.eb + f.fb) + pat

/-- The canonical NaN (R44), or +0 in a format that has none (R57). -/
def Fmt.nan (f : Fmt) : Nat := f.nanPat.getD 0

/-- The infinity of a format, or its largest finite magnitude where it has none. -/
def Fmt.inf (f : Fmt) (neg : Bool) : Nat := f.withSign neg (f.infPat.getD f.maxPat)

/-- The result of an overflow in direction `rnd` (R52). -/
def Fmt.overflow (f : Fmt) (rnd : Nat) (neg : Bool) : Nat :=
  match rnd with
  | 1 => f.withSign neg f.maxPat
  | 2 => if neg then f.inf true else f.withSign false f.maxPat
  | 3 => if neg then f.withSign true f.maxPat else f.inf false
  | _ => f.inf neg

/-- Delivers an exact result in a format: rounding, overflow, underflow, flushing (R52 to R55). Underflow is judged on the result
as delivered, rounded at the subnormal place where x lies below the minimum normal (R53, R55). Log entry 79, DEDUCED. -/
def Fmt.deliver (f : Fmt) (rnd u : Nat) (ftz : Bool) : Exact → Nat × Flags
  | .nan => (f.nan, 0)
  | .inf neg => (f.inf neg, 0)
  | .zero neg => (f.withSign neg 0, 0)
  | .open_ neg n => (f.withSign neg (n % (f.maxPat + 1)), nxF)
  | .mag neg m e more =>
    let r := f.round rnd u neg m e more
    if r.pat > f.maxPat then (f.overflow rnd neg, orF ofF nxF)
    else if r.pat < 2 ^ f.fb then
      if ftz && decide (r.pat ≠ 0) then (f.withSign neg 0, orF ufF nxF)
      else (f.withSign neg r.pat, if r.inexact then orF ufF nxF else 0)
    else (f.withSign neg r.pat, if r.inexact then nxF else 0)

/-- A signalling operand raises invalid (R44). -/
def sigF : Val → Flags
  | .nan true => nvF
  | _ => 0

/-- The operand is a NaN. -/
def isNan : Val → Bool
  | .nan _ => true
  | _ => false

/-- The sum of two signed dyadic numbers, with the zero rules of R52; `rdn` is direction RDN. -/
def addDyadic (rdn n₁ : Bool) (m₁ : Nat) (e₁ : Int) (n₂ : Bool) (m₂ : Nat) (e₂ : Int) : Exact :=
  if m₁ = 0 ∧ m₂ = 0 then .zero (if n₁ = n₂ then n₁ else rdn)
  else
    let e := if m₁ = 0 then e₂ else if m₂ = 0 then e₁ else min e₁ e₂
    let a : Int := (if n₁ then -1 else 1) * ((m₁ * 2 ^ (e₁ - e).toNat : Nat) : Int)
    let b : Int := (if n₂ then -1 else 1) * ((m₂ * 2 ^ (e₂ - e).toNat : Nat) : Int)
    let s := a + b
    if s = 0 then .zero rdn else .mag (decide (s < 0)) s.natAbs e false

/-- x + y (R52, R55). -/
def addE (rdn : Bool) (x y : Val) : Exact × Flags :=
  let f := orF (sigF x) (sigF y)
  match x, y with
  | .nan _, _ => (.nan, f)
  | _, .nan _ => (.nan, f)
  | .inf a, .inf b => if a = b then (.inf a, f) else (.nan, orF f nvF)
  | .inf a, _ => (.inf a, f)
  | _, .inf b => (.inf b, f)
  | .fin a m e, .fin b n k => (addDyadic rdn a m e b n k, f)

/-- The value with its sign inverted. -/
def negV : Val → Val
  | .nan s => .nan s
  | .inf a => .inf (!a)
  | .fin a m e => .fin (!a) m e

/-- The exact product as a value: a NaN where it is invalid (R55). -/
def mulV (x y : Val) : Val × Flags :=
  let f := orF (sigF x) (sigF y)
  match x, y with
  | .nan _, _ => (.nan false, f)
  | _, .nan _ => (.nan false, f)
  | .inf a, .inf b => (.inf (a != b), f)
  | .inf a, .fin b n _ => if n = 0 then (.nan false, orF f nvF) else (.inf (a != b), f)
  | .fin a m _, .inf b => if m = 0 then (.nan false, orF f nvF) else (.inf (a != b), f)
  | .fin a m e, .fin b n k => (.fin (a != b) (m * n) (e + k), f)

/-- An exact value as an exact result. -/
def ofVal : Val → Exact
  | .nan _ => .nan
  | .inf a => .inf a
  | .fin a m e => exactOf a m e

/-- x · y. -/
def mulE (x y : Val) : Exact × Flags := let (v, f) := mulV x y; (ofVal v, f)

/-- x · y + z with one rounding (R52, 04 R100): an invalid product is raised even when z is a NaN. -/
def fmaE (rdn : Bool) (x y z : Val) : Exact × Flags :=
  let (p, f) := mulV x y
  let (s, g) := addE rdn p z
  (s, orF f g)

/-- Enough quotient or root bits for every format and for the stochastic bits of R53. -/
def workBits : Nat := 130

/-- The quotient of two positive magnitudes. -/
def divMag (neg : Bool) (m : Nat) (e : Int) (n : Nat) (k : Int) : Exact :=
  let sh := workBits + Nat.log2 n
  let q := m * 2 ^ sh / n
  .mag neg q (e - k - (sh : Int)) (decide (m * 2 ^ sh % n ≠ 0))

/-- x / y (R60). -/
def divE (x y : Val) : Exact × Flags :=
  let f := orF (sigF x) (sigF y)
  match x, y with
  | .nan _, _ => (.nan, f)
  | _, .nan _ => (.nan, f)
  | .inf _, .inf _ => (.nan, orF f nvF)
  | .inf a, .fin b _ _ => (.inf (a != b), f)
  | .fin a _ _, .inf b => (.zero (a != b), f)
  | .fin a m e, .fin b n k =>
    if n = 0 then (if m = 0 then (.nan, orF f nvF) else (.inf (a != b), orF f dzF))
    else if m = 0 then (.zero (a != b), f)
    else (divMag (a != b) m e n k, f)

/-- The integer square root, bit by bit from bit `b`. -/
def isqrtGo : (b n r : Nat) → Nat
  | 0, n, r => if (r + 1) * (r + 1) ≤ n then r + 1 else r
  | b + 1, n, r =>
    let r' := r + 2 ^ (b + 1)
    isqrtGo b n (if r' * r' ≤ n then r' else r)

/-- `⌊√n⌋`. -/
def isqrt (n : Nat) : Nat := isqrtGo (Nat.log2 n / 2 + 1) n 0

/-- A magnitude with an even exponent. -/
def evenExp (m : Nat) (e : Int) : Nat × Int := if e % 2 = 0 then (m, e) else (2 * m, e - 1)

/-- SQRT (R60). -/
def sqrtE : Val → Exact × Flags
  | .nan s => (.nan, if s then nvF else 0)
  | .inf a => if a then (.nan, nvF) else (.inf false, 0)
  | .fin a m e =>
    if m = 0 then (.zero a, 0)
    else if a then (.nan, nvF)
    else
      let (m, e) := evenExp m e
      let n := m * 2 ^ (2 * workBits)
      let r := isqrt n
      (.mag false r (e / 2 - (workBits : Int)) (decide (r * r ≠ n)), 0)

/-- RCP (R60). -/
def rcpE : Val → Exact × Flags
  | .nan s => (.nan, if s then nvF else 0)
  | .inf a => (.zero a, 0)
  | .fin a m e => if m = 0 then (.inf a, dzF) else (divMag a 1 0 m e, 0)

/-- RSQ (R60): `⌊2^k / √m⌋` is the integer square root of `⌊2^(2k) / m⌋`. -/
def rsqE : Val → Exact × Flags
  | .nan s => (.nan, if s then nvF else 0)
  | .inf a => if a then (.nan, nvF) else (.zero false, 0)
  | .fin a m e =>
    if m = 0 then (.inf a, dzF)
    else if a then (.nan, nvF)
    else
      let (m, e) := evenExp m e
      let k := workBits + Nat.log2 m
      let r := isqrt (2 ^ (2 * k) / m)
      (.mag false r (-(e / 2) - (k : Int)) (decide (r * r * m ≠ 2 ^ (2 * k))), 0)

/-- The order of two values that are not NaN; −0 and +0 compare equal. -/
def cmpV (x y : Val) : Ordering :=
  match x, y with
  | .inf a, .inf b => if a = b then .eq else if a then .lt else .gt
  | .inf a, _ => if a then .lt else .gt
  | _, .inf b => if b then .gt else .lt
  | .fin a m e, .fin b n k =>
    let q := min e k
    let i : Int := (if a then -1 else 1) * ((m * 2 ^ (e - q).toNat : Nat) : Int)
    let j : Int := (if b then -1 else 1) * ((n * 2 ^ (k - q).toNat : Nat) : Int)
    compare i j
  | _, _ => .eq

/-- `x` stands before `y` when −0 stands below +0 (04 R97; 02 R64). -/
def below (x y : Val) : Bool :=
  match cmpV x y with
  | .lt => true
  | .gt => false
  | .eq => match x, y with
    | .fin a _ _, .fin b _ _ => a && !b
    | _, _ => false

/-- MIN and MAX of a vector instruction (04 R97) on bits: a lone NaN yields the other operand unchanged; two NaNs yield
`a` with its quiet bit set. -/
def minmax (f : Fmt) (ftz isMax : Bool) (x y : Nat) : Nat × Flags :=
  let a := f.decodeZ ftz x
  let b := f.decodeZ ftz y
  let fl := orF (sigF a) (sigF b)
  let flush (v : Val) (z : Nat) : Nat := match v with
    | .fin neg 0 _ => f.withSign neg 0
    | _ => z
  match isNan a, isNan b with
  | true, true => (Nat.lor x (2 ^ (f.fb - 1)), fl)
  | true, false => (flush b y, fl)
  | false, true => (flush a x, fl)
  | false, false => (if below a b != isMax then flush a x else flush b y, fl)

/-! ### Element types (01 R26; 02 R41; 04 R91) -/

/-- The width in bits of one element of a type code. -/
def tyWidth (t : Nat) : Nat :=
  match t with
  | 0 | 1 | 8 | 18 => 32
  | 2 | 3 | 9 => 64
  | 4 | 5 | 10 | 11 => 16
  | 6 | 7 | 12 | 13 | 17 => 8
  | 14 => 4
  | _ => 8

/-- The type occupies a register pair (R41). -/
def is64 (t : Nat) : Bool := t == 2 || t == 3 || t == 9

/-- The number of elements of an arithmetic type in a register or a pair. -/
def tyCount (t : Nat) : Nat := if is64 t then 1 else 32 / tyWidth t

/-- Signed integer types. -/
def tySigned (t : Nat) : Bool := t == 0 || t == 2 || t == 4 || t == 6

def isInt (t : Nat) : Bool := decide (t ≤ 7)
def isInt1 (t : Nat) : Bool := decide (t ≤ 3)
def isFlt (t : Nat) : Bool := decide (8 ≤ t) && decide (t ≤ 11)
def isFlt1 (t : Nat) : Bool := t == 8 || t == 9
def isNfp (t : Nat) : Bool := t == 12 || t == 13 || t == 14

/-- The floating format of a type code (R43). -/
def tyFmt (t : Nat) : Fmt :=
  match t with
  | 9 => fmt64
  | 10 => fmt16
  | 11 => fmtB16
  | 12 => fmtE4M3
  | 13 => fmtE5M2
  | 14 => fmtE2M1
  | _ => fmt32

/-- Element `i` of a register or pair (R41). -/
def element (t i x : Nat) : Nat := bits x (tyWidth t * i) (tyWidth t)

/-- The register or pair that a list of elements forms, element 0 lowest. -/
def pack (t : Nat) (es : List Nat) : Nat :=
  es.foldr (fun e r => e % 2 ^ tyWidth t + 2 ^ tyWidth t * r) 0

/-- The integer value of an element by its type's signedness. -/
def intVal (t x : Nat) : Int := if tySigned t then signed (tyWidth t) x else (x % 2 ^ tyWidth t : Nat)

/-- The bounds of an integer type. -/
def intMin (t : Nat) : Int := if tySigned t then -(2 : Int) ^ (tyWidth t - 1) else 0
def intMax (t : Nat) : Int := if tySigned t then (2 : Int) ^ (tyWidth t - 1) - 1 else (2 : Int) ^ tyWidth t - 1

/-- IntFix (04 R98; 02 R42): modulo `2^w`, or clamped with isat. -/
def intFix (t : Nat) (sat : Bool) (v : Int) : Nat × Bool :=
  if sat ∧ v < intMin t then (wrap (tyWidth t) (intMin t), true)
  else if sat ∧ v > intMax t then (wrap (tyWidth t) (intMax t), true)
  else (wrap (tyWidth t) v, false)

/-! ### Conversions (R57 to R59, R110, R111) -/

/-- A value rounded to an integer in direction `rnd`: the integer and whether it is inexact. -/
def roundInt (rnd u : Nat) (neg : Bool) (m : Nat) (e : Int) : Int × Bool :=
  let (n, r, k) := truncAt m e 0
  let n' := n + b2n (roundsUp rnd u n r k neg false)
  (if neg then -(n' : Int) else n', decide (r ≠ 0))

/-- Floating to floating (R57). -/
def cvtFloat (f : Fmt) (rnd u : Nat) (sat ftz : Bool) (v : Val) : Nat × Flags :=
  let isE4 := f == fmtE4M3
  let isE2 := f == fmtE2M1
  let wide := f == fmt64
  match v with
  | .nan s => (f.nan, if isE2 || s then nvF else 0)
  | .inf neg =>
    if isE2 then (f.withSign neg f.maxPat, nvF)
    else if sat && !wide then (f.withSign neg f.maxPat, 0)
    else if isE4 then (f.nan, nvF)
    else (f.inf neg, 0)
  | .fin neg m e =>
    if m = 0 then (f.withSign neg 0, 0)
    else
      let r := f.round rnd u neg m e false
      if r.pat > f.maxPat then
        if isE2 || (sat && !wide) then (f.withSign neg f.maxPat, orF ofF nxF)
        else if isE4 then (f.nan, orF ofF nxF)
        else (f.overflow rnd neg, orF ofF nxF)
      else f.deliver rnd u ftz (.mag neg m e false)

/-- Floating to integer (R58). -/
def cvtToInt (t rnd u : Nat) (v : Val) : Nat × Flags :=
  match v with
  | .nan _ => (0, nvF)
  | .inf neg => (wrap (tyWidth t) (if neg then intMin t else intMax t), nvF)
  | .fin neg m e =>
    let (i, inexact) := roundInt rnd u neg m e
    if i < intMin t then (wrap (tyWidth t) (intMin t), nvF)
    else if i > intMax t then (wrap (tyWidth t) (intMax t), nvF)
    else (wrap (tyWidth t) i, if inexact then nxF else 0)

/-- An integer as a value. -/
def ofInt (i : Int) : Val := .fin (decide (i < 0)) i.natAbs 0

/-- Integer to integer (R58): a widening keeps the value; otherwise R42 applies. -/
def cvtIntInt (t t₂ : Nat) (sat : Bool) (x : Nat) : Nat × Bool :=
  if t = t₂ then (x, false)
  else if tyWidth t > tyWidth t₂ then (wrap (tyWidth t) (intVal t₂ x), false)
  else intFix t sat (intVal t₂ x)

/-- Conversion to one trit (R58): the trit plus one. Log entry 20, DEDUCED. -/
def cvtToTrit (rnd u : Nat) (v : Val) : Nat × Flags :=
  match v with
  | .nan _ => (1, nvF)
  | .inf neg => (if neg then 0 else 2, nxF)
  | .fin neg m e =>
    let big := decide (cmpV (.fin false m e) (.fin false 1 0) = .gt)
    if big then (if neg then 0 else 2, nxF)
    else
      let (i, inexact) := roundInt rnd u neg m e
      ((i + 1).toNat, if inexact then nxF else 0)

/-- Conversion to E8M0 (R59). -/
def cvtToE8M0 (rnd u : Nat) (v : Val) : Nat × Flags :=
  match v with
  | .fin false m e =>
    if m = 0 then (0xFF, nvF)
    else
      let j : Int := (Nat.log2 m : Int) + e
      let r := m - 2 ^ Nat.log2 m
      let w := Nat.log2 m
      let up := match rnd with
        | 0 => decide (2 * r > 2 ^ w) || (decide (2 * r = 2 ^ w) && decide (j % 2 ≠ 0))
        | 1 => false
        | 2 => false
        | 3 => decide (r ≠ 0)
        | 4 => decide (2 * r ≥ 2 ^ w)
        | _ => decide (r * 2 ^ 32 / 2 ^ w + u % 2 ^ 32 ≥ 2 ^ 32)
      let k := if up then j + 1 else j
      if k > 127 then (0xFE, orF ofF nxF)
      else if k < -127 then (0, orF ufF nxF)
      else ((k + 127).toNat, if r ≠ 0 then nxF else 0)
  | _ => (0xFF, nvF)

/-- The value of an E8M0 scale (R45). -/
def e8m0Val (x : Nat) : Val := if x = 0xFF then .nan false else .fin false 1 ((x : Int) - 127)

/-- The trits (each plus one) of a ternary byte, or none for a reserved code (R49, R50). -/
def tritsOf (x : Nat) : Option (List Nat) :=
  if x > 242 then none else some [x % 3, x / 3 % 3, x / 9 % 3, x / 27 % 3, x / 81 % 3]

/-- The ternary byte of five trits, each plus one. -/
def tritByte (ts : List Nat) : Nat := ts.foldr (fun t r => t % 3 + 3 * r) 0

end Sys2Proof.Machine
end

