-- ==== Sys2Proof/Machine/Attr.lean ====
section
/-! DEFINITION. What each instruction's entry says of its operands, its MODE fields, its deferring class and its level:
one row per instruction word, which the issue checks (03 R75) and the deferring rules (10 R224, R225) read. -/

namespace Sys2Proof.Machine

/-- An operand field (03 R68): its number is the one that sys.taux reports (03 R76). -/
inductive Role where
  | d | a | b | c | cond
  deriving DecidableEq, Repr

/-- What a field names (03 R69, R74). `val` and `sval` are pairs under a 64-bit MODE.type or type2; `adr` is the address
of an atomic of a scope; `block n` is the first of `n` registers; `merge` is CVT's b (04 R110); `shift` the count of R102;
`tdata` and `coord` depend on the descriptor in a slot (12 R300); `srdD` and `swrA` on a system register's width. -/
inductive Kind where
  | vec | pair | val | sval | merge | shift | pred | uni | rej | fset | td | od | srd | swr | condP | condPM
  | qpush | qpop | link | path
  | adr (s : Nat) | block (n : Nat) | srdD (sel : Nat) | swrA (sel : Nat) | tdata (slot : Nat) | coord (slot : Nat)
  deriving DecidableEq, Repr

/-- One operand: its field, kind and number, whether it is read, and whether it is written. -/
structure Opnd where
  role : Role
  kind : Kind
  num : Nat
  reads : Bool
  writes : Bool
  deriving DecidableEq, Repr

/-- An operand that is read, written, read and written, or only named. -/
abbrev rd (r : Role) (k : Kind) (n : Nat) : Opnd := ⟨r, k, n, true, false⟩
abbrev wr (r : Role) (k : Kind) (n : Nat) : Opnd := ⟨r, k, n, false, true⟩
abbrev up (r : Role) (k : Kind) (n : Nat) : Opnd := ⟨r, k, n, true, true⟩
abbrev nm (r : Role) (k : Kind) (n : Nat) : Opnd := ⟨r, k, n, false, false⟩

/-- The deferring classes (01 R34). -/
inductive Cls where
  | F | C | CP | D | DP
  deriving DecidableEq, Repr

/-- The types that an instruction accepts in MODE.type (04 R91); `none` for an untyped instruction. -/
inductive TyRule where
  | none | any | intFlt | int | intFlt1 | flt1 | intBits | int1Bits | int1 | int1Flt1 | uns | width | cvt
  deriving DecidableEq, Repr

/-- Whether an instruction rounds (04 R93; 09 R185 for MDRN). -/
inductive RndRule where
  | no | flt | cvt | always
  deriving DecidableEq, Repr

/-- The entry of an instruction word. `cnt` is the class that counts it (01 R35): 1 loads, 2 stores, 3 copies, 4 tile
operations. -/
structure Desc where
  ops : List Opnd := []
  cls : Cls := .C
  guarded : Bool := true
  fan : Bool := false
  priv : Bool := false
  rep : Bool := true
  ty : TyRule := .none
  rnd : RndRule := .no
  cnt : Nat := 0
  deriving DecidableEq, Repr

/-- A type code satisfies a rule. -/
def accepts (r : TyRule) (t : Nat) : Bool :=
  match r with
  | .none => true
  | .any => decide (t ≤ 18)
  | .width => decide (t ≤ 18)
  | .intFlt => isInt t || isFlt t
  | .int => isInt t
  | .intFlt1 => isInt t || isFlt1 t
  | .flt1 => isFlt1 t
  | .intBits => isInt t || t == 18
  | .int1Bits => isInt1 t || t == 18
  | .int1 => isInt1 t
  | .int1Flt1 => isInt1 t || isFlt1 t
  | .uns => t == 1 || t == 3
  | .cvt => isInt t || isFlt t || isNfp t || t == 16 || t == 17

/-- The entries. A row of the table that is no instruction word has the empty entry. -/
def desc : Instr → Desc
  | .add d a b => { ops := [wr .d .val d.toNat, rd .a .val a.toNat, rd .b .val b.toNat], fan := true, ty := .intFlt, rnd := .flt }
  | .sub d a b => { ops := [wr .d .val d.toNat, rd .a .val a.toNat, rd .b .val b.toNat], fan := true, ty := .intFlt, rnd := .flt }
  | .mul d a b => { ops := [wr .d .val d.toNat, rd .a .val a.toNat, rd .b .val b.toNat], fan := true, ty := .intFlt, rnd := .flt }
  | .min d a b => { ops := [wr .d .val d.toNat, rd .a .val a.toNat, rd .b .val b.toNat], fan := true, ty := .intFlt }
  | .max d a b => { ops := [wr .d .val d.toNat, rd .a .val a.toNat, rd .b .val b.toNat], fan := true, ty := .intFlt }
  | .mulh d a b => { ops := [wr .d .val d.toNat, rd .a .val a.toNat, rd .b .val b.toNat], fan := true, ty := .int }
  | .div d a b => { ops := [wr .d .val d.toNat, rd .a .val a.toNat, rd .b .val b.toNat], fan := true, ty := .intFlt1, rnd := .flt }
  | .rem d a b => { ops := [wr .d .val d.toNat, rd .a .val a.toNat, rd .b .val b.toNat], fan := true, ty := .int }
  | .abs d a => { ops := [wr .d .val d.toNat, rd .a .val a.toNat], fan := true, ty := .intFlt }
  | .neg d a => { ops := [wr .d .val d.toNat, rd .a .val a.toNat], fan := true, ty := .intFlt }
  | .sqrt d a => { ops := [wr .d .val d.toNat, rd .a .val a.toNat], fan := true, ty := .flt1, rnd := .flt }
  | .rcp d a => { ops := [wr .d .val d.toNat, rd .a .val a.toNat], fan := true, ty := .flt1, rnd := .flt }
  | .rsq d a => { ops := [wr .d .val d.toNat, rd .a .val a.toNat], fan := true, ty := .flt1, rnd := .flt }
  | .exp2 d a => { ops := [wr .d .val d.toNat, rd .a .val a.toNat], fan := true, ty := .flt1, rnd := .flt }
  | .log2 d a => { ops := [wr .d .val d.toNat, rd .a .val a.toNat], fan := true, ty := .flt1, rnd := .flt }
  | .sin d a => { ops := [wr .d .val d.toNat, rd .a .val a.toNat], fan := true, ty := .flt1, rnd := .flt }
  | .cos d a => { ops := [wr .d .val d.toNat, rd .a .val a.toNat], fan := true, ty := .flt1, rnd := .flt }
  | .and d a b => { ops := [wr .d .val d.toNat, rd .a .val a.toNat, rd .b .val b.toNat], fan := true, ty := .intBits }
  | .or d a b => { ops := [wr .d .val d.toNat, rd .a .val a.toNat, rd .b .val b.toNat], fan := true, ty := .intBits }
  | .xor d a b => { ops := [wr .d .val d.toNat, rd .a .val a.toNat, rd .b .val b.toNat], fan := true, ty := .intBits }
  | .andn d a b => { ops := [wr .d .val d.toNat, rd .a .val a.toNat, rd .b .val b.toNat], fan := true, ty := .intBits }
  | .not d a => { ops := [wr .d .val d.toNat, rd .a .val a.toNat], fan := true, ty := .intBits }
  | .shl d a b => { ops := [wr .d .val d.toNat, rd .a .val a.toNat, rd .b .shift b.toNat], fan := true, ty := .intBits }
  | .shr d a b => { ops := [wr .d .val d.toNat, rd .a .val a.toNat, rd .b .shift b.toNat], fan := true, ty := .intBits }
  | .sar d a b => { ops := [wr .d .val d.toNat, rd .a .val a.toNat, rd .b .shift b.toNat], fan := true, ty := .intBits }
  | .rot d a b => { ops := [wr .d .val d.toNat, rd .a .val a.toNat, rd .b .shift b.toNat], fan := true, ty := .intBits }
  | .popc d a => { ops := [wr .d .val d.toNat, rd .a .val a.toNat], fan := true, ty := .intBits }
  | .clz d a => { ops := [wr .d .val d.toNat, rd .a .val a.toNat], fan := true, ty := .intBits }
  | .brev d a => { ops := [wr .d .val d.toNat, rd .a .val a.toNat], fan := true, ty := .intBits }
  | .cvt _ d a b => { ops := [wr .d .val d.toNat, rd .a .sval a.toNat, rd .b .merge b.toNat], fan := true, ty := .cvt, rnd := .cvt }
  | .cmpEq d a b => { ops := [wr .d .pred d.toNat, rd .a .val a.toNat, rd .b .val b.toNat], ty := .int1Flt1 }
  | .cmpNe d a b => { ops := [wr .d .pred d.toNat, rd .a .val a.toNat, rd .b .val b.toNat], ty := .int1Flt1 }
  | .cmpLt d a b => { ops := [wr .d .pred d.toNat, rd .a .val a.toNat, rd .b .val b.toNat], ty := .int1Flt1 }
  | .cmpLe d a b => { ops := [wr .d .pred d.toNat, rd .a .val a.toNat, rd .b .val b.toNat], ty := .int1Flt1 }
  | .cmpGt d a b => { ops := [wr .d .pred d.toNat, rd .a .val a.toNat, rd .b .val b.toNat], ty := .int1Flt1 }
  | .cmpGe d a b => { ops := [wr .d .pred d.toNat, rd .a .val a.toNat, rd .b .val b.toNat], ty := .int1Flt1 }
  | .cmpUn d a b => { ops := [wr .d .pred d.toNat, rd .a .val a.toNat, rd .b .val b.toNat], ty := .int1Flt1 }
  | .cmpClass d a b => { ops := [wr .d .pred d.toNat, rd .a .val a.toNat, rd .b .vec b.toNat], ty := .flt1 }
  | .mov d a => { ops := [wr .d .val d.toNat, rd .a .val a.toNat], fan := true, ty := .any }
  | .movw d a => { ops := [wr .d .val d.toNat, rd .a .uni a.toNat], fan := true, ty := .any }
  | .wmov d a => { ops := [nm .d .uni d.toNat, rd .a .val a.toNat], cls := .D, ty := .any }
  | .pand d a b => { ops := [wr .d .pred d.toNat, rd .a .pred a.toNat, rd .b .pred b.toNat] }
  | .por d a b => { ops := [wr .d .pred d.toNat, rd .a .pred a.toNat, rd .b .pred b.toNat] }
  | .pxor d a b => { ops := [wr .d .pred d.toNat, rd .a .pred a.toNat, rd .b .pred b.toNat] }
  | .pnot d a => { ops := [wr .d .pred d.toNat, rd .a .pred a.toNat] }
  | .pmov d a => { ops := [wr .d .pred d.toNat, rd .a .pred a.toNat] }
  | .shfl d a b => { ops := [wr .d .val d.toNat, rd .a .val a.toNat, rd .b .vec b.toNat], fan := true, ty := .any }
  | .shflup d a b => { ops := [wr .d .val d.toNat, rd .a .val a.toNat, rd .b .vec b.toNat], fan := true, ty := .any }
  | .shfldn d a b => { ops := [wr .d .val d.toNat, rd .a .val a.toNat, rd .b .vec b.toNat], fan := true, ty := .any }
  | .shflx d a b => { ops := [wr .d .val d.toNat, rd .a .val a.toNat, rd .b .vec b.toNat], fan := true, ty := .any }
  | .ballot d a => { ops := [wr .d .vec d.toNat, rd .a .pred a.toNat], fan := true }
  | .vany d a => { ops := [wr .d .pred d.toNat, rd .a .pred a.toNat] }
  | .vall d a => { ops := [wr .d .pred d.toNat, rd .a .pred a.toNat] }
  | .match d a => { ops := [wr .d .pred d.toNat, rd .a .val a.toNat], ty := .any }
  | .rngsplit a b => { ops := [rd .a .uni a.toNat, rd .b .vec b.toNat], cls := .D }
  | .rngnext d => { ops := [wr .d .pair d.toNat], cls := .D, fan := true }
  | .rngf d => { ops := [wr .d .val d.toNat], cls := .D, fan := true, ty := .flt1 }
  | .srd d a => { ops := [wr .d (.srdD a.toNat) d.toNat, nm .a .srd a.toNat], cls := .D, fan := true }
  | .mad d a b c => { ops := [wr .d .val d.toNat, rd .a .val a.toNat, rd .b .val b.toNat, rd .c .val c.toNat], fan := true, ty := .intFlt, rnd := .flt }
  | .bfx d a b c => { ops := [wr .d .val d.toNat, rd .a .val a.toNat, rd .b .vec b.toNat, rd .c .vec c.toNat], fan := true, ty := .int1Bits }
  | .bfi d a b c => { ops := [up .d .val d.toNat, rd .a .val a.toNat, rd .b .vec b.toNat, rd .c .vec c.toNat], fan := true, ty := .int1Bits }
  | .lea d a b c => { ops := [wr .d .pair d.toNat, rd .a .pair a.toNat, rd .b .vec b.toNat, rd .c .vec c.toNat], fan := true }
  | .sel d a b c => { ops := [wr .d .val d.toNat, rd .a .val a.toNat, rd .b .val b.toNat, rd .c .pred c.toNat], fan := true, ty := .any }
  | .addi d a _ => { ops := [wr .d .val d.toNat, rd .a .val a.toNat], fan := true, ty := .int1 }
  | .andi d a _ => { ops := [wr .d .val d.toNat, rd .a .val a.toNat], fan := true, ty := .int1Bits }
  | .ori d a _ => { ops := [wr .d .val d.toNat, rd .a .val a.toNat], fan := true, ty := .int1Bits }
  | .xori d a _ => { ops := [wr .d .val d.toNat, rd .a .val a.toNat], fan := true, ty := .int1Bits }
  | .shli d a _ => { ops := [wr .d .val d.toNat, rd .a .val a.toNat], fan := true, ty := .int1Bits }
  | .shri d a _ => { ops := [wr .d .val d.toNat, rd .a .val a.toNat], fan := true, ty := .int1Bits }
  | .sari d a _ => { ops := [wr .d .val d.toNat, rd .a .val a.toNat], fan := true, ty := .int1Bits }
  | .ldi d _ => { ops := [wr .d .vec d.toNat], fan := true }
  | .ldih d _ => { ops := [up .d .vec d.toNat], fan := true }
  | .br _ => { cls := .D, guarded := false, rep := false }
  | .brp c _ => { ops := [nm .cond .condP c.toNat], cls := .D, guarded := false, rep := false }
  | .bra c _ => { ops := [nm .cond .condPM c.toNat], cls := .D, rep := false }
  | .brn c _ => { ops := [nm .cond .condPM c.toNat], cls := .D, rep := false }
  | .call _ => { cls := .D, guarded := false, rep := false }
  | .callr a => { ops := [rd .a .pair a.toNat], cls := .D, guarded := false, rep := false }
  | .ret => { cls := .D, guarded := false, rep := false }
  | .jmpr a => { ops := [rd .a .pair a.toNat], cls := .D, guarded := false, rep := false }
  | .exit => { cls := .D, guarded := false, rep := false }
  | .jset d a => { ops := [nm .d .rej d.toNat, rd .a .vec a.toNat], cls := .D, guarded := false, rep := false }
  | .jsetAct d => { ops := [nm .d .rej d.toNat], cls := .D, guarded := false, rep := false }
  | .jarr => { cls := .D, guarded := false, rep := false }
  | .jwait => { cls := .D, guarded := false, rep := false }
  | .regang a => { ops := [rd .a .vec a.toNat], cls := .D, guarded := false, rep := false }
  | .setmv a => { ops := [rd .a .vec a.toNat], cls := .D, guarded := false, rep := false }
  | .getm d => { ops := [wr .d .vec d.toNat], fan := true, rep := false }
  | .drain => { cls := .D, guarded := false, rep := false }
  | .nop => { cls := .F, guarded := false, rep := false }
  | .yield => { cls := .F, guarded := false, rep := false }
  | .trap _ => { cls := .D, guarded := false, rep := false }
  | .tret => { cls := .D, guarded := false, rep := false }
  | .bkpt _ => { cls := .D, guarded := false, rep := false }
  | .setm _ => { cls := .F, guarded := false, rep := false }
  | .setmH _ => { cls := .F, guarded := false, rep := false }
  | .fanset d _ => { ops := [nm .d .fset d.toNat], cls := .F, guarded := false, rep := false }
  | .rep _ _ _ _ _ => { cls := .F, guarded := false, rep := false }
  | .wait _ _ _ _ => { cls := .F, guarded := false, rep := false }
  | .ldxZb d a b => { ops := [wr .d .vec d.toNat, rd .a .pair a.toNat, rd .b .vec b.toNat], cls := .CP, cnt := 1 }
  | .ldxSb d a b => { ops := [wr .d .vec d.toNat, rd .a .pair a.toNat, rd .b .vec b.toNat], cls := .CP, cnt := 1 }
  | .ldxZh d a b => { ops := [wr .d .vec d.toNat, rd .a .pair a.toNat, rd .b .vec b.toNat], cls := .CP, cnt := 1 }
  | .ldxSh d a b => { ops := [wr .d .vec d.toNat, rd .a .pair a.toNat, rd .b .vec b.toNat], cls := .CP, cnt := 1 }
  | .ldxW d a b => { ops := [wr .d .vec d.toNat, rd .a .pair a.toNat, rd .b .vec b.toNat], cls := .CP, cnt := 1 }
  | .ldxD d a b => { ops := [wr .d .pair d.toNat, rd .a .pair a.toNat, rd .b .vec b.toNat], cls := .CP, cnt := 1 }
  | .stxB d a b => { ops := [rd .d .vec d.toNat, rd .a .pair a.toNat, rd .b .vec b.toNat], cnt := 2 }
  | .stxH d a b => { ops := [rd .d .vec d.toNat, rd .a .pair a.toNat, rd .b .vec b.toNat], cnt := 2 }
  | .stxW d a b => { ops := [rd .d .vec d.toNat, rd .a .pair a.toNat, rd .b .vec b.toNat], cnt := 2 }
  | .stxD d a b => { ops := [rd .d .pair d.toNat, rd .a .pair a.toNat, rd .b .vec b.toNat], cnt := 2 }
  | .lda _ d a => { ops := [wr .d .val d.toNat, rd .a .pair a.toNat], cls := .DP, ty := .width, cnt := 1 }
  | .stl _ d a => { ops := [rd .d .val d.toNat, rd .a .pair a.toNat], cls := .D, ty := .width, cnt := 2 }
  | .pref _ a => { ops := [rd .a .pair a.toNat] }
  | .aadd s d a b => { ops := [wr .d .val d.toNat, rd .a (.adr s.toNat) a.toNat, rd .b .val b.toNat], cls := .DP, ty := .int1Flt1, cnt := 1 }
  | .amin s d a b => { ops := [wr .d .val d.toNat, rd .a (.adr s.toNat) a.toNat, rd .b .val b.toNat], cls := .DP, ty := .int1Flt1, cnt := 1 }
  | .amax s d a b => { ops := [wr .d .val d.toNat, rd .a (.adr s.toNat) a.toNat, rd .b .val b.toNat], cls := .DP, ty := .int1Flt1, cnt := 1 }
  | .aand s d a b => { ops := [wr .d .val d.toNat, rd .a (.adr s.toNat) a.toNat, rd .b .val b.toNat], cls := .DP, ty := .int1Bits, cnt := 1 }
  | .aor s d a b => { ops := [wr .d .val d.toNat, rd .a (.adr s.toNat) a.toNat, rd .b .val b.toNat], cls := .DP, ty := .int1Bits, cnt := 1 }
  | .axor s d a b => { ops := [wr .d .val d.toNat, rd .a (.adr s.toNat) a.toNat, rd .b .val b.toNat], cls := .DP, ty := .int1Bits, cnt := 1 }
  | .axch s d a b => { ops := [wr .d .val d.toNat, rd .a (.adr s.toNat) a.toNat, rd .b .val b.toNat], cls := .DP, ty := .any, cnt := 1 }
  | .ainc s d a b => { ops := [wr .d .val d.toNat, rd .a (.adr s.toNat) a.toNat, rd .b .val b.toNat], cls := .DP, ty := .uns, cnt := 1 }
  | .redAdd s a b => { ops := [rd .a (.adr s.toNat) a.toNat, rd .b .val b.toNat], cls := .D, ty := .int1Flt1, cnt := 2 }
  | .redMin s a b => { ops := [rd .a (.adr s.toNat) a.toNat, rd .b .val b.toNat], cls := .D, ty := .int1Flt1, cnt := 2 }
  | .redMax s a b => { ops := [rd .a (.adr s.toNat) a.toNat, rd .b .val b.toNat], cls := .D, ty := .int1Flt1, cnt := 2 }
  | .redAnd s a b => { ops := [rd .a (.adr s.toNat) a.toNat, rd .b .val b.toNat], cls := .D, ty := .int1Bits, cnt := 2 }
  | .redOr s a b => { ops := [rd .a (.adr s.toNat) a.toNat, rd .b .val b.toNat], cls := .D, ty := .int1Bits, cnt := 2 }
  | .redXor s a b => { ops := [rd .a (.adr s.toNat) a.toNat, rd .b .val b.toNat], cls := .D, ty := .int1Bits, cnt := 2 }
  | .fence _ => { cls := .D, guarded := false }
  | .xfence a b => { ops := [nm .a .path a.toNat, nm .b .path b.toNat], cls := .D, guarded := false }
  | .cas s d a b c => { ops := [wr .d .val d.toNat, rd .a (.adr s.toNat) a.toNat, rd .b .val b.toNat, rd .c .val c.toNat], cls := .DP, ty := .any, cnt := 1 }
  | .ld d a _ => { ops := [wr .d .val d.toNat, rd .a .pair a.toNat], cls := .CP, ty := .width, cnt := 1 }
  | .st d a _ => { ops := [rd .d .val d.toNat, rd .a .pair a.toNat], ty := .width, cnt := 2 }
  | .ld2 d a _ => { ops := [wr .d (.block 2) d.toNat, rd .a .pair a.toNat], cls := .CP, cnt := 1 }
  | .st2 d a _ => { ops := [rd .d (.block 2) d.toNat, rd .a .pair a.toNat], cnt := 2 }
  | .ld4 d a _ => { ops := [wr .d (.block 4) d.toNat, rd .a .pair a.toNat], cls := .CP, cnt := 1 }
  | .st4 d a _ => { ops := [rd .d (.block 4) d.toNat, rd .a .pair a.toNat], cnt := 2 }
  | .lds d a _ => { ops := [wr .d .val d.toNat, rd .a .vec a.toNat], cls := .CP, ty := .width, cnt := 1 }
  | .sts d a _ => { ops := [rd .d .val d.toNat, rd .a .vec a.toNat], ty := .width, cnt := 2 }
  | .mstr a b => { ops := [nm .a .od a.toNat, rd .b .vec b.toNat], cls := .D, rep := false, cnt := 4 }
  | .mstrP a => { ops := [nm .a .od a.toNat], cls := .D, rep := false, cnt := 4 }
  | .mzero a => { ops := [rd .a .vec a.toNat], cls := .D, rep := false }
  | .mswap => { cls := .D, rep := false }
  | .mpark d a => { ops := [wr .d .vec d.toNat, rd .a .vec a.toNat], cls := .D, rep := false, cnt := 4 }
  | .munpark a b => { ops := [rd .a .vec a.toNat, rd .b .vec b.toNat], cls := .D, rep := false, cnt := 4 }
  | .mlds a b => { ops := [nm .a .od a.toNat, rd .b .vec b.toNat], cls := .D, rep := false, cnt := 4 }
  | .obrel a => { ops := [nm .a .od a.toNat], cls := .D, rep := false }
  | .credAdd d a => { ops := [rd .d .vec d.toNat, rd .a .vec a.toNat], cls := .D, rep := false }
  | .credMax d a => { ops := [rd .d .vec d.toNat, rd .a .vec a.toNat], cls := .D, rep := false }
  | .credMin d a => { ops := [rd .d .vec d.toNat, rd .a .vec a.toNat], cls := .D, rep := false }
  | .credSmerge d a => { ops := [rd .d .vec d.toNat, rd .a .vec a.toNat], cls := .D, rep := false }
  | .obres d a b => { ops := [nm .d .od d.toNat, rd .a .pair a.toNat, rd .b .pair b.toNat], cls := .D, rep := false }
  | .mdrn d a b c => { ops := [rd .d .vec d.toNat, rd .a .vec a.toNat, rd .b .vec b.toNat, rd .c .vec c.toNat], cls := .D, rep := false, rnd := .always, cnt := 4 }
  | .obld d a _ => { ops := [nm .d .od d.toNat, rd .a .pair a.toNat], cls := .D, rep := false, cnt := 3 }
  | .mstat d _ => { ops := [wr .d .vec d.toNat], cls := .D, rep := false }
  | .binit a b => { ops := [rd .a .vec a.toNat, rd .b .vec b.toNat], cls := .D, guarded := false, rep := false }
  | .barr a b => { ops := [rd .a .vec a.toNat, rd .b .vec b.toNat], cls := .D, guarded := false, rep := false }
  | .bexp d a b => { ops := [rd .d .vec d.toNat, rd .a .vec a.toNat, rd .b .vec b.toNat], cls := .D, guarded := false, rep := false }
  | .bwait a b => { ops := [rd .a .vec a.toNat, rd .b .vec b.toNat], cls := .D, guarded := false, rep := false }
  | .btest d a b => { ops := [wr .d .pred d.toNat, rd .a .vec a.toNat, rd .b .vec b.toNat], cls := .D, guarded := false, rep := false }
  | .sestop a => { ops := [rd .a .vec a.toNat], cls := .D, guarded := false, rep := false }
  | .seresume a => { ops := [rd .a .vec a.toNat], cls := .D, guarded := false, rep := false }
  | .seqry d a => { ops := [wr .d .vec d.toNat, rd .a .vec a.toNat], cls := .D, guarded := false, rep := false }
  | .qpush d a => { ops := [nm .d .qpush d.toNat, rd .a .vec a.toNat], cls := .D, rep := false }
  | .qpop d a => { ops := [wr .d .vec d.toNat, nm .a .qpop a.toNat], cls := .DP, rep := false }
  | .qown d a => { ops := [wr .d .pred d.toNat, nm .a .link a.toNat], cls := .D, rep := false }
  | .qownRel a => { ops := [nm .a .link a.toNat], cls := .D, rep := false }
  | .bxcopy a => { ops := [rd .a .vec a.toNat], cls := .D, guarded := false, rep := false, cnt := 3 }
  | .sego d a _ => { ops := [wr .d .vec d.toNat, rd .a .vec a.toNat], cls := .D, guarded := false, rep := false }
  | .catset a _ => { ops := [rd .a .vec a.toNat], cls := .D, guarded := false, rep := false }
  | .wrel a _ => { ops := [rd .a .vec a.toNat], cls := .D, guarded := false, rep := false }
  | .dectbl a _ => { ops := [rd .a .vec a.toNat], cls := .D, guarded := false, rep := false }
  | .catclr _ => { cls := .D, guarded := false, rep := false }
  | .catqry d _ _ => { ops := [wr .d .vec d.toNat], cls := .D, guarded := false, rep := false }
  | .tld d a b => { ops := [nm .d (.tdata a.toNat) d.toNat, nm .a .td a.toNat, nm .b (.coord a.toNat) b.toNat], cls := .DP, cnt := 1 }
  | .tst d a b => { ops := [nm .d (.tdata a.toNat) d.toNat, nm .a .td a.toNat, nm .b (.coord a.toNat) b.toNat], cls := .D, cnt := 2 }
  | .axperm d a => { ops := [nm .d .td d.toNat, rd .a .vec a.toNat], cls := .D, guarded := false, rep := false }
  | .axqry d a b => { ops := [wr .d .pair d.toNat, nm .a .td a.toNat, rd .b (.block 2) b.toNat], cls := .D }
  | .axfence => { cls := .D, guarded := false, rep := false }
  | .axinvCore a => { ops := [rd .a .vec a.toNat], cls := .D, guarded := false, rep := false }
  | .axinvCns a => { ops := [rd .a .vec a.toNat], cls := .D, guarded := false, rep := false }
  | .axinvDev a => { ops := [rd .a .vec a.toNat], cls := .D, guarded := false, rep := false }
  | .axset a b => { ops := [rd .a .vec a.toNat, rd .b (.block 4) b.toNat], cls := .D, guarded := false, rep := false }
  | .axins a b => { ops := [rd .a .vec a.toNat, rd .b (.block 4) b.toNat], cls := .D, guarded := false, rep := false }
  | .axdel a b => { ops := [rd .a .vec a.toNat, rd .b (.block 2) b.toNat], cls := .D, guarded := false, rep := false }
  | .tdld d a _ => { ops := [nm .d .td d.toNat, rd .a .pair a.toNat], cls := .D, guarded := false, rep := false }
  | .tdst d a _ => { ops := [nm .d .td d.toNat, rd .a .pair a.toNat], cls := .D, guarded := false, rep := false }
  | .lqcancel d a b => { ops := [wr .d .vec d.toNat, rd .a .vec a.toNat, rd .b .vec b.toNat], cls := .D, guarded := false, rep := false }
  | .exitc a b => { ops := [rd .a .pair a.toNat, rd .b .vec b.toNat], cls := .D, guarded := false, rep := false }
  | .lqpush d a _ => { ops := [wr .d .vec d.toNat, rd .a .vec a.toNat], cls := .D, guarded := false, rep := false }
  | .lqstat d _ _ => { ops := [wr .d .vec d.toNat], cls := .D, guarded := false, rep := false }
  | .swr d a => { ops := [nm .d .swr d.toNat, rd .a (.swrA d.toNat) a.toNat], cls := .D, guarded := false, priv := true, rep := false }
  | .tlbinv a b => { ops := [rd .a .pair a.toNat, rd .b .vec b.toNat], cls := .D, guarded := false, priv := true, rep := false }
  | .quiesce d a => { ops := [wr .d .vec d.toNat, rd .a .vec a.toNat], cls := .D, guarded := false, priv := true, rep := false }
  | .ctxsave d a b => { ops := [wr .d .vec d.toNat, rd .a .vec a.toNat, rd .b .pair b.toNat], cls := .D, guarded := false, priv := true, rep := false }
  | .ctxload d a b => { ops := [wr .d .vec d.toNat, rd .a .vec a.toNat, rd .b .pair b.toNat], cls := .D, guarded := false, priv := true, rep := false }
  | .splv a b => { ops := [rd .a .pair a.toNat, rd .b .vec b.toNat], cls := .D, guarded := false, priv := true, rep := false }
  | .filv a b => { ops := [rd .a .pair a.toNat, rd .b .vec b.toNat], cls := .D, guarded := false, priv := true, rep := false }
  | .keysel d a b => { ops := [wr .d .vec d.toNat, rd .a .vec a.toNat, rd .b .vec b.toNat], cls := .D, guarded := false, priv := true, rep := false }
  | .halt a => { ops := [rd .a .vec a.toNat], cls := .D, guarded := false, priv := true, rep := false }
  | _ => { cls := .F, guarded := false, rep := false }

/-- The number of a field in sys.taux (03 R76). -/
def Role.num : Role → Nat
  | .d => 0
  | .a => 1
  | .b => 2
  | .c => 3
  | .cond => 4

/-! ### MODE (01 R25) -/

def mGuard (m : W32) : Nat := bits m.toNat 0 5
def mNeg (m : W32) : Bool := m.getLsbD 5
def mGen (m : W32) : Bool := m.getLsbD 6
def mType (m : W32) : Nat := bits m.toNat 7 5
def mType2 (m : W32) : Nat := bits m.toNat 12 5
def mRnd (m : W32) : Nat := bits m.toNat 17 3
def mSat (m : W32) : Bool := m.getLsbD 20
def mFan (m : W32) : Nat := bits m.toNat 21 3
def mJsel (m : W32) : Nat := bits m.toNat 24 3
def mDfr (m : W32) : Bool := m.getLsbD 27
def mDfrf (m : W32) : Bool := m.getLsbD 28
def mClip (m : W32) : Bool := m.getLsbD 29
def mFtz (m : W32) : Bool := m.getLsbD 30

/-! ### Types and rounding as read (03 R75 step 6) -/

/-- The number of elements that CVT counts in a type (04 R110). -/
def cvtCount (t : Nat) : Nat :=
  match t with
  | 0 | 1 | 2 | 3 | 8 | 9 => 1
  | 4 | 5 | 10 | 11 => 2
  | 14 => 8
  | 16 => 20
  | _ => 4

/-- The reason of an illegal-type trap (03 R76) that CVT raises, or none. -/
def cvtReason (t t₂ k b : Nat) : Option Nat :=
  if ¬ accepts .cvt t then some 0
  else if ¬ accepts .cvt t₂ then some 1
  else
    let n := cvtCount t
    let n₂ := cvtCount t₂
    if (n = 8 ∧ n₂ = 20) ∨ (n = 20 ∧ n₂ = 8) then some 2
    else if k ≥ (if n > n₂ then n / n₂ else if n₂ > n then n₂ / n else 1) then some 3
    else if n ≤ n₂ ∧ b ≠ 0 then some 4
    else none

/-- CVT's merge register is read (04 R111). -/
def cvtMerges (m : W32) : Bool := decide (cvtCount (mType m) > cvtCount (mType2 m))

/-- The instruction rounds under a MODE (04 R93). -/
def roundsIn (r : RndRule) (m : W32) : Bool :=
  match r with
  | .no => false
  | .always => true
  | .flt => isFlt (mType m)
  | .cvt => !(isInt (mType m) && isInt (mType2 m))

/-- The k of CVT and the stepped b field. -/
def typeReason (i : Instr) (m : W32) (hiB : Nat) : Option Nat :=
  match i with
  | .cvt k _ _ b => cvtReason (mType m) (mType2 m) k.toNat (b.toNat + 64 * hiB)
  | i => if accepts (desc i).ty (mType m) then none else some 0

/-! ### System registers (01 R36) -/

/-- The selector names a register. -/
def sysKnown (n : Nat) : Bool :=
  decide (n ≤ 10) || (decide (16 ≤ n) && decide (n ≤ 20)) || (decide (24 ≤ n) && decide (n ≤ 29))
    || n == 32 || n == 33 || n == 34 || n == 40

/-- The 64-bit registers. -/
def sys64 (n : Nat) : Bool := n == 8 || n == 19 || n == 20 || n == 25 || n == 27

/-- The registers that SWR writes (18 R393). -/
def sysWritable (n : Nat) : Bool := sysKnown n && decide (10 ≤ n) && n != 40

/-! ### Names and numbers of operands -/

/-- The number of an immediate selector outside its range (03 R75 step 4; 09 R207). -/
def immSelector : Instr → Option Nat
  | .mstat _ i => if i.toNat ≥ 2 then some i.toNat else none
  | _ => none

/-- A kind's width in registers under a MODE; `wide` and `rank` describe the descriptor in a slot. -/
def kindNames (m : W32) (wide : Nat → Bool) (rank : Nat → Nat) : Kind → (n : Nat) → List Nat
  | .vec, n => [n]
  | .pair, n => [n, n + 1]
  | .val, n => if is64 (mType m) then [n, n + 1] else [n]
  | .sval, n => if is64 (mType2 m) then [n, n + 1] else [n]
  | .merge, n => if cvtMerges m then (if is64 (mType m) then [n, n + 1] else [n]) else []
  | .shift, n => [n]
  | .pred, n => [64 + n]
  | .condP, n => if n < 32 then [64 + n] else []
  | .condPM, n => if n < 32 then [64 + n] else []
  | .adr s, n => if s ≥ 2 then [n, n + 1] else [n]
  | .block k, n => (List.range k).map (n + ·)
  | .srdD sel, n => if sys64 sel then [n, n + 1] else [n]
  | .swrA sel, n => if sys64 sel then [n, n + 1] else [n]
  | .tdata t, n => if wide t then [n, n + 1] else [n]
  | .coord t, n => (List.range (rank t)).map (n + ·)
  | _, _ => []

/-- The number that a field reports when it breaks its kind (03 R69, R75 step 4), or none where it is legal. CVT's b where it
is not used is checked with the types (04 R111). -/
def kindFault (m : W32) (wide : Nat → Bool) (rank : Nat → Nat) (k : Kind) (n : Nat) : Option Nat :=
  let vec := if n > 63 then some n else none
  let pair := if n > 63 ∨ n % 2 = 1 then some n else none
  let upTo (q : Nat) := if n > q then some n else none
  match k with
  | .vec | .shift => vec
  | .pair => pair
  | .val => if is64 (mType m) then pair else vec
  | .sval => if is64 (mType2 m) then pair else vec
  | .merge => if cvtMerges m then (if is64 (mType m) then pair else vec) else none
  | .pred => upTo 31
  | .uni => upTo 31
  | .rej | .td => upTo 7
  | .fset => if n = 0 ∨ n > 7 then some n else none
  | .od => upTo 15
  | .srd => if sysKnown n then none else some n
  | .swr => if sysWritable n then none else some n
  | .condP => if n < 32 ∨ n = 63 then none else some n
  | .condPM => if n < 40 then none else some n
  | .qpush => if n ≤ 7 ∨ n = 12 ∨ n = 13 then none else some n
  | .qpop => if n ≤ 3 ∨ (8 ≤ n ∧ n ≤ 13) then none else some n
  | .link => upTo 3
  | .path => upTo 5
  | .adr s => if s ≥ 2 then pair else vec
  | .block q => if n + q - 1 > 63 then some (n + q - 1) else none
  | .srdD sel => if sys64 sel then pair else vec
  | .swrA sel => if sys64 sel then pair else vec
  | .tdata t => if wide t then pair else vec
  | .coord t => if n + rank t - 1 > 63 then some (n + rank t - 1) else none

end Sys2Proof.Machine
end

