-- ==== Sys2Proof/Config.lean ====
section
/-! DEFINITION. What an implementation fixes and what the manual leaves open. A constant declared `opaque` has no body:
no proof can see its value, so a statement that holds, holds whatever it is (log entries 3 to 9, 51,
88, 91 and 94, DESIGN CHOICE). -/

namespace Sys2Proof.Config

/-- The member that an implementation returns where the manual names a set of several (00 R9): the `n`-th open choice of
a run, among `k` members, is member `choice n % k`. Log entry 3, DESIGN CHOICE. -/
opaque choice : Nat → Nat

/-- Which value of the set that the manual gives a supervisor shadow register of a lane holds at the `n`-th handler entry
(01 R39): the set is narrowed no further. Log entry 5, DESIGN CHOICE. -/
opaque shadowPick : (n lane reg : Nat) → Nat

/-- Ciphertext of a sealed page or image unit under a device key (18 R381, R389): byte `i` of the `n`-th sealing of the
plain bytes given. Log entry 6, DESIGN CHOICE. -/
opaque sealed : (n : Nat) → (plain : List Byte) → (i : Nat) → Byte

/-- Byte `i` of a page that is read under another world's key than it was written with (18 R378), as the `n`-th free value.
Log entry 88, DESIGN CHOICE. -/
opaque garbled : (n : Nat) → (plain : List Byte) → (i : Nat) → Byte

/-- The authentication tag (AES-256-GCM, 128 bits) of a sealing under a key handle and an initialisation vector (18 R381, R389). -/
opaque gcmTag : (key iv : Nat) → (plain : List Byte) → Nat

/-- SHAKE256 with a 256-bit output, as a number (00 R5; 19 R411, R414). -/
opaque shake256 : List Byte → Nat

/-- Byte `i` of the ML-DSA-65 signature by chip `chip` over the bytes given (00 R5; 19 R411, R414). -/
opaque signature : (chip : Nat) → List Byte → (i : Nat) → Byte

/-- Which byte of the contents that the manual lists stands at an offset of a block of a context image (18 R386, R387): it gives
no place to each. Log entry 91, DESIGN CHOICE. -/
opaque imageIndex : (kind offset : Nat) → Nat

/-- The world that the save key under a handle belongs to, in the `epoch`-th filling of the key store since manufacture; none
where no key has the handle (18 R389, R396; 19 R399). -/
opaque keyWorld : (epoch handle : Nat) → Option Nat

/-- By how much the counter of a core runs ahead of the slowest core's at a cycle; taken modulo 9 (01 R36). -/
opaque clockSkew : (core clock : Nat) → Nat

/-- The device's identity digest (20 R423; 19 R414). -/
opaque identityDigest : Nat

/-- Byte `i` of the body of an SPDM response to a request of the given code and nonce (19 R398). -/
opaque spdmByte : (code nonce i : Nat) → Byte

/-- The choices of which die `die`'s harvest map was fused at manufacture (20 R421): `field` 0 draws its disabled cores, 1 is a mask
of spare cores, 2 draws the order of the enabled ones, 3 + c the disabled rows of core c and 67 + h the disabled ways of home slice
h, with entry 2 of these a mask of the spare ones. -/
opaque fused : (die field i : Nat) → Nat

/-- The firmware image that stands on the device at manufacture (20 R423). -/
opaque firmware : List Byte

/-- Of a firmware image: the key that signs it, what the signature covers, and the signature (20 R423). -/
opaque firmwareKey : List Byte → List Byte
opaque firmwareBody : List Byte → List Byte
opaque firmwareSignature : List Byte → List Byte

/-- ML-DSA-65: the signature verifies over a message under a key (00 R5; 20 R423). -/
opaque verifies : (key message signature : List Byte) → Bool

/-- The fused digest of the vendor key, the security version of an image, and the fused minimum (20 R423). -/
opaque vendorDigest : Nat
opaque securityVersion : List Byte → Nat
opaque minimumVersion : Nat

/-- The measurement of the core and engine microcode that an image brings (20 R423). -/
opaque microcode : List Byte → Nat

/-- The home slice of a die that serves a line of 128 bytes: a hash that the manual does not give (11 R278). -/
opaque homeSlice : (line : Nat) → Nat

/-- The detail word of the record that reports a firmware image, verified or refused, as the `n`-th free value (20 R424). -/
opaque firmwareDetail : (n : Nat) → (ok : Bool) → Nat

/-- The unit that an error record names for an event of which the manual names none (20 R420). -/
opaque errorUnit : (n : Nat) → Nat

/-- How many crossbar beats, and how many 64-byte units of HBM traffic, the `n`-th access of some bytes takes (16 R365;
19 R413): the manual names the units and not the counts. Log entry 7, DESIGN CHOICE. -/
opaque beats : (n bytes : Nat) → Nat
opaque hbmUnits : (n bytes : Nat) → Nat

/-- How many bytes of one of its blocks another chip serves to a partition's requests at a cycle (19 R409, R410): its tables are its
own. -/
opaque peerServes : (part chip blk world tier : Nat) → (wr : Bool) → (clock : Nat) → Nat

/-- What a drain to an integer type leaves of an int32 accumulator times a row scale that is a NaN or an infinity (09 R203):
the manual states no result. -/
opaque scaledInt : (otype scale acc : Nat) → Nat

/-- Whether the host's root port answers the `n`-th atomic operation sent to an address of host memory with an Unsupported
Request (07 R168). Log entry 94, DESIGN CHOICE. -/
opaque unsupported : (n addr : Nat) → Bool

/-- A special function's rounded result where the model's precision does not decide it (log entry 9, DESIGN CHOICE): the function's
number, the format's number and the operand's bits. -/
opaque undecided : (fn fmt bits : Nat) → Nat

/-- What a byte of memory that nothing has written reads as: log entry 4, DESIGN CHOICE. -/
def unwritten : Byte := 0#8

end Sys2Proof.Config
end

