-- ==== Sys2Proof/Machine/Store.lean ====
section
/-! DEFINITION. Finite maps as lists of (key, value) pairs in ascending key order: the one representation of memory, of
register files and of every numbered unit of the device. -/

namespace Sys2Proof.Machine

/-- A finite map: keys strictly rising. -/
abbrev Store (α : Type) := List (Nat × α)

/-- The value at key `k`, or none. -/
def find {α : Type} : Store α → Nat → Option α
  | [], _ => none
  | (j, v) :: m, k => if k = j then some v else find m k

/-- The value at key `k`, or `d` where the map lists nothing. -/
def get {α : Type} (d : α) (m : Store α) (k : Nat) : α := (find m k).getD d

/-- The map with `v` at key `k`. -/
def put {α : Type} : Store α → Nat → α → Store α
  | [], k, v => [(k, v)]
  | (j, w) :: m, k, v =>
    if k < j then (k, v) :: (j, w) :: m
    else if k = j then (k, v) :: m
    else (j, w) :: put m k v

/-- The map with nothing at key `k`. -/
def del {α : Type} (m : Store α) (k : Nat) : Store α := m.filter fun p => p.1 != k

/-- The canonical update of a map whose unlisted keys read as `d`: the value `d` itself is never listed. -/
def set {α : Type} [DecidableEq α] (d : α) (m : Store α) (k : Nat) (v : α) : Store α :=
  if v = d then del m k else put m k v

/-- The map with the value at `k` changed by `f`, where there is one. -/
def upd {α : Type} (m : Store α) (k : Nat) (f : α → α) : Store α :=
  match find m k with
  | some v => put m k (f v)
  | none => m

/-- The map with every value changed by `f`. -/
def mapVals {α : Type} (f : Nat → α → α) (m : Store α) : Store α := m.map fun p => (p.1, f p.1 p.2)

/-- The values, in ascending key order. -/
def vals {α : Type} (m : Store α) : List α := m.map Prod.snd

/-- The least natural number above every key. -/
def fresh {α : Type} (m : Store α) : Nat := m.foldl (fun n p => Nat.max n (p.1 + 1)) 0

/-- The keys rise strictly. -/
def rising {α : Type} : Store α → Bool
  | [] => true
  | [_] => true
  | (j, _) :: (k, w) :: m => decide (j < k) && rising ((k, w) :: m)

/-- The canonical form of a map whose unlisted keys read as `d`. -/
def canonical {α : Type} [DecidableEq α] (d : α) (m : Store α) : Bool :=
  rising m && m.all fun p => decide (p.2 ≠ d)

end Sys2Proof.Machine
end

