-- ==== Sys2Proof/Machine/State.lean ====
section
/-! DEFINITION. The state of the device (00 R6): lanes, gangs, groups, cores, consorts, engines, launches, contexts,
partitions, host, peers and repair. Every unit is plain data. A numbered unit that was never used reads as its default
value, which is the value at reset or at gang, group or context start (notes/assumptions/10.md, DESIGN CHOICE). -/

namespace Sys2Proof.Machine

/-! ### Lanes, slices and gangs (chapters 01, 05, 10) -/

/-- The xorshift128+ state of one lane (01 R32). -/
structure Xs where
  s0 : W64 := 0
  s1 : W64 := 0
  deriving DecidableEq, Repr

/-- The supervisor shadow v0–v7 of a gang (01 R39): until the handler writes it, what a lane's register holds at the handler
entry `epoch` is an open member of zero and `cands`, which are values that registers of the context's gangs have held on the
core; `kept` lists what was written, under `8 · lane + register`. -/
structure Shadow where
  epoch : Nat := 0
  cands : List W32 := []
  kept : Store W32 := []
  deriving DecidableEq, Repr

/-- The pending state of one register name (01 R33; 10 R224): the pending bit, the current tag, the producer mask, the
tags whose deliveries are still on their way, and the window base of each slice when the register was named, by which the name is resolved to
a stack slot (10 R225). -/
structure Pend where
  on : Bool := false
  tag : Nat := 0
  mask : Mask := 0
  out : List Nat := []
  bases : List Nat := []
  deriving DecidableEq, Repr

/-- The body word, the count and the increments of a running repeat sequence (03 R79). -/
structure RepSeq where
  body : W32 := 0
  count : Nat := 0
  dinc : Nat := 0
  ainc : Nat := 0
  binc : Nat := 0
  cinc : Nat := 0
  deriving DecidableEq, Repr

/-- What a waiting slice waits for (05 R129, R131): a rejoin register at the address of its JWAIT, or a REGANG mask at
the address of its REGANG, since a cycle. -/
inductive Wait where
  | join (k addr : Nat)
  | regang (mask addr since : Nat)
  deriving DecidableEq, Repr

/-- Why the last attempt of a cohort to issue did not issue (10 R217, R219, R229): each value names the condition that must
clear. `sources` and `outTags` name registers; `full` a count at the top of its range (01 R35), `counts` WAIT's limits;
`older` waits for the whole store queue, `blocking` for entries of it, each with the registers that it waited on (07 R163);
`ordered` for the store-queue entries, and for what loads have still to read, before a number (14 R323); `phase` for a phase, `found` telling what the last barrier operation or credit on the object found (11 R240); `room` for places
in replay windows (10 R234), `array` for places in the array queue (09 R183), `window` for on-touch windows, each an entry
and a window, `fills` for the contexts and fills of an entry to stop (11 R249); `link` for the host link, `budget` for a balance (16 R365), `miss` for a page fault of a launch queue (16
R352); `matrix` for the bands that a MZERO or MUNPARK claims, and since when (09 R195), `swap` for an accepted MSWAP (09 R194), `credit` for CRU input words,
`context` for a stopping context, `flits` for the answers to requests sent to other chips (19 R407). Log entry 39, DEDUCED. -/
inductive Stall where
  | sources (rs : List Nat)
  | counts (l s c t : Nat)
  | full (cls : Nat)
  | older
  | blocking (qs : List (Nat × Nat))
  | ordered (n : Nat)
  | lda
  | quiet
  | removal
  | outTags (rs : List Nat)
  | residualFull
  | queue (q : Nat)
  | phase (addr ph : Nat) (found : Bool)
  | settle
  | exitWait
  | room (ks : List (Nat × Nat))
  | array (n : Nat)
  | window (ws : List (Nat × Nat))
  | fills (entry : Nat)
  | link
  | budget (cls : Nat)
  | miss (q : Nat)
  | matrix (bands : List Nat) (since : Nat)
  | swap (ticket : Nat)
  | credit (k : Nat)
  | context (x : Nat)
  | flits (fs : List (Nat × Nat))
  deriving DecidableEq, Repr

/-- The units that accept work (10 R217). -/
inductive ExecUnit where
  | vector | special | memory | array
  deriving DecidableEq, Repr

/-- One slice (01 R14, R16, R18; 05 R122). -/
structure Slice where
  /-- [55:0] the program counter, [63:58] the index of the next repetition (03 R82). -/
  pc : W64 := 0
  /-- The repeat sequence that the slice is inside. -/
  rep : Option RepSeq := none
  mode : W32 := 0
  /-- Window base B and resident low mark L. -/
  base : Nat := 0
  low : Nat := 0
  cohort : Nat := 0
  wait : Option Wait := none
  /-- The lanes in which TRET or the host's resumption re-executes the instruction at `pc` (05 R143). -/
  reexec : Option Mask := none
  /-- 0 running, 1 held until the user handler's TRET, 2 until the supervisor handler's, 2 + n until that of the n-th supervisor
  trap taken inside it (05 R140). -/
  held : Nat := 0
  last : Nat := 0
  stall : Option Stall := none
  deriving DecidableEq, Repr

/-- A pending path of a rejoin register (01 R31; 10 R222). -/
structure Path where
  pc : Nat := 0
  mask : Mask := 0
  base : Nat := 0
  count : Nat := 0
  deriving DecidableEq, Repr

/-- A rejoin register (01 R31), with the lanes parked in it (05 R121) and, under each slice, the address of the JWAIT at
which it last parked lanes. -/
structure Rejoin where
  expect : Mask := 0
  arrived : Mask := 0
  paths : List Path := []
  age : Nat := 0
  parked : Mask := 0
  parkAt : Store Nat := []
  deriving DecidableEq, Repr

/-- The trap frame that SRD reads (01 R36). -/
structure Frame where
  tpc : W64 := 0
  taux : W64 := 0
  tcause : W32 := 0
  tmask : W32 := 0
  tdone : W32 := 0
  tmode : W32 := 0
  deriving DecidableEq, Repr

/-- The part of a frame that no instruction reads (05 R140): the trapping path, the resume point, the slices of the
trapping cohort, the level trapped from, whether the trap was deferred, and the store-queue entry that failed. -/
structure Hidden where
  path : Mask := 0
  resume : W64 := 0
  slices : List Nat := []
  fromLevel : Nat := 0
  deferred : Bool := false
  store : Option Nat := none
  deriving DecidableEq, Repr

/-- A captured or faulted instruction (10 R225, R230): the word, its address, its MODE snapshot, its lanes, its settled
operands under `128 · lane + name` (names 0–63 v, 64–95 p), what it waits on with the lanes that
are still to come (`late`), and its destination names under one tag each. `keep` marks the lanes in which a pending destination was itself a source: there its older value is delivered again
under the new tag (10 R224). `flits` are its requests to other chips, each a chip and a number (19 R407). -/
structure Entry where
  id : Nat := 0
  instr : Instr
  word : W32 := 0
  addr : W64 := 0
  mode : W32 := 0
  lanes : Mask := 0
  guardPend : Bool := false
  vals : Store W32 := []
  waits : List (Nat × Nat) := []
  late : Store Mask := []
  dest : List (Nat × Nat) := []
  keep : Mask := 0
  flits : List (Nat × Nat) := []
  deriving DecidableEq, Repr

/-- One store-queue entry (07 R162): a store with its operands, in the lanes that it has still to perform. `captured`
marks one that was captured; `fault` holds the lanes that have failed and wait for their re-execution. -/
structure SqEntry where
  entry : Entry
  captured : Bool := false
  fault : Option Mask := none
  deriving DecidableEq, Repr

/-- A delivery still on its way (10 R226): the register names with their tags, the lanes, and the words under
`128 · lane + name`. `loads` counts against the load count. `entry` is the LDS that waits for an on-touch window, `queue`
the queue that a QPOP waits on; `acq` marks an LDA; `at_` is the cycle of its last sending (19 R408). `atom` is the atomic whose
return it is, with the operands that it had (20 R422); `cross` is the request's number in a flow of the crossbar (19 R408). -/
structure Deliv where
  id : Nat := 0
  regs : List (Nat × Nat) := []
  lanes : Mask := 0
  vals : Store W32 := []
  loads : Bool := false
  acq : Bool := false
  entry : Option Entry := none
  queue : Option Nat := none
  at_ : Nat := 0
  atom : Option Entry := none
  cross : Option (Nat × Nat) := none
  deriving DecidableEq, Repr

/-- A fault that waits to be taken at a boundary (05 R438). `entry` is the residual or producer that raised it; `outside`
tells that it stands outside the 32 residual entries (10 R230). `kind` and `malformed` are what the record of a page fault
says (18 R377); `at_` is the cycle of the posting. -/
structure Posted where
  code : Nat := 0
  aux : W64 := 0
  tmask : Mask := 0
  tdone : Mask := 0
  more : Nat := 0
  entry : Option Entry := none
  outside : Bool := false
  kind : Nat := 0
  malformed : Bool := false
  at_ : Nat := 0
  deriving DecidableEq, Repr

/-- Why a gang is parked (10 R219), in the row order of its table. -/
inductive Park where
  | barrier | queue | join | exit | window | page | residual | drain
  deriving DecidableEq, Repr

/-- A gang's place in the scheduler (10 R215 to R223). `can` is its readiness as judged at the start of the cycle (R217): a bit
for each slice whose cohort can issue, bit 8 for deferred work, bit 9 for a posted fault. -/
structure Sched where
  slot : Nat := 0
  born : Nat := 0
  active : Bool := false
  from_ : Nat := 0
  grant : Option Nat := none
  park : Option Park := none
  yielded : Bool := false
  waited : Nat := 0
  outside : Nat := 0
  quiet : Nat := 0
  idle : Nat := 0
  hung : Bool := false
  can : Nat := 0
  deriving DecidableEq, Repr

/-- Wait counters (01 R35). -/
structure Counts where
  loads : Nat := 0
  stores : Nat := 0
  copies : Nat := 0
  tiles : Nat := 0
  deriving DecidableEq, Repr

/-- System registers and flags of a gang (01 R36, R37). -/
structure Sys where
  fpctl : W32 := 0
  fpflags : W32 := 0
  gflags : W32 := 0
  utvec : W64 := 0
  rlost : W32 := 0
  parks : Nat := 0
  high : Nat := 0
  deriving DecidableEq, Repr

/-- A parked page fault (07 R154): the seq of its record, the slices, and the lanes to re-execute; for a captured
instruction or a producer its entry, and whether it stands outside the 32 (10 R230). -/
structure PageFault where
  seq : Nat := 0
  slices : List Nat := []
  lanes : Mask := 0
  entry : Option Entry := none
  outside : Bool := true
  deriving DecidableEq, Repr

/-- A trap to take: the cause, sys.taux, the masks, the address, and whether it is deferred or forced to the supervisor. -/
structure Trap where
  code : Nat
  aux : W64 := 0
  tmask : Mask := 0
  tdone : Mask := 0
  tpc : W64 := 0
  deferred : Bool := false
  sup : Bool := false
  resume : W64 := 0
  store : Option Nat := none
  deriving DecidableEq, Repr

/-- The registers of a gang's lanes; `seen` lists the values other than zero that vector registers have been given on the
core (01 R39). -/
structure Regs where
  /-- v0–v15 and stack slots: key `32 · n + lane` with n below 16 for the fixed registers, 16 + slot for the stack. -/
  vec : Store W32 := []
  /-- p0–p31, each as a lane mask. -/
  pred : Store Mask := []
  /-- Lanes whose random state has moved from its start. -/
  xs : Store Xs := []
  shadow : Shadow := {}
  seen : List W32 := []
  pend : Store Pend := []
  deriving DecidableEq, Repr

/-- What the open load `id` of a gang reads in a lane where it turns out to share a byte with `n` bytes at `at_`: the 16 bytes
around them as a younger access of the lane found them (14 R321). -/
structure Past where
  id : Nat := 0
  lane : Nat := 0
  at_ : Nat := 0
  n : Nat := 0
  block : List Byte := []
  deriving DecidableEq, Repr

/-- Deferred work and queues of a gang. Stores before the number `ordered` are performed before any later load (14 R323). -/
structure Work where
  residuals : List Entry := []
  /-- The faulted entry at the head, with its remaining lanes, and whether it stands outside the 32 (10 R230). -/
  faulted : Option (Entry × Mask × Bool) := none
  stores : List SqEntry := []
  flight : List Deliv := []
  posted : List Posted := []
  nextId : Nat := 0
  ordered : Nat := 0
  past : List Past := []
  deriving DecidableEq, Repr

/-- One gang. -/
structure Gang where
  group : Nat := 0
  core : Nat := 0
  gangid : Nat := 0
  nslices : Nat := 1
  live : Bool := false
  slices : List Slice := []
  /-- The lanes of the path of each slice, and the exited lanes (05 R121). -/
  path : Mask := 0
  exited : Mask := 0
  regs : Regs := {}
  fan : Store Nat := []
  rejoin : Store Rejoin := []
  counts : Counts := {}
  sys : Sys := {}
  level : Nat := 0
  userH : Bool := false
  supH : Bool := false
  /-- Supervisor traps taken inside the supervisor handler and not returned from (05 R142). -/
  nest : Nat := 0
  frame : Frame := {}
  hidUser : Hidden := {}
  hidSup : Hidden := {}
  work : Work := {}
  sched : Sched := {}
  page : Option PageFault := none
  /-- A trap that the gang takes, on a cohort, once the fault record before it has been written (18 R376). -/
  owed : Option (List Nat × Trap) := none
  exitc : Option (Nat × Nat) := none
  stopped : Bool := false
  failed : Bool := false
  /-- Decoded chunks that q13 holds; none for one in error (11 R276). -/
  chunks : List (Option (List Byte)) := []
  /-- Rows of matrix ports 0–3: key `8 · port + row` (09 R200). -/
  rows : Store (List W32) := []
  /-- The position of the last read within each uniform register's span (01 R24). -/
  lastRead : Store Nat := []
  /-- Removals of cached axis items that AXINV has started (12 R296): the scope, and the table or all. -/
  axinv : List (Nat × Option Nat) := []
  /-- MSWAPs that have been accepted and not retired (09 R194): the lowest slice, the address, and the command's ticket. -/
  swaps : List (Nat × W64 × Nat) := []
  /-- Loads read no load-cache line filled before this one of the core's fills (14 R318). -/
  since : Nat := 0
  deriving DecidableEq, Repr

/-! ### Groups, cores and consorts (chapters 09, 11, 12) -/

/-- A reservation record (09 R188). -/
structure OdRec where
  base : Nat := 0
  len : Nat := 0
  pitch : Nat := 0
  kext : Nat := 0
  fmt : Nat := 0
  layout : Nat := 0
  lcode : Nat := 0
  m : Nat := 0
  scaled : Bool := false
  zres : Bool := false
  skip : Bool := false
  soff : Nat := 0
  deriving DecidableEq, Repr

/-- The state of one window of an on-touch entry (11 R247). -/
inductive WState where
  | absent | filling | present | faulted
  deriving DecidableEq, Repr

/-- A catalogue entry (11 R246, R247): the record's fields and the state. -/
structure CatEntry where
  valid : Bool := false
  rbase : Nat := 0
  wsize : Nat := 0
  cnt : Nat := 0
  touch : Bool := false
  mcast : Bool := false
  full : Nat := 0
  free : Nat := 0
  prog : Nat := 0
  tdmap : List Nat := []
  next : Nat := 0
  ctx : Option Nat := none
  wstate : Store WState := []
  wfill : Store Nat := []
  wants : Store Nat := []
  fcode : Nat := 0
  deriving DecidableEq, Repr

/-- The contribution of a group to a CRU round (09 R210): who issued it, where the result goes, and its words. -/
structure Contrib where
  gang : Nat := 0
  group : Nat := 0
  dst : Nat := 0
  words : List Nat := []
  deriving DecidableEq, Repr

/-- The contribution of a group's place and the group itself (09 R210): a round's op, count and number of participants, and the
contributions under the group's position. -/
structure Round where
  number : Nat := 0
  op : Nat := 0
  n : Nat := 0
  size : Nat := 1
  parts : Store Contrib := []
  deriving DecidableEq, Repr

/-- One resident group (10 R212; 11 R236). -/
structure Group where
  launch : Option Nat := none
  ctx : Nat := 0
  part : Nat := 0
  core : Nat := 0
  groupid : Nat := 0
  ngangs : Nat := 1
  nslices : Nat := 1
  live : Bool := false
  /-- Position in the consort and size; the groups of the consort by position. -/
  pos : Nat := 0
  csize : Nat := 0
  peers : List Nat := []
  ageing : Bool := false
  stack : Nat := 1
  spad : Nat := 1
  parkShare : Nat := 0
  wreg : Store W64 := []
  owner : Store Nat := []
  /-- The values that each uniform register has held in this span, oldest first (01 R24). -/
  span : Store (List W64) := []
  td : Store (List Byte) := []
  od : Store OdRec := []
  cat : Store CatEntry := []
  cru : List W32 := []
  cruRound : Nat := 0
  handles : Store Nat := []
  ended : Bool := false
  deriving DecidableEq, Repr

/-- One plane of a matrix array (09 R193): the slab, its format, and its marks. -/
structure Plane where
  loaded : Bool := false
  faulted : Bool := false
  slab : Nat := 0
  od : OdRec := {}
  kslab : Nat := 0
  bytes : List (List Byte) := []
  scales : List (List Byte) := []
  deriving DecidableEq, Repr

/-- One band (09 R196); accumulators under `32 · row + column`, as bits of the kind (0 FP32, 1 FP64, 2 int32); `home` is the
offset of the slot that it was last restored from (18 R386). -/
structure Band where
  owner : Option Nat := none
  bind : Option Nat := none
  kind : Nat := 0
  inUse : Bool := false
  dirty : Bool := false
  faulted : Bool := false
  home : Nat := 0
  acc : Store Nat := []
  deriving DecidableEq, Repr

/-- One quarter's request of a pass: whether its rows come from the stream port, quarter, band and its kind at acceptance,
active lanes, the record's copy, first row and slab. `ticket` names the instruction, whose requests count as one tile
operation. -/
structure QReq where
  port : Bool := false
  q : Nat := 0
  band : Nat := 0
  kind : Nat := 0
  lanes : Mask := 0
  od : OdRec := {}
  row : Nat := 0
  slab : Nat := 0
  ticket : Nat := 0
  deriving DecidableEq, Repr

/-- One quarter's drain: quarter, band and its kind, active lanes, scratchpad address, control word, the lanes' scales,
the drawn stochastic words under `32 · lane + column`, the barrier phase to credit, the fan-out mask, and MODE. -/
structure DReq where
  q : Nat := 0
  band : Nat := 0
  kind : Nat := 0
  lanes : Mask := 0
  addr : Nat := 0
  ctl : Nat := 0
  scale : Store Nat := []
  draws : Store Nat := []
  phase : Option (Nat × Nat) := none
  fan : Nat := 0
  mode : W32 := 0
  ticket : Nat := 0
  deriving DecidableEq, Repr

/-- An accepted command of an array queue (09 R183). A plane is named by its number; a parked band comes with its kind,
a restored one also with its faulted mark. A pass holds its merged requests, each of which takes an entry. -/
inductive ArrayCmd where
  | mlds (od : OdRec) (slab plane : Nat)
  | mswap (ticket : Nat)
  | mzero (bands : List Nat)
  | pass (odn plane : Nat) (reqs : List QReq)
  | drain (req : DReq)
  | park (off : Nat) (bands : List (Nat × Nat)) (stride : Nat)
  | unpark (off : Nat) (bands : List (Nat × Nat × Bool)) (stride : Nat)
  deriving DecidableEq, Repr

/-- A queued command with the gang, its group and the address of the instruction that issued it; `at_` is the cycle of
acceptance. -/
structure QCmd where
  gang : Nat := 0
  group : Nat := 0
  addr : W64 := 0
  at_ : Nat := 0
  cmd : ArrayCmd
  deriving DecidableEq, Repr

/-- A cached translation (18 R375): context, page number, physical page address, read-only mark, and the size of the page
that the walk found. `stale` lists the cores that use it no more, of a die's buffer (18 R394). -/
structure Tlb where
  ctx : Nat := 0
  vpn : Nat := 0
  pa : Nat := 0
  ro : Bool := false
  size : Nat := 65536
  stale : List Nat := []
  deriving DecidableEq, Repr

/-- A cached table header (`entry = none`) or entry with its bytes (12 R287). -/
structure AxItem where
  ctx : Nat := 0
  table : Nat := 0
  entry : Option Nat := none
  bytes : List Byte := []
  deriving DecidableEq, Repr

/-- A code-table slot of the weight decoder (11 R273). -/
structure CodeTable where
  count : List Nat := []
  symbols : List Byte := []
  deriving DecidableEq, Repr

/-- A line of a load cache (07 R160): which of the core's fills filled it, and its 128 bytes. -/
structure Line where
  stamp : Nat := 0
  bytes : List Byte := []
  deriving DecidableEq, Repr

/-- One core. -/
structure Core where
  ctx : Option Nat := none
  planes : List Plane := [{}, {}]
  active : Nat := 0
  /-- As the accepted commands will leave them (09 R183): the active plane's number, and the record and slab of each plane. -/
  nextActive : Nat := 0
  slabs : List (Option OdRec) := [none, none]
  bands : List Band := [{}, {}, {}, {}]
  array : List QCmd := []
  /-- The band state word of each gang at the acceptance of its latest command (09 R207). -/
  words : Store Nat := []
  /-- Load-cache lines under their line number (07 R160), and how many have been filled. -/
  cache : Store Line := []
  fills : Nat := 0
  dec : Store CodeTable := []
  decLoad : List (Nat × CodeTable) := []
  backoff : Nat := 32
  /-- Of the scheduler (10 R216 to R218): the gangs granted in this cycle and in the one before, the units taken in this
  cycle, the gangs found in a latency stall (with the slices, as bits), and the cycle of the latest entry to the active set. -/
  granted : List Nat := []
  before : List Nat := []
  used : List ExecUnit := []
  late : List (Nat × Nat) := []
  entered : Option Nat := none
  /-- What the core's counter last showed (01 R36). -/
  clockSeen : Nat := 0
  /-- Values that registers of gangs which have left held since the core began to serve its context (01 R39). -/
  seen : List W32 := []
  deriving DecidableEq, Repr

/-- One direction of a queue between units (10 R232): the sender's replay window (number, words, mask), the numbers
next to send and next expected, the receive queue, a refusal and its back-off. Keys: notes/assumptions/11.md. -/
structure Link where
  owner : Option Nat := none
  /-- The core of the latest owner, whose sys.qbackoff governs what it has sent (10 R233). -/
  core : Option Nat := none
  window : List (Nat × List W32 × Mask) := []
  nextSend : Nat := 0
  sent : Nat := 0
  expect : Nat := 0
  recv : List (List W32 × Mask) := []
  refused : Bool := false
  /-- The back-off of the next refusal; 0 stands for sys.qbackoff.base. -/
  delay : Nat := 0
  resume : Nat := 0
  deriving DecidableEq, Repr

/-! ### Engines (chapter 11) -/

/-- A box on a descriptor slot of a stream context (11 R259). -/
structure StreamBox where
  desc : List Byte := []
  origin : List Nat := []
  extent : List Nat := []
  deriving DecidableEq, Repr

/-- The part of a stream context that a checkpoint holds (11 R268). -/
structure StreamRegs where
  e : Store W64 := []
  lc : Store W32 := []
  start : Store Nat := []
  sd : Store StreamBox := []
  pc : Nat := 0
  cur : Option Nat := none
  fill : Nat := 0
  tag : W32 := 0
  deriving DecidableEq, Repr

/-- The box that a fetch under way reads (11 R260; 14 R311): the descriptor slot, whether its blocks are remote, the axes' indices, and
its bytes as read. -/
structure BoxRead where
  slot : Nat := 0
  remote : Bool := false
  axes : List (List Nat) := []
  data : List Byte := []
  deriving DecidableEq, Repr

/-- One stream context (11 R253 to R256). `state` is that of SEQRY; `fillNo` is the index of the on-touch fill that it makes.
`arrived` counts the arrivals that SE.EXPECT made in phase `cur` since the checkpoint, `expected` the bytes that it added. Of an
operation under way, `beats` holds what it has still to write, each beat at an offset of the window, and `out` the return-port
entries still to send, and `reading` is the box whose bytes these are, `flits` the requests to other chips whose answers it
needs (19 R407); `stopping` (SESTOP) and `clearing` (CATCLR) take effect at its end, and `pausing` tells that the operation
waits for credits. -/
structure StreamCtx where
  group : Nat := 0
  gang : Nat := 0
  entry : Nat := 0
  touch : Option Nat := none
  fillNo : Nat := 0
  state : Nat := 1
  code : Nat := 0
  regs : StreamRegs := {}
  check : StreamRegs := {}
  arrived : Nat := 0
  expected : Nat := 0
  beats : List (Nat × List Byte) := []
  out : List (Nat × List W32) := []
  reading : Option BoxRead := none
  flits : List (Nat × Nat) := []
  stopping : Bool := false
  clearing : Bool := false
  pausing : Bool := false
  fault : Option Nat := none
  deriving DecidableEq, Repr

/-- Bytes visible and awaiting an open phase (11 R242): the object, the phase, the bytes, the stream context or the gang
whose tile operation waits for the credit, with its ticket; `bulk` tells that the bulk path wrote the bytes; `mark` is a fault mark
(11 R266) that waits in the same way. -/
structure Credit where
  obj : Nat := 0
  phase : Nat := 0
  nbytes : Nat := 0
  stream : Option Nat := none
  tile : Option (Nat × Nat) := none
  mark : Option Nat := none
  deriving DecidableEq, Repr

/-- The turn of a stream engine (11 R254): the context that it served last, and when. -/
structure Engine where
  last : Option Nat := none
  at_ : Option Nat := none
  deriving DecidableEq, Repr

/-- A bulk copy (11 R269): the request, the 128-byte beats still to copy and the bytes written, how it ended (status and
code), its page fault, and for an import the digest that the accession record gives, the beats read so far and where they were
written (19 R412). `asked` is a beat with its requests to other chips (19 R407), and `noRec` tells that the fault of its completion
ring has been posted (R271). `chunk` is csize, p0 and the barrier's place. -/
structure Bulk where
  gang : Nat := 0
  group : Nat := 0
  part : Nat := 0
  die : Nat := 0
  ctx : Nat := 0
  src : Nat := 0
  dst : Nat := 0
  len : Nat := 0
  ring : Nat := 0
  tag : W32 := 0
  dsp : Bool := false
  chunk : Option (Nat × Nat × Nat) := none
  imp : Bool := false
  ddig : Option Nat := none
  seen : Store (List Byte) := []
  wrote : List (Nat × Nat) := []
  noRec : Bool := false
  todo : List Nat := []
  got : Nat := 0
  ended : Option (Nat × Nat × Nat) := none
  fault : Option Nat := none
  asked : Option (Nat × List (Nat × Nat)) := none
  deriving DecidableEq, Repr

/-- An OBLD copy (09 R190): the first byte of the operand buffer that it fills, the pieces of its translated source, and its requests
to other chips (19 R407). -/
structure Obld where
  gang : Nat := 0
  core : Nat := 0
  base : Nat := 0
  src : List (Nat × Nat) := []
  flits : List (Nat × Nat) := []
  deriving DecidableEq, Repr

/-! ### Launches (chapters 16, 17) -/

/-- A launch queue of a partition (16 R348, R349, R358, R359): `cur` is the launch that is being placed, `depMet` what the
last poll of the next record's dependences found, `stuck` a slot that could not be read, `fault` the page fault that its
reads wait for, and `hfault` that of its header, `consDue` that cons has still to be written there, `reread` a header that has
still to be read, `bind` the context and header of a QBIND that the next doorbell makes good, `since` the cycle from which it has
had a group to place and no core to take it. -/
structure Queue where
  bound : Bool := false
  ctx : Nat := 0
  header : Nat := 0
  fresh : Bool := true
  on : Bool := false
  prod : Nat := 0
  cons : Nat := 0
  lsize : Nat := 0
  prio : Nat := 0
  dispatch : Nat := 0
  cur : Option Nat := none
  depMet : Bool := false
  stuck : Bool := false
  fault : Option Nat := none
  hfault : Option Nat := none
  consDue : Bool := false
  reread : Bool := false
  granted : Option Nat := none
  bind : Option (Nat × Nat) := none
  since : Option Nat := none
  reserving : Option Nat := none
  deriving DecidableEq, Repr

/-- A launch record that the device has read (16 R350) and what became of it: `next` is the next group to handle, `ending`
the final status of a launch that places no more, `closing` the final status to take once the counter has been added to.
`adds` and `stats` are counter additions (address, value, whether to cctr) and status writes still to make, each list with
the page fault that it waits for. `tile` is the tile record of the next group once it has been read, `blocks` the parameter blocks
read so far (16 R353); `detached` marks a launch whose queue has been bound anew. -/
structure Launch where
  detached : Bool := false
  tile : Option (List Byte) := none
  blocks : Store (List Byte) := []
  part : Nat := 0
  queue : Nat := 0
  slot : Nat := 0
  ctx : Nat := 0
  recVa : Nat := 0
  entry : Nat := 0
  pblk : Nat := 0
  gangs : Nat := 1
  slices : Nat := 1
  cons : Nat := 0
  ageing : Bool := false
  rdrv : Bool := false
  pword : Nat := 0
  ngroups : Nat := 0
  fpctl : Nat := 0
  utvec : Nat := 0
  cctr : Nat := 0
  tiles : Nat := 0
  params : List W64 := []
  next : Nat := 0
  placed : Nat := 0
  finished : Nat := 0
  status : Nat := 0
  detail : Nat := 0
  ending : Option (Nat × Nat) := none
  closing : Option (Nat × Nat) := none
  addFailed : Bool := false
  adds : List (Nat × Nat × Bool) := []
  addWait : Option Nat := none
  stats : List (Nat × Nat) := []
  statWait : Option Nat := none
  deriving DecidableEq, Repr

/-! ### Contexts and partitions (chapters 18, 19) -/

/-- The state of a context (18 R372). -/
inductive CtxState where
  | none | resident | stopping | quiescent | halted | saved | failed
  deriving DecidableEq, Repr

/-- What an image that has been taken of a context stands for (18 R385 to R389): the context, its world, the header's word for each
launch queue, the written pages under their address with the poisoned words among them, and the gangs, groups, open rounds,
cores, stream contexts, copies, credits and queues, with what has landed for its link ends (`recvs`); and the bytes as written,
sealed for a protected context under a counter and a key. -/
structure Saved where
  ctx : Nat := 0
  world : Nat := 0
  queues : List Nat := []
  pages : Store (List Byte) := []
  poison : List Nat := []
  gangs : Store Gang := []
  groups : Store Group := []
  rounds : Store (List Round) := []
  cores : Store Core := []
  streams : Store StreamCtx := []
  bulks : Store Bulk := []
  credits : List Credit := []
  links : Store Link := []
  recvs : List (Nat × List (List W32 × Mask)) := []
  stored : List Byte := []
  counter : Nat := 0
  key : Nat := 0
  deriving DecidableEq, Repr

/-- One context (18 R372, R390). A stop ends in a halt, in the end of the context, or was caused by a link loss as `halting`,
`ending` and `linkStop` tell; `saved` lists the images taken of it, the newest first; `saveS` and `expectX` are S and X;
`key` is the bound save key: its handle, and how often the keys had been zeroised, times 2^32. -/
structure Ctx where
  state : CtxState := .none
  part : Nat := 0
  root : Nat := 0
  world : Nat := 0
  runtime : Bool := false
  binding : Option (List Byte) := none
  halting : Bool := false
  ending : Bool := false
  linkStop : Bool := false
  quietFor : Nat := 0
  saveS : Nat := 0
  expectX : Option Nat := none
  key : Option Nat := none
  saved : List Saved := []
  deriving DecidableEq, Repr

/-- A fault record (18 R376): kind, context, agent (a gang, a stream context, a bulk copy, the launcher for a queue) and contents. -/
structure FaultRec where
  kind : Nat := 0
  ctx : Nat := 0
  gang : Option Nat := none
  stream : Option Nat := none
  bulk : Option Nat := none
  queue : Option Nat := none
  addr : Nat := 0
  detail : Nat := 0
  pcs : List W64 := []
  gstate : Nat := 0
  gcause : Nat := 0
  deriving DecidableEq, Repr

/-- A usage record that is closed and not yet written (19 R414): seq, clock, final mark, gap before it and counters. -/
structure Usage where
  seq : Nat := 0
  clock : Nat := 0
  final : Bool := false
  counters : List Nat := []
  deriving DecidableEq, Repr

/-- The state of a virtual function's TDI (19 R398): CONFIG_UNLOCKED, CONFIG_LOCKED, RUN and ERROR. -/
inductive Tdi where
  | unlocked | locked | run | error
  deriving DecidableEq, Repr

/-- One partition (19 R402 to R404, R413, R414). `up` tells that the host link carries its function, whose TDI is in state `tdi`
(R398, R399; log entry 61, DESIGN CHOICE). `grantAt` is the cycle of the launcher's last grant (16 R358). `ide` and `session` tell
that IDE keys and an SPDM session are newer than the last link loss. -/
structure Part where
  live : Bool := false
  consorts : Nat := 0
  halves : Nat := 0
  budgets : List Nat := []
  balance : List Int := []
  period : Nat := 0
  sshare : Nat := 0
  fring : Nat := 0
  uring : Nat := 0
  worlds : Nat := 0
  ptimg : Nat := 0
  ptlen : Nat := 0
  stvec : W64 := 0
  /-- Values that sys.stvec had before, each with the cycle of the write that replaced it (01 R40). -/
  stvecOld : List (Nat × W64) := []
  born : Nat := 0
  meters : List Nat := [0, 0, 0, 0, 0, 0, 0, 0, 0]
  seconds : Nat := 0
  hprev : Nat := 0
  gap : Nat := 0
  held : List Usage := []
  waiting : List FaultRec := []
  /-- Hang records that wait for the host link (19 R399). -/
  hangs : List FaultRec := []
  faults : Store FaultRec := []
  sstab : Nat := 0
  sscount : Nat := 0
  up : Bool := true
  tdi : Tdi := .run
  ide : Bool := false
  session : Bool := true
  /-- Hutur traffic held by a containment (20 R425). -/
  hold : Bool := false
  /-- What waits for the end of the partition's contexts: 0 nothing, 1 PRESET, 2 PDESTROY. -/
  closing : Nat := 0
  grantAt : Option Nat := none
  deriving DecidableEq, Repr

/-- A control page or the management page (19 R400); `wait` and `waitPart` are the context and the partition whose end the
running command waits for. -/
structure Page where
  tok : W32 := 0
  args : List W64 := [0, 0, 0, 0]
  busy : Bool := false
  stat : Nat := 0
  res : W64 := 0
  wait : Option Nat := none
  waitPart : Option Nat := none
  deriving DecidableEq, Repr

/-- A ticket of an exported page (18 R381); `sealing` is the number of its sealing. -/
structure Ticket where
  ctx : Nat := 0
  world : Nat := 0
  version : Nat := 0
  tag : Nat := 0
  plain : List Byte := []
  sealing : Nat := 0
  deriving DecidableEq, Repr

/-- An error record closed and not yet written (20 R420). -/
structure ErrRec where
  kind : Nat := 0
  serial : Nat := 0
  clock : Nat := 0
  part : Nat := 255
  world : Nat := 255
  ctx : Nat := 255
  unit : Nat := 0
  pa : Nat := 0
  detail : Nat := 0
  deriving DecidableEq, Repr

/-- A Hutur port (19 R406); `key` is the number of the session whose link keys it holds. -/
structure Port where
  up : Bool := false
  chip : Nat := 0
  key : Option Nat := none
  deriving DecidableEq, Repr

/-- A flit that awaits its acknowledgement (19 R407): its number, source and destination chip, partition, world and class (0 read, 1
store, 2 atomic; log entry 103, DESIGN CHOICE), the place that it asks for, the cycle of its last sending and how often it has been
sent again; `sent` is false where no port could carry it yet, or a containment holds it (20 R425). -/
structure Flit where
  seq : Nat := 0
  src : Nat := 0
  dst : Nat := 0
  part : Nat := 0
  world : Nat := 0
  cls : Nat := 0
  flat : Nat := 0
  len : Nat := 0
  at_ : Nat := 0
  tries : Nat := 0
  sent : Bool := true
  deriving DecidableEq, Repr

/-- A flow of a die's crossbar, from a source port to a destination unit (19 R408): the next number to send, the next that the unit
expects, and the last one acknowledged. -/
structure Flow where
  next : Nat := 0
  expect : Nat := 0
  acked : Option Nat := none
  deriving DecidableEq, Repr

/-- The numbering of flits to and from one chip (19 R407): next number to send, those unacknowledged, next expected, those buffered
ahead, those delivered, and the acknowledgements sent. -/
structure Flits where
  next : Nat := 0
  unacked : List Flit := []
  expect : Nat := 0
  ahead : List (Nat × Nat) := []
  delivered : List Nat := []
  acks : List Nat := []
  deriving DecidableEq, Repr

/-- What the device last completed to the host or a peer: 0 done, 1 refused; the value read; and whether it is poisoned. -/
structure Reply where
  status : Nat := 0
  value : Nat := 0
  poison : Bool := false
  deriving DecidableEq, Repr

/-- The host link, security processor and repair state (chapters 19, 20). `admitted` holds chip, identity digest and
measurements; `spdm` is how far the SPDM connection has come, `mail` the last response; `logged` counts what the manual says
is logged under no record kind; `corrUnit` holds the cycles of each unit's latest corrections; `table` is the first page of the
provenance table (18 R378). `sessions` counts the link sessions so far, `image` is the firmware that
runs where it is not that of manufacture and `boot` tells whether the last reset's boot ROM found it valid (20 R423; none before a
hot reset, when the image decides), and `broken` the cores, each with a physical array row or whole, that wait for
a spare (20 R421). -/
structure Chip where
  number : Nat := 0
  ports : Store Port := []
  flits : Store Flits := []
  flows : Store Flow := []
  admitted : List (Nat × Nat × Nat) := []
  trusted : Store (List Nat) := []
  spdm : Nat := 0
  session : Bool := false
  serial : Nat := 0
  tickets : Store Ticket := []
  nextTicket : Nat := 1
  versions : Store Nat := []
  failing : List Nat := []
  failingPorts : List Nat := []
  hmap : Store Byte := []
  ering : Nat := 0
  elsize : Nat := 0
  errors : List ErrRec := []
  egap : Nat := 0
  fwpa : Nat := 0
  fwlen : Nat := 0
  image : Option (List Byte) := none
  boot : Option Bool := none
  corr : Nat := 0
  corrUnit : Store (List Nat) := []
  unavailable : Nat := 0
  logged : Nat := 0
  reply : Reply := {}
  mail : List Byte := []
  /-- How often the keys have been zeroised (19 R399). -/
  epoch : Nat := 0
  sessions : Nat := 0
  broken : List (Nat × Option Nat) := []
  table : Nat := 0xBFFF40
  deriving DecidableEq, Repr

/-! ### Writes that not every agent sees yet (chapter 14) -/

/-- A write whose place some observers still see as it was before (14 R315, R316): the path that made it (07 R176), its agent
(the core path 0, an engine's by `streamAgent` and its like), the gang whose it is with its core and group, the place and the bytes
before it. `hid` has a bit for each observer: path p of core c is number 256 p + c. It is shown in units of `unit` bytes
(R311). `phases` are the barrier phases that count its bytes (R315), `records` the completion records that tell of it; `known`
are the gangs that have observed it complete (07 R176), and `carried` those whose releases carry it (R318). Log entry 76,
DESIGN CHOICE. -/
structure Veil where
  path : Nat := 0
  agent : Nat := 0
  gang : Nat := 0
  core : Nat := 0
  group : Nat := 0
  hid : Nat := 0
  flat : Nat := 0
  old : List Byte := []
  unit : Nat := 1
  phases : List (Nat × Nat) := []
  records : List Nat := []
  known : List Nat := []
  carried : List Nat := []
  deriving DecidableEq, Repr

/-- An atomic on a scratchpad word whose write part is still to come (14 R322): the gang and its group, whether it is performed
at the bank or at the consort unit (07 R167), the place and what it writes. -/
structure Half where
  gang : Nat := 0
  group : Nat := 0
  bank : Bool := false
  flat : Nat := 0
  bytes : List Byte := []
  deriving DecidableEq, Repr

/-- A pass whose reads nothing has ordered yet before the writes of other engines (07 R176; 14 R315): the core, the gang, the plane,
the requests, and the accumulators of their bands before it. -/
structure Reread where
  core : Nat := 0
  gang : Nat := 0
  plane : Nat := 0
  reqs : List QReq := []
  accs : List (Nat × Store Nat) := []
  deriving DecidableEq, Repr

/-! ### The device -/

/-- What acts next (log entry 2, DESIGN CHOICE): an event of the table, the next issue grant of a core, the next operation or
beat of a stream engine, the end of some cycles, a removal that AXINV has started, a beat of a bulk copy, a cache that drops an
item, or what chapter 14 leaves open: `aside` keeps what the next act writes from observers that nothing orders after it, and an atomic's
write apart from its read; `show` lets every observer see the first bytes of the `k`-th such write; `reread` lets the latest pass of a
core read once more, where no rule orders its reads before what has been written since; `rebox` lets the operation of a stream
context read bytes anew that it has still to write (R311).
`late` lists gangs of the core with cohorts in a latency stall (04 R94), whose cycles the model leaves open: a bit for each
slice, and bit 8 where deferred work and posted faults wait. -/
inductive Act where
  | event (i : Instr)
  | issue (core : Nat) (late : List (Nat × Nat))
  | stream (n : Nat)
  | idle (n : Nat)
  | axinv (g : Nat)
  | bulk (b : Nat)
  | dropLine (c line : Nat)
  | dropTlb (u i : Nat)
  | dropAx (u i : Nat)
  | aside
  | show_ (k n : Nat)
  | reread (c : Nat)
  | rebox (h k n : Nat)
  deriving DecidableEq, Repr

/-- Who executes an instruction: the gang and the slices of its issuing cohort, the address and the word; `hi` holds, for
d, a, b and c, how many times 64 a stepped field exceeds its six bits (03 R80); `ctx` is a stream context. -/
structure Cur where
  gang : Nat := 0
  slices : List Nat := []
  pc : W64 := 0
  word : W32 := 0
  hiD : Nat := 0
  hiA : Nat := 0
  hiB : Nat := 0
  hiC : Nat := 0
  ctx : Nat := 0
  deriving DecidableEq, Repr

/-- The whole device. -/
structure State where
  /-- Cycles since device reset (sys.clock). -/
  clock : Nat := 0
  agenda : List Act := []
  turn : Nat := 0
  /-- The number of free values used so far. -/
  free : Nat := 0
  /-- The next number of a group or gang: none is used twice. -/
  names : Nat := 1
  cur : Cur := {}
  /-- Physical memory, host memory, scratchpads and operand buffers (notes/assumptions/12.md lays the space out). -/
  mem : List Host.Cell := []
  /-- Poisoned protection words (20 R416), under the address of their first byte. -/
  poison : Store Bool := []
  /-- The 4 KiB pages of scratchpads, parking shares and operand buffers that some path has written (18 R386), under their
  address divided by 4096. -/
  inked : Store Bool := []
  prov : Store Byte := []
  /-- Writes that some observers do not see yet, the oldest first, and atomics without their write part (chapter 14); `rereads` are
  passes that may still read anew; `aside` marks what the current act writes. -/
  veils : List Veil := []
  halves : List Half := []
  rereads : List Reread := []
  aside : Bool := false
  gangs : Store Gang := []
  groups : Store Group := []
  /-- The open CRU rounds of the groups placed together (09 R210), under the group of lowest index. -/
  rounds : Store (List Round) := []
  cores : Store Core := []
  links : Store Link := []
  /-- Translation buffers (18 R375): of core `c` under `c`, of die `d` under `1024 + d`. -/
  tlb : Store (List Tlb) := []
  /-- Axis-entry caches (12 R287): of core `c` under `c`, of stream engine `n` under `1024 + n`. -/
  axis : Store (List AxItem) := []
  streams : Store StreamCtx := []
  engines : Store Engine := []
  credits : List Credit := []
  bulks : Store Bulk := []
  oblds : Store Obld := []
  queues : Store Queue := []
  launches : Store Launch := []
  ctxs : Store Ctx := []
  parts : Store Part := []
  pages : Store Page := []
  chip : Chip := {}
  deriving DecidableEq, Repr

/-- The machine right after reset: nothing is resident, no partition exists, memory lists nothing. -/
def State.reset : State := {}

/-- Why the machine stops. -/
inductive Fault where
  /-- Raised by a core instruction or a stream word executed for a gang or context that does not exist. No run of the
  device does that: safe. -/
  | noIssuer
  /-- Raised by a repeat body that is no instruction word; the decoder never gives one: safe. -/
  | notAWord
  deriving DecidableEq, Repr

/-- Why the model gives no meaning. -/
inductive Refusal where
  /-- Answered by the dispatch table for an instruction that the model does not cover: safe. -/
  | notModelled (mnemonic : String)
  deriving DecidableEq, Repr

end Sys2Proof.Machine
end

