-- ==== Sys2Proof/Machine/Ops.lean ====
section
/-! DEFINITION. Named operations over the state: units, memory and poison, translation, fault records, stopping a context,
barrier objects, and taking and returning from a trap. -/

namespace Sys2Proof.Machine

/-! ### Units -/

/-- A gang, group, core and so on by its number; one never used reads as its default. -/
def State.gang (s : State) (k : Nat) : Gang := get {} s.gangs k
def State.group (s : State) (k : Nat) : Group := get {} s.groups k
def State.core (s : State) (k : Nat) : Core := get {} s.cores k
def State.link (s : State) (k : Nat) : Link := get {} s.links k
def State.stream (s : State) (k : Nat) : StreamCtx := get {} s.streams k
def State.queue (s : State) (p q : Nat) : Queue := get {} s.queues (64 * p + q)
def State.launch (s : State) (k : Nat) : Launch := get {} s.launches k
def State.ctx (s : State) (k : Nat) : Ctx := get {} s.ctxs k
def State.part (s : State) (k : Nat) : Part := get {} s.parts k
def State.page (s : State) (k : Nat) : Page := get {} s.pages k

/-- The state with one unit replaced. -/
def State.setGang (s : State) (k : Nat) (g : Gang) : State := { s with gangs := put s.gangs k g }
def State.setGroup (s : State) (k : Nat) (g : Group) : State := { s with groups := put s.groups k g }
def State.setCore (s : State) (k : Nat) (c : Core) : State := { s with cores := put s.cores k c }
def State.setLink (s : State) (k : Nat) (l : Link) : State := { s with links := put s.links k l }
def State.setStream (s : State) (k : Nat) (c : StreamCtx) : State := { s with streams := put s.streams k c }
def State.setQueue (s : State) (p q : Nat) (c : Queue) : State := { s with queues := put s.queues (64 * p + q) c }
def State.setLaunch (s : State) (k : Nat) (l : Launch) : State := { s with launches := put s.launches k l }
def State.setCtx (s : State) (k : Nat) (x : Ctx) : State := { s with ctxs := put s.ctxs k x }
def State.setPart (s : State) (k : Nat) (p : Part) : State := { s with parts := put s.parts k p }
def State.setPage (s : State) (k : Nat) (p : Page) : State := { s with pages := put s.pages k p }

/-- The state with a gang that exists changed. -/
def State.mapGang (s : State) (k : Nat) (f : Gang → Gang) : State := { s with gangs := upd s.gangs k f }

/-- The gang's context, partition and world. -/
def State.ctxOf (s : State) (g : Gang) : Nat := (s.group g.group).ctx
def State.partOf (s : State) (g : Gang) : Nat := (s.group g.group).part
def State.worldOf (s : State) (x : Nat) : Nat := (s.ctx x).world

/-- A fresh free value's number. -/
def State.tick1 (s : State) : State := { s with free := s.free + 1 }

/-- One member of a nonempty set that the manual leaves open (00 R9): the only member where there is just one. -/
def State.pick {α : Type} (s : State) (xs : List α) : Option α × State :=
  match xs with
  | [] => (none, s)
  | [x] => (some x, s)
  | x :: y :: r => ((x :: y :: r)[Config.choice s.free % (r.length + 2)]?, s.tick1)

/-! ### The address space (notes/assumptions/12.md, DESIGN CHOICE) -/

/-- Device HBM ends here (18 R374). -/
def hbmEnd : Nat := 0xC000000000
def peerBase : Nat := 2 ^ 50
def hostBase : Nat := 2 ^ 51
def physEnd : Nat := 2 ^ 52
def spadBase (grp : Nat) : Nat := 2 ^ 56 + grp * 2 ^ 24
def parkBase (grp : Nat) : Nat := spadBase grp + 0x200000
def bufBase (core : Nat) : Nat := 2 ^ 60 + core * 2 ^ 18

/-- Where this model holds a byte of another chip's block (log entry 13, DESIGN CHOICE), and the chip of such a place. -/
def peerFlat (chip blk off : Nat) : Nat := 2 ^ 62 + (chip * 2 ^ 32 + blk) * 2 ^ 32 + off
def peerOf (a : Nat) : Option Nat := if a ≥ 2 ^ 62 then some ((a - 2 ^ 62) / 2 ^ 64) else none

def isHost (a : Nat) : Bool := decide (hostBase ≤ a) && decide (a < physEnd)
def isPeer (a : Nat) : Bool := decide (peerBase ≤ a) && decide (a < hostBase)
def isHbm (a : Nat) : Bool := decide (a < hbmEnd)

/-- One byte of memory. -/
def State.byte (s : State) (a : Nat) : Byte := get Config.unwritten s.mem a

/-- The `n` bytes from an address on. -/
def State.bytes (s : State) (a n : Nat) : List Byte := (List.range n).map fun i => s.byte (a + i)

/-- The little-endian number that `n` bytes hold (00 R7). -/
def State.num (s : State) (a n : Nat) : Nat := fromBytes (s.bytes a n)

/-- The memory with one byte written; the canonical form lists no byte that reads as unwritten. -/
def writeByte (m : List Host.Cell) (a : Nat) (b : Byte) : List Host.Cell := set Config.unwritten m a b

/-- The memory with bytes written from an address on. -/
def writeBytes : (m : List Host.Cell) → (a : Nat) → List Byte → List Host.Cell
  | m, _, [] => m
  | m, a, b :: bs => writeBytes (writeByte m a b) (a + 1) bs

/-- The pages whose writing the page bitmaps note (18 R386). -/
def notePages (m : Store Bool) (a n : Nat) : Store Bool :=
  if n = 0 ∨ a < 2 ^ 56 ∨ a ≥ 2 ^ 62 then m
  else (List.range ((a + n - 1) / 4096 - a / 4096 + 1)).foldl (fun m i => set false m (a / 4096 + i) true) m

/-- The state with bytes written, poison aside. -/
def State.poke (s : State) (a : Nat) (bs : List Byte) : State :=
  { s with mem := writeBytes s.mem a bs, inked := notePages s.inked a bs.length }

/-- The size of the protection word at an address: 8 bytes of SRAM, 32 of HBM and peer memory; host memory has none, and
each of its bytes stands alone (20 R415, R416). -/
def protSize (a : Nat) : Nat := if a ≥ 2 ^ 62 then 32 else if a ≥ 2 ^ 56 then 8 else if isHost a then 1 else 32

/-- The first byte of the protection word that holds a byte. -/
def protAt (a : Nat) : Nat := a - a % protSize a

/-- The protection words that `n` bytes reach. -/
def protWords (a n : Nat) : List Nat :=
  if n = 0 then []
  else (List.range ((protAt (a + n - 1) - protAt a) / protSize a + 1)).map fun i => protAt a + i * protSize a

/-- The word is poisoned. -/
def State.isPoison (s : State) (w : Nat) : Bool := get false s.poison w

/-- The mark of a 64-bit word of HBM that a home slice holds poisoned in a dirty line (20 R415), beside those of the words of HBM. -/
def sliceMark (a : Nat) : Nat := 2 ^ 80 + (a - a % 8)

/-- The place and the size of the word that a mark of poison stands for. -/
def markPlace (w : Nat) : Nat := w % 2 ^ 80
def markSize (w : Nat) : Nat := if w ≥ 2 ^ 80 then 8 else protSize w

/-- The marks of poison that `n` bytes reach: of their protection words, and in HBM of the words that home slices hold. -/
def marks (a n : Nat) : List Nat :=
  protWords a n ++ (if isHbm a ∧ n ≠ 0 then (List.range ((a % 8 + n + 7) / 8)).map fun i => sliceMark (a + 8 * i) else [])

/-- Some byte of the range is poisoned. -/
def State.poisoned (s : State) (a n : Nat) : Bool := (marks a n).any s.isPoison

/-- The state with a protection word marked or cleared. -/
def State.markPoison (s : State) (w : Nat) (p : Bool) : State := { s with poison := set false s.poison w p }

/-- A store of `n` bytes would be partial over a poisoned word of the device's (07 R161). -/
def State.refusedByPoison (s : State) (a n : Nat) : Bool :=
  !isHost a && (marks a n).any fun w => s.isPoison w && !(decide (a ≤ markPlace w) && decide (markPlace w + markSize w ≤ a + n))

/-- The marks of the words that `n` bytes cover whole. -/
def coveredWords (a n : Nat) : List Nat :=
  (marks a n).filter fun w => decide (a ≤ markPlace w) && decide (markPlace w + markSize w ≤ a + n)

/-- A store: whole protection words become clean; a partial store over a poisoned word is not performed, which the
Boolean reports (07 R161). -/
def State.store (s : State) (a : Nat) (bs : List Byte) : State × Bool :=
  if s.refusedByPoison a bs.length then (s, true)
  else ((coveredWords a bs.length).foldl (fun s w => s.markPoison w false) (s.poke a bs), false)

/-- A store that cannot be refused because it writes whole words or host bytes. -/
def State.storeAll (s : State) (a : Nat) (bs : List Byte) : State := (s.store a bs).1

/-- Writes the low `n` bytes of a number. -/
def State.setNum (s : State) (a n x : Nat) : State := s.storeAll a (toBytes n x)

/-- A word written poisoned (20 R416): its bytes as given and every word it reaches marked. -/
def State.storePoisoned (s : State) (a : Nat) (bs : List Byte) : State :=
  (protWords a bs.length).foldl (fun s w => s.markPoison w true) (s.poke a bs)

/-! ### Who sees a write (chapter 14) -/

/-- Two ranges share a byte. -/
def overlaps (a n b k : Nat) : Bool := decide (a < b + k) && decide (b < a + n)

/-- The observer that is path `p` of core `c`: the core's gangs, or the engines of the path that work for them. -/
def seat (p c : Nat) : Nat := 256 * p + c % 256

/-- The agents that write on other paths than the core's: a stream context, a bulk copy, a drain by its ticket. -/
def streamAgent (h : Nat) : Nat := 4 * h + 1
def bulkAgent (b : Nat) : Nat := 4 * b + 2
def drainAgent (t : Nat) : Nat := 4 * t + 3

/-- The observers of a path, those of some cores on a path, and all of them. -/
def pathSeats (p : Nat) : Nat := (2 ^ 256 - 1) * 2 ^ (256 * p)
def coreSeats (p : Nat) (cs : List Nat) : Nat := cs.foldl (fun m c => Nat.lor m (2 ^ seat p c)) 0
def allSeats : Nat := 2 ^ 1536 - 1

/-- An observer does not see a write. -/
def Veil.hides (v : Veil) (o : Nat) : Bool := bit v.hid o

/-- The write touches a byte of a range. -/
def Veil.touches (v : Veil) (a n : Nat) : Bool := overlaps a n v.flat v.old.length

/-- What an observer still sees at a place: the byte before the oldest write that it does not see. -/
def veiled (o : Nat) (vs : List Veil) (a : Nat) : Option Byte :=
  vs.findSome? fun v => if v.hides o ∧ v.flat ≤ a then v.old[a - v.flat]? else none

/-- A byte, bytes and a number as a path of a core sees them (14 R315). -/
def State.pathByte (s : State) (p c a : Nat) : Byte := (veiled (seat p c) s.veils a).getD (s.byte a)
def State.pathBytes (s : State) (p c a n : Nat) : List Byte := (List.range n).map fun i => s.pathByte p c (a + i)
def State.pathNum (s : State) (p c a n : Nat) : Nat := fromBytes (s.pathBytes p c a n)

/-- The same as the core path of a gang sees them. -/
def State.coreByte (s : State) (gk a : Nat) : Byte := s.pathByte 0 (s.gang gk).core a
def State.coreBytes (s : State) (gk a n : Nat) : List Byte := (List.range n).map fun i => s.coreByte gk (a + i)
def State.coreNum (s : State) (gk a n : Nat) : Nat := fromBytes (s.coreBytes gk a n)

/-- Observers, named for each write, see it from now on, and with it the older writes to the same bytes (14 R321): the writes
left, and what has been shown, as ranges with observers. -/
def revealed (f : Veil → Nat) : List Veil → List Veil × List (Nat × Nat × Nat)
  | [] => ([], [])
  | v :: vs =>
    let (out, shown) := revealed f vs
    let m := shown.foldl (fun m r => if v.touches r.1 r.2.1 then Nat.lor m r.2.2 else m) (f v)
    let h := without v.hid m
    (if h = 0 then out else { v with hid := h } :: out, if m = 0 then shown else (v.flat, v.old.length, m) :: shown)

def State.reveal (s : State) (f : Veil → Nat) : State := { s with veils := (revealed f s.veils).1 }

/-- Every observer sees what has been written to a range. -/
def State.shown (s : State) (a n : Nat) : State := s.reveal fun v => if v.touches a n then allSeats else 0

/-- The first bytes of a write, in whole units (14 R311), are seen by every observer. -/
def Veil.show (v : Veil) (n : Nat) : Option Veil :=
  let n := ceilDiv n v.unit * v.unit
  if n ≥ v.old.length then none else some { v with flat := v.flat + n, old := v.old.drop n }

def State.showVeil (s : State) (k n : Nat) : State :=
  match s.veils[k]? with
  | none => s
  | some w =>
    let n := ceilDiv n w.unit * w.unit
    let t := ({ s with veils := s.veils.take k } : State).reveal fun v => if v.touches w.flat n then allSeats else 0
    { s with veils := t.veils ++ (w.show n).toList ++ s.veils.drop (k + 1) }

/-- The observers that a write of a path for a core may be kept from: every other path; for a core path every other core too. -/
def othersOf (p c : Nat) : Nat := without allSeats (if p = 0 then 2 ^ seat 0 c else pathSeats p)

/-- A write of an agent of a path to `n` bytes is about to be made for a gang: who sees it sees what it overwrites, and where the
act is set aside the other observers go on seeing the bytes as they are. No pass reads what a core path writes later. -/
def State.writingBy (s : State) (p agent gk unit a n : Nat) : State :=
  let g := s.gang gk
  let hid := if s.aside ∧ n ≠ 0 then othersOf p g.core else 0
  let s := s.reveal fun v => if v.touches a n then without allSeats hid else 0
  let s := if p = 0 then { s with rereads := [] } else s
  if hid = 0 then s
  else
    let v : Veil :=
      { path := p, agent := agent, gang := gk, core := g.core, group := g.group, hid := hid, flat := a, old := s.bytes a n, unit := unit }
    { s with veils := s.veils ++ [v] }

/-- The same for a core path, whose accesses of up to 8 bytes are whole (14 R311). -/
def State.writing (s : State) (gk a n : Nat) : State := s.writingBy 0 0 gk 8 a n

/-- The core paths that a scope reaches from a gang: its own core at .blk, those of its consort launch at .cns, all (14 R316). -/
def State.scopeSeats (s : State) (gk scope : Nat) : Nat :=
  match scope with
  | 0 => coreSeats 0 [(s.gang gk).core]
  | 1 => coreSeats 0 ((s.gang gk).core :: (s.group (s.gang gk).group).peers.map fun t => (s.group t).core)
  | _ => pathSeats 0

/-- A release of a gang at a scope: its stores, and what it has waited for, are visible there (07 R164, R175; 14 R318). -/
def State.released (s : State) (gk scope : Nat) : State :=
  s.reveal fun v => if (v.path = 0 ∧ v.gang = gk) ∨ v.carried.contains gk then s.scopeSeats gk scope else 0

/-- The gang's stores are visible at device scope: to every core path (07 R175; 14 R319). -/
def State.storesSeen (s : State) (gk : Nat) : State := s.released gk 2

/-- What the gang has written to `n` bytes is visible at device scope. -/
def State.rangeSeen (s : State) (gk a n : Nat) : State :=
  s.reveal fun v => if v.path = 0 ∧ v.gang = gk ∧ v.touches a n then pathSeats 0 else 0

/-- Changes what is noted of writes that some observers do not see. -/
def State.noteVeils (s : State) (p : Veil → Bool) (f : Veil → Veil) : State :=
  { s with veils := s.veils.map fun v => if p v then f v else v }

/-- A gang observes writes complete (07 R176). -/
def State.observes (s : State) (gk : Nat) (p : Veil → Bool) : State :=
  s.noteVeils p fun v => { v with known := gk :: v.known.erase gk }

/-- A gang reads places: what it has seen of other gangs' stores, every core path sees (14 R323, R324), and a completion record
that it reads tells of its copy (07 R176). -/
def State.readNear (s : State) (gk : Nat) (rs : List (Nat × Nat)) : State :=
  let o := seat 0 (s.gang gk).core
  (s.reveal fun v =>
    if v.path = 0 ∧ v.gang ≠ gk ∧ ¬ v.hides o ∧ rs.any fun r => v.touches r.1 r.2 then pathSeats 0 else 0).observes gk fun v =>
      v.records.any fun a => rs.any fun r => overlaps r.1 r.2 a 4

/-- An atomic of a gang reads a place at its point, as the last write left it: its core sees that, and every core path what
another gang stored (14 R321, R324). -/
def State.readPoint (s : State) (gk a n : Nat) : State :=
  s.reveal fun v =>
    if ¬ v.touches a n then 0 else if v.path = 0 ∧ v.gang ≠ gk then pathSeats 0 else 2 ^ seat 0 (s.gang gk).core

/-- Atomics make their write part, which every observer sees. -/
def State.finishHalves (s : State) (f : Half → Bool) : State :=
  (s.halves.filter f).foldl (fun s h => (s.shown h.flat h.bytes.length).storeAll h.flat h.bytes)
    { s with halves := s.halves.filter fun h => !f h }

/-- A place lies in a group's scratchpad or in its core's operand buffer. -/
def State.inGroup (s : State) (grp a : Nat) : Bool :=
  let b := bufBase (s.group grp).core
  (decide (spadBase grp ≤ a) && decide (a < spadBase grp + 2 ^ 24)) || (decide (b ≤ a) && decide (a < b + 2 ^ 18))

/-- The group of a barrier object, by its flat address. -/
def objGroup (a : Nat) : Nat := (a - 2 ^ 56) / 2 ^ 24

/-- A credit of a phase counts what an agent has written in the object's group since its last one (14 R315). -/
def State.noteCredit (s : State) (agent obj ph : Nat) : State :=
  s.noteVeils (fun v => v.agent == agent && v.phases.isEmpty && s.inGroup (objGroup obj) v.flat) fun v => { v with phases := [(obj, ph)] }

/-- A gang finds a phase complete (11 R245; 14 R315, R318): what its credits counted is visible to the core path and the matrix path of
the gang's core, observed complete, and carried by its releases. -/
def State.phaseSeen (s : State) (gk obj ph : Nat) : State :=
  let c := (s.gang gk).core
  let counts (v : Veil) : Bool := v.phases.contains (obj, ph)
  (s.reveal fun v => if counts v then Nat.lor (2 ^ seat 0 c) (2 ^ seat 3 c) else 0).noteVeils counts fun v =>
    { v with known := gk :: v.known.erase gk, carried := gk :: v.carried.erase gk }

/-- Later loads of the gang read no line that its core's load cache holds now (14 R318). -/
def State.refresh (s : State) (gk : Nat) : State :=
  s.mapGang gk fun g => { g with since := (s.core g.core).fills + 1 }

/-! ### Scratchpad addresses (07 R151) -/

/-- A scratchpad address reaches a place, or fails with a reason of R155. -/
inductive Place where
  | at_ (flat grp off : Nat)
  | bad (reason : Nat)
  deriving DecidableEq, Repr

/-- The group that a remote address names. -/
def Group.peer (g : Group) (i : Nat) : Option Nat := g.peers[i]?

/-- Where a scratchpad address of a group leads (07 R151; 10 R214). -/
def State.scratch (s : State) (grp sa : Nat) : Place :=
  let g := s.group grp
  let off := bits sa 0 21
  let remote := bit sa 23
  if sa / 2 ^ 24 ≠ 0 then .bad 4
  else if ¬ remote ∧ bits sa 21 2 ≠ 0 then .bad 5
  else if remote ∧ g.csize = 0 then .bad 5
  else
    match (if remote then (g.peer (bits sa 21 2)).filter (fun t => (s.group t).live) else some grp) with
    | none => .bad 5
    | some t =>
      let tg := s.group t
      if 0x180000 ≤ off ∧ off < 0x1C0000 then .at_ (bufBase tg.core + (off - 0x180000)) t off
      else if off < tg.spad * 65536 then .at_ (spadBase t + off) t off
      else .bad 4

/-- A range of a group's own scratchpad or the operand buffer (bit [23] clear): every byte lies in one of the two. -/
def State.localRange (s : State) (grp sa n : Nat) : Place :=
  if bit sa 23 ∧ sa < 2 ^ 24 then .bad 5
  else match s.scratch grp sa, s.scratch grp (sa + n - 1) with
    | .at_ a t o, .at_ b _ _ => if b = a + (n - 1) then .at_ a t o else .bad 4
    | .bad r, _ => .bad r
    | _, .bad _ => .bad 4

/-! ### Translation (18 R373 to R379; 19 R409, R410) -/

/-- The outcome of a translation: a physical address and the page's read-only mark; a page fault (malformed or not); or
an access violation with a reason of R155 and, for a provenance refusal, the page and its byte. -/
inductive Xl where
  | ok (pa : Nat) (ro : Bool)
  | miss (malformed : Bool)
  | deny (reason : Nat) (page : Nat) (prov : Nat)
  deriving DecidableEq, Repr

/-- The pages of the provenance table, a byte for each page of HBM (18 R378). -/
def tablePages : Nat := 192

/-- The provenance byte of a physical page (18 R378); the table itself lies in pages owned by world 63. Log entry 88,
DESIGN CHOICE. -/
def State.provOf (s : State) (pa : Nat) : Nat :=
  if s.chip.table ≤ pa / 65536 ∧ pa / 65536 < s.chip.table + tablePages then 63 * 4 + 1
  else (get (0 : Byte) s.prov (pa / 65536)).toNat

/-- A context of world `w` may hold a page with this byte (18 R379). -/
def provAllows (w prov : Nat) : Bool :=
  let st := prov % 4
  let pw := prov / 4
  if pw = 63 then false
  else st == 2 || (st == 1 && pw == w)

/-- What a page-table entry is (18 R373): absent, malformed, a next table, or a leaf with its page size. -/
inductive Pte where
  | absent | malformed
  | table (pa : Nat)
  | leaf (pa size : Nat) (ro : Bool)
  deriving DecidableEq, Repr

/-- Reads an entry at a level. -/
def pteOf (level e : Nat) : Pte :=
  let pa := bits e 16 36 * 65536
  let sz := bits e 6 2
  if bit e 0 = false then .absent
  else if bits e 52 12 ≠ 0 ∨ bits e 8 8 ≠ 0 ∨ bits e 3 2 ≠ 0 ∨ bit e 1 then .malformed
  else if bit e 2 then
    if level = 0 ∧ sz = 0 then .leaf pa 65536 (bit e 5)
    else if level = 0 ∧ sz = 1 ∧ pa % 2 ^ 21 = 0 then .leaf pa (2 ^ 21) (bit e 5)
    else if level = 1 ∧ sz = 2 ∧ pa % 2 ^ 30 = 0 then .leaf pa (2 ^ 30) (bit e 5)
    else .malformed
  else if level = 0 ∨ sz ≠ 0 ∨ bit e 5 then .malformed
  else .table pa

/-- The walk from a table at a level down (18 R373). -/
def State.walk (s : State) (va : Nat) : (level table : Nat) → Pte
  | level, table =>
    match level with
    | 0 => pteOf 0 (s.num (table + 8 * bits va 16 10) 8)
    | l + 1 =>
      match pteOf (l + 1) (s.num (table + 8 * bits va (16 + 10 * (l + 1)) 10) 8) with
      | .table pa => s.walk va l pa
      | p => p

/-- The first page of a mapped range that the provenance table refuses to a world. -/
def State.provRefusal (s : State) (w pa size : Nat) : Option Nat :=
  ((List.range (size / 65536)).find? fun i => !provAllows w (s.provOf (pa + 65536 * i))).map (pa + 65536 * ·)

/-- A walk with its provenance check, as a TLB fill makes it (18 R375, R379): the 64 KiB page that holds `va`. -/
def State.fill (s : State) (x va : Nat) : Xl :=
  let c := s.ctx x
  match s.walk va 3 c.root with
  | .absent => .miss false
  | .malformed => .miss true
  | .table _ => .miss true
  | .leaf pa size ro =>
    let page := pa + (va % size) / 65536 * 65536
    if isHbm page then
      match s.provRefusal c.world pa size with
      | some p => .deny 2 p (s.provOf p)
      | none => .ok page ro
    else if isPeer page ∨ isHost page then .ok page ro
    else .deny 2 page 0

/-- The large page of a translation shares a byte with `n` bytes of physical memory. -/
def Tlb.maps (t : Tlb) (a n : Nat) : Bool :=
  let base := t.pa - t.vpn * 65536 % t.size
  decide (a < base + t.size) && decide (base < a + n)

/-- A translation that a buffer holds. -/
def State.tlbAt (s : State) (u x vpn : Nat) : Option Tlb := (get [] s.tlb u).find? fun t => t.ctx == x && t.vpn == vpn

/-- The buffer of a die. Log entry 41, DEDUCED. -/
def dieTlb (die : Nat) : Nat := 1024 + die

/-- The translation that the first of some buffers holds for the unit whose own buffer leads the list. -/
def State.tlbHit (s : State) (us : List Nat) (x va : Nat) : Option Tlb :=
  us.findSome? fun u => (s.tlbAt u x (va / 65536)).filter fun t => !t.stale.contains (us.headD 0)

/-- The translation of a page from the buffers named, in order, or from a walk (18 R375). -/
def State.pageOf (s : State) (us : List Nat) (x va : Nat) : Xl :=
  match s.tlbHit us x va with
  | some t => .ok t.pa t.ro
  | none => s.fill x va

/-- The pages of 64 KiB that a range reaches. -/
def pagesOf (a n : Nat) : List Nat := (List.range ((a + n - 1) / 65536 - a / 65536 + 1)).map fun i => (a / 65536 + i) * 65536

/-- One second-stage entry allows a request (19 R410): the final physical address, or none. Log entry 95, DEDUCED. -/
def State.secondStage (s : State) (p blk off n world tier : Nat) (wr : Bool) : Option Nat :=
  let pt := s.part p
  if blk ≥ pt.sscount then none
  else
    let e := pt.sstab + 16 * blk
    let base := s.num e 8
    let limit := s.num (e + 8) 4
    let f := s.num (e + 12) 4
    let host := bit f 10
    if base / 2 ^ 52 ≠ 0 ∨ f / 2 ^ 11 ≠ 0 ∨ bit f 8 = false ∨ bits f 0 6 ≠ world ∨ off + n > limit ∨ base % 65536 ≠ 0 ∨ limit = 0
      ∨ (wr ∧ bit f 9) ∨ (tier = 0 ∧ host) ∨ (tier = 1 ∧ ¬ host) then none
    else
      let a := base + off
      if host then (if isHost a ∧ isHost (a + n - 1) then some a else none)
      else if isHbm a ∧ isHbm (a + n - 1) ∧ (pagesOf a n).all fun q => provAllows world (s.provOf q) then some a else none

/-- What a partition exchanges with the host is carried: the link is up and the TDI in RUN (19 R398, R399). -/
def Part.linked (p : Part) : Bool := p.up && p.tdi == .run

/-- The trusted group of a protected world holds the chip (19 R406). -/
def State.trusts (s : State) (world chip : Nat) : Bool := world == 0 || (get [] s.chip.trusted world).contains chip

/-- The place of an offset in a block of a chip (19 R409): this chip's own blocks resolve here; another chip serves the
request or not. -/
def State.blockPlace (s : State) (p chip blk off n world tier : Nat) (wr : Bool) : Option Nat :=
  if chip = s.chip.number then s.secondStage p blk off n world tier wr
  else if s.trusts world chip ∧ off + n ≤ Config.peerServes p chip blk world tier wr s.clock then some (peerFlat chip blk off)
  else none

/-- The place that a physical address of the peer window reaches. -/
def State.peerPlace (s : State) (p pa n world : Nat) (wr : Bool) : Option Nat :=
  s.blockPlace p (bits pa 38 12) (bits pa 16 22) (pa % 65536) n world 2 wr

/-- Translation of an access of `n` bytes for a context through some buffers (07 R150): a hit or a walk, then the
read-only mark, then the peer window. -/
def State.xlateBy (s : State) (us : List Nat) (x va n : Nat) (wr : Bool) : Xl :=
  if va ≥ 2 ^ 56 then .deny 1 0 0
  else
    match s.pageOf us x va with
    | .ok page ro =>
      if wr ∧ ro then .deny 3 0 0
      else
        let pa := page + va % 65536
        if isPeer pa then
          match s.peerPlace (s.ctx x).part pa n (s.ctx x).world wr with
          | some a => .ok a ro
          | none => .deny 2 page 0
        else .ok pa ro
    | e => e

/-- Translation by a core, and by an engine of a die. -/
def State.xlate (s : State) (core x va n : Nat) (wr : Bool) : Xl := s.xlateBy [core, dieTlb (core / 64)] x va n wr
def State.engXl (s : State) (die x va n : Nat) (wr : Bool) : Xl := s.xlateBy [dieTlb die] x va n wr

/-- The page size that a translation has: as a buffer holds it, or as a walk finds it. -/
def State.pageSize (s : State) (us : List Nat) (x va : Nat) : Nat :=
  match s.tlbHit us x va with
  | some t => t.size
  | none => match s.walk va 3 (s.ctx x).root with
    | .leaf _ size _ => size
    | _ => 65536

/-- A buffer with the translation of `va` held, up to its size (18 R375); one that a core uses no more gives way. -/
def State.hold (s : State) (u x va page : Nat) (ro : Bool) (size : Nat) : State :=
  if ((s.tlbAt u x (va / 65536)).filter fun t => t.stale.isEmpty).isSome then s
  else
    let t : Tlb := { ctx := x, vpn := va / 65536, pa := page, ro := ro, size := size }
    let rest := (get [] s.tlb u).filter fun t => !(t.ctx == x && t.vpn == va / 65536)
    { s with tlb := put s.tlb u ((t :: rest).take (if u ≥ 1024 then 8192 else 256)) }

/-- The buffers hold the translation that an access of a core makes. -/
def State.fillTlb (s : State) (core x va : Nat) : State :=
  match s.pageOf [core, dieTlb (core / 64)] x va with
  | .ok page ro =>
    let size := s.pageSize [core, dieTlb (core / 64)] x va
    (s.hold (dieTlb (core / 64)) x va page ro size).hold core x va page ro size
  | _ => s

/-! ### Causes and faults (01 R38; 07 R155) -/

def cIllInstr : Nat := 0x01
def cIllOp : Nat := 0x02
def cIllType : Nat := 0x03
def cIllRnd : Nat := 0x04
def cPriv : Nat := 0x05
def cUniform : Nat := 0x06
def cQueue : Nat := 0x07
def cResid : Nat := 0x08
def cSpill : Nat := 0x09
def cFill : Nat := 0x0A
def cEmpty : Nat := 0x0B
def cFp : Nat := 0x10
def cTrap : Nat := 0x11
def cBkpt : Nat := 0x12
def cPage : Nat := 0x20
def cAccess : Nat := 0x21
def cAlign : Nat := 0x22
def cAbsent : Nat := 0x23
def cIndex : Nat := 0x24
def cOverrun : Nat := 0x28
def cPhase : Nat := 0x29
def cFormat : Nat := 0x2A
def cDeferred : Nat := 0x30
def cPoison : Nat := 0x31
def cIntegrity : Nat := 0x32

/-- The causes whose handler is the supervisor's. -/
def supCause (c : Nat) : Bool := [cPriv, cSpill, cFill, cAccess, cDeferred, cPoison, cIntegrity].contains c

/-- sys.taux of a memory cause (07 R155). -/
def memAux (reason addr : Nat) : W64 := w64 (reason * 2 ^ 56 + addr % 2 ^ 56)

/-- sys.taux of illegal-operand (03 R76). -/
def opAux (field num : Nat) : W64 := w64 (field + num % 128 * 2 ^ 8)

/-- One failing lane or instruction: the cause, sys.taux, and for a page fault or refusal what its record says. -/
structure Flt where
  code : Nat := 0
  aux : W64 := 0
  va : Nat := 0
  kind : Nat := 0
  malformed : Bool := false
  page : Nat := 0
  prov : Nat := 0
  deriving DecidableEq, Repr

/-- The failure that a translation gives at an address; `kind` is 0 read, 1 write, 2 fetch, 3 atomic (18 R377). -/
def xlFlt (va kind : Nat) : Xl → Option Flt
  | .ok _ _ => none
  | .miss m => some { code := cPage, aux := memAux 0 va, va := va, kind := kind, malformed := m }
  | .deny r p b => some { code := cAccess, aux := memAux r va, va := va, kind := kind, page := p, prov := b }

/-- An access violation at a scratchpad address. -/
def scratchFlt (sa reason : Nat) : Flt := { code := cAccess, aux := memAux reason sa, va := sa }

/-- A misaligned access. -/
def alignFlt (a : Nat) : Flt := { code := cAlign, aux := memAux 0 a, va := a }

/-! ### Fault records (18 R376, R377) -/

/-- The 128 bytes of a record. A protected world's kinds 1, 2, 3 and 8 name no page offset and no agent. -/
def State.recordBytes (s : State) (seq : Nat) (r : FaultRec) : List Byte :=
  let w := s.worldOf r.ctx
  let hide := w ≠ 0 ∧ (r.kind = 1 ∨ r.kind = 2 ∨ r.kind = 3 ∨ r.kind = 8)
  let g := s.gang (r.gang.getD 0)
  let agent := decide (r.gang.isSome ∧ ¬ hide)
  toBytes 4 (r.kind + r.ctx * 2 ^ 8 + w * 2 ^ 16) ++ toBytes 4 seq
    ++ (if agent then toBytes 4 (g.core + g.sched.slot * 2 ^ 16 + g.gangid * 2 ^ 24) ++ toBytes 4 (s.group g.group).groupid
        else toBytes 8 0)
    ++ toBytes 8 (if hide then r.addr / 65536 * 65536 else r.addr) ++ toBytes 8 r.detail
    ++ ((List.range 8).flatMap fun i => toBytes 8 ((r.pcs[i]?).getD 0).toNat)
    ++ toBytes 4 (r.gstate + r.gcause * 16) ++ toBytes 28 0

/-- The ring has room for a record: a legal header (18 R376) and fewer records than slots. -/
def State.ringRoom (s : State) (p : Nat) : Bool :=
  let h := hostBase + (s.part p).fring
  let ls := s.num (h + 8) 4
  let clean := (s.bytes (h + 0x10) 0x30).all (· == 0)
  decide (4 ≤ ls) && decide (ls ≤ 15) && clean && decide ((s.num h 4 + 2 ^ 32 - s.num (h + 4) 4) % 2 ^ 32 < 2 ^ ls)
    && (s.part p).linked

/-- Writes a record into its slot and advances prod; the record is then outstanding under its seq. -/
def State.writeRecord (s : State) (p : Nat) (r : FaultRec) : State :=
  let h := hostBase + (s.part p).fring
  let seq := s.num h 4
  let slot := h + 64 + 128 * (seq % 2 ^ (s.num (h + 8) 4))
  let s := (s.storeAll slot (s.recordBytes seq r)).setNum h 4 (seq + 1)
  let pt := s.part p
  s.setPart p { pt with faults := put pt.faults seq r }

/-- Records that wait are written while there is room. -/
def State.writeWaiting (s : State) (p : Nat) : (fuel : Nat) → State
  | 0 => s
  | n + 1 =>
    let pt := s.part p
    match pt.waiting with
    | r :: rest => if s.ringRoom p then State.writeWaiting ((s.setPart p { pt with waiting := rest }).writeRecord p r) p n else s
    | [] => s

/-- A hang record is written where the ring has room, and is dropped and counted otherwise (18 R376). -/
def State.writeHang (s : State) (p : Nat) (r : FaultRec) : State :=
  if s.ringRoom p then s.writeRecord p r
  else
    let h := hostBase + (s.part p).fring
    s.setNum (h + 0xC) 4 (s.num (h + 0xC) 4 + 1)

/-- The ring is served: records that wait are written while there is room, and after them hang records that waited for the link. -/
def State.serveRing (s : State) (p : Nat) : State :=
  let s := s.writeWaiting p (s.part p).waiting.length
  let pt := s.part p
  if pt.waiting.isEmpty ∧ pt.linked then pt.hangs.foldl (fun s r => s.writeHang p r) (s.setPart p { pt with hangs := [] }) else s

/-- The seq that the next record gets, behind those that wait (18 R376). -/
def State.nextSeq (s : State) (p : Nat) : Nat :=
  let s := s.serveRing p
  (s.num (hostBase + (s.part p).fring) 4 + (s.part p).waiting.length) % 2 ^ 32

/-- Posts a record, after those that wait: written where the ring has room; a hang record is dropped and counted otherwise, but waits
while the link is down (19 R399); any other waits. -/
def State.postRecord (s : State) (p : Nat) (r : FaultRec) : State :=
  let s := s.serveRing p
  let pt := s.part p
  if r.kind = 4 then (if pt.linked then s.writeHang p r else s.setPart p { pt with hangs := pt.hangs ++ [r] })
  else if s.ringRoom p then s.writeRecord p r
  else s.setPart p { pt with waiting := pt.waiting ++ [r] }

/-- A record of a gang waits for room; the gang stays parked until it is written (18 R376). -/
def State.recordWaits (s : State) (gk : Nat) : Bool :=
  (s.part (s.partOf (s.gang gk))).waiting.any fun r => r.gang == some gk

/-- The same of a stream context, of a bulk copy, and of the launcher for a queue. -/
def State.streamParked (s : State) (p h : Nat) : Bool := (s.part p).waiting.any fun r => r.stream == some h
def State.bulkParked (s : State) (p b : Nat) : Bool := (s.part p).waiting.any fun r => r.bulk == some b
def State.queueParked (s : State) (p q : Nat) : Bool := (s.part p).waiting.any fun r => r.queue == some q

/-- The program counters of a gang's slices (18 R376). Log entry 37, DEDUCED. -/
def Gang.pcs (g : Gang) : List W64 := g.slices.map (·.pc)

/-- The record of a page fault or provenance refusal of a gang (18 R377). -/
def State.postMemFault (s : State) (gk : Nat) (f : Flt) : State :=
  let g := s.gang gk
  let p := s.partOf g
  let x := s.ctxOf g
  if f.code = cPage then
    s.postRecord p { kind := 1, ctx := x, gang := some gk, addr := f.va, detail := f.kind + b2n f.malformed * 4 }
  else if f.code = cAccess ∧ bits f.aux.toNat 56 4 = 2 then
    s.postRecord p { kind := 3, ctx := x, gang := some gk, addr := f.page, detail := f.prov }
  else s

/-! ### Gang registers that traps and issue touch -/

/-- Slice `i` of a gang. -/
def Gang.slice (g : Gang) (i : Nat) : Slice := g.slices[i]?.getD {}

/-- The gang with the slices of a list changed. -/
def Gang.onSlices (g : Gang) (ss : List Nat) (f : Nat → Slice → Slice) : Gang :=
  { g with slices := g.slices.mapIdx fun i x => if ss.contains i then f i x else x }

/-- The present lanes (01 R13). -/
def Gang.present (g : Gang) : Mask := maskOf fun l => decide (l / 4 < g.nslices)

/-- The slices of one cohort that run: not waiting, not held, with a lane on their path. -/
def Gang.cohortSlices (g : Gang) (c : Nat) : List Nat :=
  those g.slices.length fun i => (g.slice i).cohort == c

/-- A slice is able to issue. -/
def Gang.runs (g : Gang) (i : Nat) : Bool :=
  (g.slice i).wait.isNone && (g.slice i).held == 0 && decide (g.path &&& sliceMask i ≠ 0)

/-- A cohort number that no slice uses. -/
def Gang.freshCohort (g : Gang) : Nat := g.slices.foldl (fun n x => Nat.max n (x.cohort + 1)) 0

/-- The address part of a program counter, and the one that follows (03 R67, R82). -/
def pcAddr (pc : W64) : Nat := bits pc.toNat 0 56
def pcIdx (pc : W64) : Nat := bits pc.toNat 58 6
def pcMake (addr idx : Nat) : W64 := w64 (addr % 2 ^ 56 + idx % 64 * 2 ^ 58)

/-- A program counter that software gives: its bits [57:56] and [1:0] are zero (03 R67, R82). -/
def pcLegal (pc : W64) : W64 := pcMake (pcAddr pc / 4 * 4) (pcIdx pc)
def pcNext (pc : W64) : W64 := pcMake (pcAddr pc + 4) 0

/-! ### Stopping a context (18 R383) -/

/-- Every gang of a context. -/
def State.ctxGangs (s : State) (x : Nat) : List Nat :=
  (s.gangs.filter fun p => p.2.live && s.ctxOf p.2 == x).map Prod.fst

/-- Every gang of a context stops, being at an instruction boundary. -/
def State.stopGangs (s : State) (x : Nat) : State :=
  { s with gangs := mapVals (fun _ g => if s.ctxOf g == x then { g with stopped := true } else g) s.gangs }

/-- Starts a stop: the gangs stop at once; what was already issued completes. A failed context stays failed (R372). Log entry
89, DEDUCED. -/
def State.stopCtx (s : State) (x : Nat) (halting : Bool) : State :=
  let c := s.ctx x
  match c.state with
  | .resident => (s.stopGangs x).setCtx x { c with state := .stopping, halting := halting, quietFor := 0 }
  | .stopping => s.setCtx x { c with halting := c.halting || halting }
  | .quiescent => if halting then s.setCtx x { c with state := .halted, halting := true } else s
  | .failed => s.stopGangs x
  | .halted | .saved | .none => s

/-- The gang's context has come to rest: nothing of it changes any more (R384). -/
def State.still (s : State) (gk : Nat) : Bool :=
  let st := (s.ctx (s.ctxOf (s.gang gk))).state
  st == .quiescent || st == .halted

/-! ### Taking a trap (05 R140 to R142; 01 R38 to R40) -/

/-- The handler that a cause reaches from the gang's level (01 R38, R39; 05 R139, R142): true for the supervisor's. -/
def Gang.toSup (g : Gang) (t : Trap) : Bool :=
  t.sup || supCause t.code || decide (g.level = 1) || g.userH || decide (g.sys.utvec = 0)

/-- The visible frame (05 R140 step 3). -/
def trapFrame (g : Gang) (ss : List Nat) (t : Trap) (sup : Bool) : Frame :=
  { tpc := t.tpc, taux := t.aux, tcause := w32 (t.code + b2n t.deferred * 256 + b2n sup * 512), tmask := t.tmask,
    tdone := t.tdone, tmode := (g.slice (ss.headD 0)).mode }

/-- Entry to a handler: the frame, the hidden frame of its level, MODE 0, the program counter at the vector, the other
cohorts held, and at the supervisor's a fresh shadow (05 R140; 01 R39): `epoch` numbers its open choices among `cands`.
A slice of the cohort that waits in JWAIT or REGANG waits no longer, and TRET executes the JWAIT or REGANG again (log entry
85, DEDUCED). TRET from the handler of an integrity fault stops the gang (18 R382). A trap inside the supervisor's handler leaves
what the outer one holds: its cohorts and the level trapped from. Log entry 29, DEDUCED. -/
def Gang.enter (g : Gang) (ss : List Nat) (t : Trap) (sup : Bool) (vec : W64) (epoch : Nat) (cands : List W32) : Gang :=
  let path := g.path &&& slicesMask ss
  let inner := sup && g.supH
  let nest := g.nest + b2n inner
  let hid : Hidden :=
    { path := path, resume := t.resume, slices := ss, fromLevel := if inner then g.hidSup.fromLevel else g.level, deferred := t.deferred, store := t.store }
  let g : Gang := { g with
    frame := trapFrame g ss t sup
    slices := g.slices.mapIdx fun i x =>
      if ss.contains i then
        { x with mode := 0, pc := pcMake (pcAddr vec / 4 * 4) 0, rep := none, reexec := none, stall := none, wait := none }
      else if x.held = 0 then { x with held := if sup then 2 + nest else 1 } else x
    page := none }
  if sup then
    { g with level := 1, supH := true, nest := nest, hidSup := hid, failed := g.failed || decide (t.code = cIntegrity)
             regs := { g.regs with
               shadow := { epoch := epoch, cands := cands }
               pend := mapVals (fun r p => if 96 ≤ r then { p with on := false, tag := (p.tag + 1) % 64 } else p) g.regs.pend } }
  else { g with userH := true, hidUser := hid }

/-- The value of sys.stvec that a trap finds: within 800 cycles of a write the new or an older one (01 R40).
Log entry 35, DEDUCED. -/
def State.stvecNow (s : State) (p : Nat) : W64 × State :=
  let pt := s.part p
  let old := (pt.stvecOld.filter fun o => decide (s.clock < o.1 + 800)).map (·.2)
  let (x, s) := s.pick ((pt.stvec :: old).eraseDups)
  (x.getD pt.stvec, s)

/-- The values that a shadow register may hold at a gang's handler entry, zero aside (01 R39): what registers of gangs of its
context have held on its core. -/
def State.shadowCands (s : State) (gk : Nat) : List W32 :=
  let g := s.gang gk
  (s.core g.core).seen
    ++ (s.gangs.filter fun p => p.2.core == g.core && s.ctxOf p.2 == s.ctxOf g).flatMap fun p => vals p.2.regs.vec ++ p.2.regs.seen

/-- Takes a trap in a gang, on the cohort of slices `ss`. A trap to the supervisor while sys.stvec is 0 stops the context
as HALT does and posts a kind 7 record (01 R40). A window trap takes the gang out of the active set (10 R219). -/
def State.trap (s : State) (gk : Nat) (ss : List Nat) (t : Trap) : State :=
  let g := s.gang gk
  let sup := g.toSup t
  let p := s.partOf g
  let (stvec, s) : W64 × State := if sup then s.stvecNow p else (0, s)
  if sup ∧ stvec = 0 then
    let s := s.stopCtx (s.ctxOf g) true
    let r : FaultRec :=
      { kind := 7, ctx := s.ctxOf g, gang := some gk, addr := t.tpc.toNat, pcs := g.pcs
        detail := t.code + b2n t.deferred * 256 }
    s.postRecord p r
  else
    let vec := if sup then stvec else g.sys.utvec
    let g := g.enter ss t sup vec s.free (if sup then s.shadowCands gk else [])
    let window := decide (t.code = cSpill) || decide (t.code = cFill)
    let g := if window then { g with sched := { g.sched with active := false, park := some .window, outside := 0 } } else g
    (s.setGang gk g).tick1

/-- Parks a gang on a page fault (07 R154; 18 R377): the record is posted and the slices re-execute in `lanes` when the
host resumes. A memory instruction's fault also writes sys.tdone, sys.tmask, the cause and sys.taux (R154; log entry 25, DEDUCED). Log entry 18, DEDUCED. -/
def State.parkPage (s : State) (gk : Nat) (ss : List Nat) (lanes : Mask) (f : Flt) (e : Option Entry) (outside : Bool)
    (frame : Option Frame) : State :=
  let g := s.gang gk
  let seq := s.nextSeq (s.partOf g)
  let g : Gang := { g with
    frame := match frame with
      | some f => { g.frame with taux := f.taux, tcause := f.tcause, tmask := f.tmask, tdone := f.tdone }
      | none => g.frame
    page := some { seq := seq, slices := ss, lanes := lanes, entry := e, outside := outside }
    sched := { g.sched with park := some .page, active := false, outside := 0 } }
  (s.setGang gk g).postMemFault gk f

/-- The trap that a gang owes is taken once its record has been written (18 R376). -/
def State.settleOwed (s : State) (gk : Nat) : State :=
  match (s.gang gk).owed with
  | some (ss, t) => if s.recordWaits gk then s else (s.mapGang gk fun g => { g with owed := none }).trap gk ss t
  | none => s

def State.settleAllOwed (s : State) : State :=
  ((s.gangs.filter fun p => p.2.owed.isSome).map Prod.fst).foldl State.settleOwed s

/-- What follows a failing instruction (07 R154): a page fault parks, any other cause traps, after its record (18 R376). -/
def State.fail (s : State) (gk : Nat) (ss : List Nat) (f : Flt) (tmask tdone : Mask) (tpc : W64) (store : Option Nat := none) :
    State :=
  let t : Trap := { code := f.code, aux := f.aux, tmask := tmask, tdone := tdone, tpc := tpc, store := store }
  if f.code = cPage then s.parkPage gk ss tmask f none true (some (trapFrame (s.gang gk) ss t false))
  else
    let s := s.postMemFault gk f
    if s.recordWaits gk then s.mapGang gk fun g => { g with owed := some (ss, t) } else s.trap gk ss t

/-! ### Returning from a trap (05 R143) -/

/-- A store whose lanes failed at issue keeps those that TRET re-executes, at its own address, and gives up the others
(05 R143; 07 R162). -/
def SqEntry.resolve (q : SqEntry) (id : Option Nat) (re : Bool) (f : Frame) : SqEntry :=
  if id = some q.entry.id then
    let left := if re ∧ f.tpc = q.entry.addr then (q.fault.getD 0) &&& f.tmask else 0
    { q with fault := if left = 0 then none else some left }
  else q

/-- A rejoin register without some lanes: they are neither parked nor pending in it. -/
def Rejoin.without (r : Rejoin) (m : Mask) : Rejoin :=
  { r with parked := r.parked &&& ~~~m
           paths := (r.paths.map fun p => { p with mask := p.mask &&& ~~~m }).filter fun p => decide (p.mask ≠ 0) }

/-- The slices of the interrupted path resume as one cohort at `pc` with the saved MODE and path; the handler's cohorts
are gone, with what it left of these lanes in rejoin registers, so that each lane has one place (05 R121; log entry 97, DEDUCED);
the cohorts that the trap holds are released. From a trap inside the supervisor's handler the gang is still in the outer one. -/
def Gang.leave (g : Gang) (sup : Bool) : Gang :=
  let hid := if sup then g.hidSup else g.hidUser
  let f := g.frame
  let deferred := f.tcause.getLsbD 8
  let c := g.freshCohort
  let pc := if deferred then hid.resume else pcLegal f.tpc
  let re := if deferred ∨ f.tmask = 0 then none else some f.tmask
  let inner := sup && decide (0 < g.nest)
  let back := hid.path &&& ~~~g.exited
  let g : Gang := { g with
    slices := g.slices.mapIdx fun i x =>
      if hid.slices.contains i then
        { x with mode := f.tmode &&& 0x7FFFFFFF#32, pc := pc, rep := none, cohort := c, reexec := re, stall := none, wait := none, held := 0 }
      else if x.held = (if sup then 2 + g.nest else 1) then { x with held := 0 } else x
    path := (g.path &&& ~~~(slicesMask hid.slices)) ||| back
    rejoin := mapVals (fun _ r => r.without back) g.rejoin
    level := if inner then 1 else if sup then hid.fromLevel else g.level
    nest := if inner then g.nest - 1 else g.nest
    supH := if sup then inner else g.supH
    userH := if sup then g.userH else false
    work := { g.work with stores := g.work.stores.map fun q => q.resolve hid.store (¬ deferred) f } }
  if deferred then
    match g.work.faulted with
    | some (e, _, o) => { g with work := { g.work with faulted := some (e, f.tmask, o) } }
    | none => g
  else g

/-! ### Barrier objects (11 R240 to R242) -/

/-- The 64 bytes of a barrier object. -/
structure Bar where
  gen : Nat := 0
  base : Nat := 0
  flt : Nat := 0
  finfo : List Nat := [0, 0, 0, 0]
  xarr : List Nat := [0, 0, 0, 0]
  arr : List Nat := [0, 0, 0, 0]
  xbytes : List Nat := [0, 0, 0, 0]
  landed : List Nat := [0, 0, 0, 0]
  deriving DecidableEq, Repr

def four (f : Nat → Nat) : List Nat := [f 0, f 1, f 2, f 3]
def nth (xs : List Nat) (i : Nat) : Nat := xs[i]?.getD 0

/-- Reads an object at a flat address. -/
def State.bar (s : State) (a : Nat) : Bar :=
  { gen := s.num a 4, base := s.num (a + 4) 2, flt := bits (s.num (a + 6) 2) 0 4, finfo := four fun i => s.num (a + 8 + 2 * i) 2,
    xarr := four fun i => s.num (a + 0x10 + 12 * i) 2, arr := four fun i => s.num (a + 0x12 + 12 * i) 2,
    xbytes := four fun i => s.num (a + 0x14 + 12 * i) 4, landed := four fun i => s.num (a + 0x18 + 12 * i) 4 }

/-- The bytes of an object. -/
def Bar.bytes (b : Bar) : List Byte :=
  toBytes 4 b.gen ++ toBytes 4 (b.base % 65536 + b.flt % 16 * 65536)
    ++ ((List.range 4).flatMap fun i => toBytes 2 (nth b.finfo i))
    ++ ((List.range 4).flatMap fun i => toBytes 2 (nth b.xarr i) ++ toBytes 2 (nth b.arr i) ++ toBytes 4 (nth b.xbytes i)
        ++ toBytes 4 (nth b.landed i))

/-- What BINIT writes (11 R243). -/
def Bar.init (base : Nat) : Bar := { base := base, xarr := [base, base, base, base] }

/-- The distance of a phase from the generation: complete at `2^31` and beyond, open below 4 (11 R241). -/
def Bar.dist (b : Bar) (n : Nat) : Nat := (n + 2 ^ 32 - b.gen) % 2 ^ 32
def Bar.complete (b : Bar) (n : Nat) : Bool := decide (b.dist n ≥ 2 ^ 31)
def Bar.isOpen (b : Bar) (n : Nat) : Bool := decide (b.dist n < 4)
def Bar.faulty (b : Bar) (sl : Nat) : Bool := bit b.flt sl

/-- The object with slot `sl` marked faulted. -/
def Bar.mark (b : Bar) (sl info : Nat) : Bar :=
  { b with flt := Nat.lor b.flt (2 ^ sl), finfo := b.finfo.set sl info }

/-- One turn of Advance: the phase completes, or the object stands. -/
def Bar.turn (b : Bar) : Bar × Bool :=
  let i := b.gen % 4
  if b.faulty i then (b, false)
  else if nth b.xarr i = 0 then (b, false)
  else if nth b.arr i = nth b.xarr i ∧ nth b.landed i = nth b.xbytes i then
    ({ b with gen := (b.gen + 1) % 2 ^ 32, xarr := b.xarr.set i b.base, arr := b.arr.set i 0, xbytes := b.xbytes.set i 0,
              landed := b.landed.set i 0, flt := b.flt - b2n (bit b.flt i) * 2 ^ i, finfo := b.finfo.set i 0 }, true)
  else if nth b.arr i = nth b.xarr i ∧ nth b.landed i > nth b.xbytes i then (b.mark i (0x0E + 2 ^ 14), false)
  else (b, false)

/-- Advance (11 R241). -/
def Bar.advance : (fuel : Nat) → Bar → Bar
  | 0, b => b
  | n + 1, b => match b.turn with
    | (b', true) => Bar.advance n b'
    | (b', false) => b'

/-- The completed phases never exceed the slots, so five turns suffice. -/
def Bar.settle (b : Bar) : Bar := b.advance 8

/-- An arrival (11 R242), or none for an overrun. -/
def Bar.arrive (b : Bar) (n : Nat) : Option Bar :=
  let i := n % 4
  if b.isOpen n ∧ nth b.arr i < nth b.xarr i then some ({ b with arr := b.arr.set i (nth b.arr i + 1) }).settle else none

/-- Expected bytes (11 R243), or none for an overrun. -/
def Bar.expect (b : Bar) (n k : Nat) : Option Bar :=
  let i := n % 4
  if b.isOpen n then some ({ b with xbytes := b.xbytes.set i ((nth b.xbytes i + k) % 2 ^ 32) }).settle else none

/-- A credit to an open phase (11 R242). -/
def Bar.credit (b : Bar) (n k : Nat) : Bar :=
  let i := n % 4
  ({ b with landed := b.landed.set i ((nth b.landed i + k) % 2 ^ 32) }).settle

/-- The lowest faulted phase from the generation to an open phase (R244). -/
def Bar.faultTo (b : Bar) (n : Nat) : Option Nat :=
  ((List.range (b.dist n + 1)).map fun k => (b.gen + k) % 2 ^ 32).find? fun m => b.faulty (m % 4)

/-- A wait for phase `n` ends: it is complete, out of reach, or faulted before (11 R244). -/
def Bar.released (b : Bar) (n : Nat) : Bool := b.complete n || !b.isOpen n || (b.faultTo n).isSome

/-- What a barrier operation or a credit leaves of an object: its bytes, and whoever waits for a phase of it tests it again
(11 R240). -/
def State.writeBar (s : State) (a : Nat) (b : Bar) : State :=
  let s := s.storeAll a b.bytes
  let retest (x : Slice) : Slice :=
    match x.stall with
    | some (.phase f n t) => if f = a then { x with stall := some (.phase f n (t || b.released n)) } else x
    | _ => x
  { s with gangs := mapVals (fun _ (g : Gang) => { g with slices := g.slices.map retest }) s.gangs }

/-- Writes an object of which phases may have completed; a completion of the group barrier's frees the uniform registers'
owners and ends the span (01 R23, R24). -/
def State.setBar (s : State) (a : Nat) (b : Bar) : State :=
  let old := (s.bar a).gen
  let s := s.writeBar a b
  if a ≥ 2 ^ 56 ∧ a < 2 ^ 60 ∧ a % 2 ^ 24 = 0 ∧ b.gen ≠ old then
    let k := (a - 2 ^ 56) / 2 ^ 24
    let g := s.group k
    let s := s.setGroup k { g with owner := [], span := [] }
    { s with gangs := mapVals (fun _ x => if x.group = k then { x with lastRead := [] } else x) s.gangs }
  else s

/-! ### Error records and posted faults (20 R417, R418, R420; 05 R438, R439) -/

/-- What a record tells of an address: of a protected world's only the page of 64 KiB, and no virtual address in the detail of kind 4
(20 R420; the ticket of kind 5 is no address). Log entry 109, DEDUCED. -/
def shownPlace (kind world pa detail : Nat) : Nat × Nat :=
  if world = 0 ∨ world = 255 ∨ kind = 5 then (pa, detail)
  else (pa - pa % 65536, if kind = 4 then detail / 2 ^ 56 * 2 ^ 56 else detail)

/-- Closes an error record; at most 8 are held, and the oldest is discarded into the gap (20 R420; 19 R414). -/
def State.logError (s : State) (kind : Nat) (owner : Option (Nat × Nat × Nat)) (unit pa detail : Nat) : State :=
  let c := s.chip
  let (pa, detail) := shownPlace kind ((owner.map (·.2.1)).getD 255) pa detail
  let r : ErrRec :=
    { kind := kind, serial := c.serial, clock := s.clock, unit := unit, pa := pa, detail := detail
      part := (owner.map (·.1)).getD 255, world := (owner.map (·.2.1)).getD 255, ctx := (owner.map (·.2.2)).getD 255 }
  let all := c.errors ++ [r]
  let over8 := decide (all.length > 8)
  { s with chip := { c with serial := c.serial + 1, errors := if over8 then all.drop 1 else all, egap := c.egap + b2n over8 } }

/-- The partition, world and context of a gang. -/
def State.owner (s : State) (gk : Nat) : Option (Nat × Nat × Nat) :=
  let g := s.gang gk
  some (s.partOf g, s.worldOf (s.ctxOf g), s.ctxOf g)

/-- An error record whose unit the manual does not name. -/
def State.logAnywhere (s : State) (kind gk pa detail : Nat) : State :=
  (s.logError kind (s.owner gk) (Config.errorUnit s.free) pa detail).tick1

/-- The lanes of the gang that have not exited. -/
def Gang.unexited (g : Gang) : Mask := g.present &&& ~~~g.exited

/-- A captured or issued access that will not be performed leaves its queue and its count (05 R439). -/
def Gang.abandon (g : Gang) (e : Entry) : Gang :=
  let cls := (desc e.instr).cnt
  { g with
    work := { g.work with stores := g.work.stores.filter fun q => q.entry.id != e.id }
    counts := if cls = 1 then { g.counts with loads := g.counts.loads - 1 }
      else if cls = 2 then { g.counts with stores := g.counts.stores - 1 } else g.counts }

/-- sys.taux of a posted fault: a deferred memory error carries how many more it stands for (20 R418). -/
def Posted.taux (p : Posted) : W64 :=
  if p.code = cDeferred ∧ p.entry.isNone then w64 (p.aux.toNat % 2 ^ 60 + p.more * 2 ^ 60) else p.aux

/-- An entry whose fault is not taken now stands in its queue again, with the lanes that have not completed (10 R230). -/
def Gang.requeue (g : Gang) (p : Posted) : Gang :=
  match p.entry with
  | none => g
  | some e =>
    let e : Entry := { e with lanes := p.tmask, waits := [], guardPend := false }
    if (desc e.instr).cnt = 2 then
      { g with work := { g.work with stores := g.work.stores.map fun q =>
          if q.entry.id = e.id then { q with fault := none, entry := { q.entry with lanes := p.tmask } } else q } }
    else if p.outside then
      let d : Deliv := { id := e.id, regs := e.dest, lanes := p.tmask, loads := true, entry := some e }
      { g with work := { g.work with flight := g.work.flight ++ [d] } }
    else
      let rs := g.work.residuals
      { g with work := { g.work with
          residuals := (rs.filter fun x => decide (x.id < e.id)) ++ e :: rs.filter fun x => decide (e.id < x.id) } }

/-- The fault is an entry's that can run again: a QPOP has consumed its chunk (11 R276). -/
def Posted.again (p : Posted) : Bool :=
  match p.entry with
  | some e => match e.instr with
    | .qpop _ _ => false
    | _ => true
  | none => false

/-- The fault that another entry of the gang has raised in this cycle: its place among those held, the fault, and whether the new
one's entry is the older. -/
def State.sameCycle (s : State) (held : List Posted) (f : Posted) : Option (Nat × Posted × Bool) :=
  let id (p : Posted) : Nat := (p.entry.map (·.id)).getD 0
  if ¬ f.again then none
  else (held.zipIdx.find? fun p => p.1.again && p.1.at_ == s.clock).map fun p => (p.2, p.1, decide (id f < id p.1))

/-- Posts a fault to a gang: held in order, a further deferred memory error counted in the held one; of the faults of two entries
in one cycle that of the older, while the other entry stays in its queue (10 R230); a gang without an unexited lane has a kind 8
record instead (05 R438, R439). -/
def State.post (s : State) (gk : Nat) (f : Posted) : State :=
  let f := { f with at_ := s.clock }
  let g := s.gang gk
  if g.unexited = 0 then
    let r : FaultRec := { kind := 8, ctx := s.ctxOf g, gang := some gk, addr := f.taux.toNat, detail := f.code }
    (s.setGang gk (match f.entry with
      | some e => g.abandon e
      | none => g)).postRecord (s.partOf g) r
  else
    let held := g.work.posted
    match s.sameCycle held f with
    | some (_, _, false) => s.setGang gk (g.requeue f)
    | some (i, p, true) => s.setGang gk ({ g with work := { g.work with posted := modAt (fun _ => f) i held } }.requeue p)
    | none =>
      let joined := match held.findIdx? (fun p => p.code == cDeferred) with
        | some i => if f.code = cDeferred then modAt (fun p => { p with more := min (p.more + 1) 15 }) i held else held ++ [f]
        | none => held ++ [f]
      s.setGang gk { g with work := { g.work with posted := joined } }

/-- What a gang without an unexited lane still holds of faults is reported and given up (05 R439). -/
def State.dropPosted (s : State) (gk : Nat) : State :=
  let g := s.gang gk
  let held := g.work.posted
  let g := match g.work.faulted with
    | some (e, _, _) => g.abandon e
    | none => g
  held.foldl (fun s f => s.post gk f) (s.setGang gk { g with work := { g.work with posted := [], faulted := none } })

/-- A deferred memory error of an access at an address (20 R417, R418), with its record. -/
def State.memError (s : State) (gk source addr pa : Nat) : State :=
  let aux := source * 2 ^ 56 + addr % 2 ^ 56
  (s.logAnywhere 4 gk pa aux).post gk { code := cDeferred, aux := w64 aux }

/-! ### Counters and budgets -/

/-- The counts with one class changed (01 R35): 1 loads, 2 stores, 3 copies, 4 tile operations. -/
def Counts.bump (c : Counts) (cls : Nat) (f : Nat → Nat) : Counts :=
  match cls with
  | 1 => { c with loads := f c.loads }
  | 2 => { c with stores := f c.stores }
  | 3 => { c with copies := f c.copies }
  | 4 => { c with tiles := f c.tiles }
  | _ => c

/-- One more operation of a class would pass the top of its range (01 R35). -/
def Counts.full (c : Counts) (cls : Nat) : Bool :=
  match cls with
  | 1 => decide (c.loads ≥ 31)
  | 2 => decide (c.stores ≥ 31)
  | 3 => decide (c.copies ≥ 31)
  | 4 => decide (c.tiles ≥ 7)
  | _ => false

/-- A gang's count of a class changed. -/
def State.count (s : State) (gk cls : Nat) (f : Nat → Nat) : State :=
  let g := s.gang gk
  s.setGang gk { g with counts := g.counts.bump cls f }

/-- A command or credit of a tile operation has ended: its count falls when none of the instruction's is left (09 R201). -/
def State.tileDone (s : State) (gk ticket : Nat) : State :=
  let queued := (s.core (s.gang gk).core).array.any fun c =>
    c.gang == gk && match c.cmd with
      | .pass _ _ rs => rs.any fun r => r.ticket == ticket
      | .drain r => r.ticket == ticket
      | _ => false
  if queued || s.credits.any (fun c => c.tile == some (gk, ticket)) then s else s.count gk 4 (· - 1)

/-- Charges `n` units of a budget class (0 issue, 1 stream, 2 bulk, 3 matrix, 4 crossbar) to a partition and meters them
(16 R365; 19 R413). -/
def State.charge (s : State) (p cls n : Nat) : State :=
  let pt := s.part p
  s.setPart p { pt with
    balance := modAt (fun (b : Int) => b - n) cls pt.balance
    meters := modAt (fun m => m + n) cls pt.meters }

/-- Some port carries flits: it is up, which it is only once admitted (19 R406). -/
def State.anyPort (s : State) : Bool := s.chip.ports.any fun (p : Nat × Port) => p.2.up

/-- The partition's flits can leave: a port is up, and no containment holds them (19 R406; 20 R425). -/
def State.flitsOut (s : State) (p : Nat) : Bool := s.anyPort && !(s.part p).hold

/-- The partition has sent a flit (19 R413). -/
def State.meterFlit (s : State) (p : Nat) : State :=
  let pt := s.part p
  s.setPart p { pt with meters := modAt (· + 1) 6 pt.meters }

/-- A flit asks another chip for a place: it is numbered, kept until it is acknowledged, and sent as soon as it can leave (19 R407).
The answer gives its chip and number. Log entry 103, DESIGN CHOICE. -/
def State.sendFlit (s : State) (p world cls chip flat n : Nat) : State × (Nat × Nat) :=
  let f := get {} s.chip.flits chip
  let out := s.flitsOut p
  let x : Flit :=
    { seq := f.next, src := s.chip.number, dst := chip, part := p, world := world, cls := cls, flat := flat, len := n, at_ := s.clock, sent := out }
  let s := if out then s.meterFlit p else s
  let f' := { f with next := (f.next + 1) % 2 ^ 32, unacked := f.unacked ++ [x] }
  ({ s with chip := { s.chip with flits := put s.chip.flits chip f' } }, (chip, f.next))

/-- The requests that an access to some places sends to other chips, a flit for each. -/
def State.ask (s : State) (p world cls n : Nat) : List Nat → State × List (Nat × Nat)
  | [] => (s, [])
  | a :: as =>
    match peerOf a with
    | none => State.ask s p world cls n as
    | some c =>
      let (s, q) := s.sendFlit p world cls c a n
      let (s, qs) := State.ask s p world cls n as
      (s, q :: qs)

/-- A chip is unreachable: a flit to it stands unacknowledged after 64 resends (19 R407). -/
def State.cutOff (s : State) (chip : Nat) : Bool := (get {} s.chip.flits chip).unacked.any fun u => decide (u.tries ≥ 64)

/-- The place lies on a chip that is unreachable. -/
def State.unreachable (s : State) (flat : Nat) : Bool :=
  match peerOf flat with
  | some c => s.cutOff c
  | none => false

/-- The requests sent between two states. -/
def sentSince (a b : State) : List (Nat × Nat) :=
  b.chip.flits.flatMap fun p =>
    let n := (get ({} : Flits) a.chip.flits p.1).next
    (List.range ((p.2.next + 2 ^ 32 - n) % 2 ^ 32)).map fun i => (p.1, (n + i) % 2 ^ 32)

/-- Every request of some has been acknowledged, or its chip is unreachable. -/
def State.answered (s : State) (fs : List (Nat × Nat)) : Bool :=
  fs.all fun q => s.cutOff q.1 || !(get {} s.chip.flits q.1).unacked.any fun u => u.seq == q.2

/-- How an access that may reach other chips goes on (19 R407): at once, or once the requests that it has sent, now or before, are
answered. -/
inductive Asked where
  | go
  | wait (s : State) (fs : List (Nat × Nat))

/-- An access of `n` bytes at some places, whose earlier requests are `fs`. -/
def State.asking (s : State) (p world cls n : Nat) (fs : List (Nat × Nat)) (places : List Nat) : Asked :=
  if places.all (fun a => (peerOf a).isNone) then .go
  else if fs.isEmpty then
    let (s, fs) := s.ask p world cls n places
    .wait s fs
  else if s.answered fs then .go
  else .wait s fs

/-- A unit as an error record names it (20 R420): die, kind (0 core, 1 home slice, 2 stack, 3 port, 4 other) and index. -/
def unitOf (die kind index : Nat) : Nat := die % 4 + kind % 16 * 16 + index % 65536 * 256

/-- The port of a core, the ports of a die's crossbar counted in the order of 00 R1 (log entry 104, DESIGN CHOICE). -/
def corePort (core : Nat) : Nat := core / 64 * 104 + core % 64

/-- A port of a crossbar has been marked failing: its traffic goes through a die bridge (19 R408). -/
def State.portFails (s : State) (port : Nat) : Bool := s.chip.failingPorts.contains (unitOf (port / 104) 3 (port % 104))

/-- Meters an access of some bytes to global memory through a port (16 R365; 19 R413): crossbar beats, once more through the die
bridge that bypasses a failing port, and HBM traffic. -/
def State.meter (s : State) (p port bytes flat : Nat) : State :=
  let s := s.charge p 4 (Config.beats s.free bytes * (if s.portFails port then 2 else 1))
  let pt := s.part p
  let s := if isHbm flat then s.setPart p { pt with meters := modAt (· + Config.hbmUnits s.free bytes) 5 pt.meters } else s
  s.tick1

/-- Meters the lanes of an access. -/
def State.meterLanes (s : State) (p port n : Nat) (ok : Store Nat) : State := ok.foldl (fun s q => s.meter p port n q.2) s

/-- The home slice that serves a place of HBM, die by die: the one that the hash names, or its neighbour where that is marked failing
(11 R278; 20 R422). -/
def State.sliceOf (s : State) (a : Nat) : Nat :=
  let d := a / 2 ^ 36 / 3
  let h := Config.homeSlice (a / 128) % 32
  32 * d + if s.chip.failing.contains (32 * d + h) then Nat.xor h 1 else h

/-- A load's request enters the flow from its core's port to the home slice that serves the place, which takes it (19 R408): the flow
and its number there. -/
def State.crossSend (s : State) (core flat : Nat) : State × (Nat × Nat) :=
  let k := corePort core * 2 ^ 16 + (if isHbm flat then s.sliceOf flat else 2 ^ 15)
  let f := get {} s.chip.flows k
  ({ s with chip := { s.chip with flows := put s.chip.flows k { f with next := f.next + 1, expect := f.expect + 1 } } }, (k, f.next))

/-- The unit acknowledges a request of a flow. -/
def State.crossAck (s : State) (c : Option (Nat × Nat)) : State :=
  match c with
  | none => s
  | some (k, n) =>
    let f := get {} s.chip.flows k
    { s with chip := { s.chip with flows := put s.chip.flows k { f with acked := some n } } }

/-- The class has balance to start an operation (16 R365): an unlimited budget always has. -/
def State.mayStart (s : State) (p cls : Nat) : Bool :=
  let pt := s.part p
  match pt.budgets[cls]?, pt.balance[cls]? with
  | some b, some x => b == 0xFFFFFFFF || decide (x > 0)
  | _, _ => true

end Sys2Proof.Machine
end

