-- ==== Sys2Proof/Machine/Operands.lean ====
section
/-! DEFINITION. Registers by name, the issue checks in their order (03 R75), pending sources and capture (10 R224, R225),
delivery to queues (10 R232 to R234), and retirement. -/

namespace Sys2Proof.Machine

/-! ### Registers -/

/-- Where a fixed register, or from 16 on a stack slot, of a lane stands in the register file. -/
def slotKey (l n : Nat) : Nat := 32 * n + l

/-- Where vector register `n` of lane `l` stands (01 R16): the names from 16 on slide with the slice's window base. -/
def Gang.vecKey (g : Gang) (l n : Nat) : Nat := slotKey l (if n < 16 then n else (g.slice (l / 4)).base + n)

/-- A shadow register (01 R39): what a handler wrote, or an open member of the entry's set. -/
def Shadow.read (sh : Shadow) (l n : Nat) : W32 :=
  match find sh.kept (8 * l + n) with
  | some x => x
  | none => ((0 :: sh.cands)[Config.shadowPick sh.epoch l n % (sh.cands.length + 1)]?).getD 0

/-- ReadV (00 R12). -/
def Gang.readV (g : Gang) (l n : Nat) : W32 :=
  if g.supH ∧ n < 8 then g.regs.shadow.read l n else get 0 g.regs.vec (g.vecKey l n)

/-- A value that a register has been given is noted once (01 R39). -/
def noteValue (x : W32) (seen : List W32) : List W32 := if x = 0 ∨ seen.contains x then seen else x :: seen

/-- A word into a shadow register, and into a place of the register file. -/
def Regs.putShadow (r : Regs) (l n : Nat) (x : W32) : Regs :=
  { r with seen := noteValue x r.seen, shadow := { r.shadow with kept := put r.shadow.kept (8 * l + n) x } }
def Regs.putVec (r : Regs) (key : Nat) (x : W32) : Regs := { r with seen := noteValue x r.seen, vec := set 0 r.vec key x }

/-- WriteV to the register file (00 R12). -/
def Gang.writeV (g : Gang) (l n : Nat) (x : W32) : Gang :=
  { g with regs := if g.supH ∧ n < 8 then g.regs.putShadow l n x else g.regs.putVec (g.vecKey l n) x }

/-- A pair of lane `l` (01 R19). -/
def Gang.readPair (g : Gang) (l n : Nat) : W64 := join64 (g.readV l n) (g.readV l (n + 1))
def Gang.writePair (g : Gang) (l n : Nat) (x : W64) : Gang := (g.writeV l n (lo32 x)).writeV l (n + 1) (hi32 x)

/-- A predicate as a lane mask, and in one lane. -/
def Gang.pmask (g : Gang) (n : Nat) : Mask := get 0 g.regs.pred n
def Gang.readP (g : Gang) (l n : Nat) : Bool := has (g.pmask n) l
def Gang.writeP (g : Gang) (l n : Nat) (x : Bool) : Gang :=
  let m := g.pmask n
  let b : Mask := BitVec.ofNat 32 (2 ^ l)
  { g with regs := { g.regs with pred := set 0 g.regs.pred n (if x then m ||| b else m &&& ~~~b) } }

/-- The mixing function of RNGSPLIT (04 R118). -/
def mix64 (z : W64) : W64 :=
  let z := (z ^^^ (z >>> 30)) * 0xBF58476D1CE4E5B9#64
  let z := (z ^^^ (z >>> 27)) * 0x94D049BB133111EB#64
  z ^^^ (z >>> 31)

/-- The state that RNGSPLIT gives a lane from a seed and a stream number (04 R118). -/
def rngSplit (seed : W64) (stream lane : Nat) : Xs :=
  let z := seed ^^^ w64 (stream % 2 ^ 32 * 2 ^ 32) ^^^ w64 lane
  let g := 0x9E3779B97F4A7C15#64
  { s0 := mix64 (z + g), s1 := mix64 (z + g + g) }

/-- One xorshift128+ step (04): the new state and the 64 bits drawn. -/
def Xs.step (x : Xs) : Xs × W64 :=
  let a := x.s0 ^^^ (x.s0 <<< 23)
  let s1 := a ^^^ x.s1 ^^^ (a >>> 17) ^^^ (x.s1 >>> 26)
  ({ s0 := x.s1, s1 := s1 }, s1 + x.s1)

/-- `n` steps. -/
def Xs.steps : Nat → Xs → Xs
  | 0, x => x
  | n + 1, x => Xs.steps n x.step.1

/-- A lane's random state; at gang start that of seed 0 and stream 0 (01 R32). -/
def Gang.xsOf (g : Gang) (l : Nat) : Xs := (find g.regs.xs l).getD (rngSplit 0 0 l)
def Gang.setXs (g : Gang) (l : Nat) (x : Xs) : Gang := { g with regs := { g.regs with xs := put g.regs.xs l x } }

/-- What a register name means to the pending state: in a supervisor handler v0–v7 are the shadow registers, which are
names 96 to 103 here and share nothing with the v0–v7 of the interrupted context (01 R39; 10 R231). -/
def Gang.pname (g : Gang) (n : Nat) : Nat := if g.supH ∧ n < 8 then 96 + n else n

/-- The operand name behind a pending name. -/
def valName (r : Nat) : Nat := if 96 ≤ r then r - 96 else r

/-- The pending state of a pending name. -/
def Gang.pend (g : Gang) (r : Nat) : Pend := get {} g.regs.pend r
def Gang.setPend (g : Gang) (r : Nat) (p : Pend) : Gang := { g with regs := { g.regs with pend := put g.regs.pend r p } }

/-- The consumer set of a fan-out set (01 R30). -/
def Gang.fanSet (g : Gang) (f : Nat) : Nat := if f = 0 then 1 else get 1 g.fan f

/-! ### Uniform registers (01 R21 to R24) -/

/-- The values that a read by a gang may return: its owner reads its own last write; any other gang any value of the
span not older than its last read. -/
def State.uniRead (s : State) (gk n : Nat) : W64 × State :=
  let g := s.gang gk
  let gr := s.group g.group
  let now := get 0 gr.wreg n
  match find gr.span n with
  | none => (now, s)
  | some hist =>
    if find gr.owner n = some gk then (now, s)
    else
      let last := get 0 g.lastRead n
      let (i, s) := s.pick ((List.range (hist.length - last)).map (last + ·))
      let k := i.getD last
      (hist[k]?.getD now, s.setGang gk { s.gang gk with lastRead := put g.lastRead n k })

/-- A write by the owner or the first writer of the span, or the owner that forbids it (R23). -/
def State.uniWrite (s : State) (gk n : Nat) (x : W64) : Except Nat State :=
  let g := s.gang gk
  let gr := s.group g.group
  let own := find gr.owner n
  if own = none ∨ own = some gk then
    let hist := (find gr.span n).getD [get 0 gr.wreg n]
    let gr := { gr with wreg := set 0 gr.wreg n x, owner := put gr.owner n gk, span := put gr.span n (hist ++ [x]) }
    .ok (s.setGroup g.group gr)
  else .error (own.getD 0)

/-! ### Links and queues (10 R232 to R235; notes/assumptions/11.md, DESIGN CHOICE) -/

def linkKey (consort e : Nat) : Nat := 3 * (4 * consort + e)
def portKey (gk j : Nat) : Nat := 3 * (64 * gk + j) + 1
def cruKey (grp : Nat) : Nat := 3 * grp + 2

/-- The queue behind a key: end `e` of a consort, port `j` of a gang, or the reduction input of a group. -/
inductive QKey where
  | link (consort e : Nat)
  | port (gk j : Nat)
  | cru (grp : Nat)
  deriving DecidableEq, Repr

def qkey (k : Nat) : QKey :=
  match k % 3 with
  | 0 => .link (k / 12) (k / 3 % 4)
  | 1 => .port (k / 192) (k / 3 % 64)
  | _ => .cru (k / 3)

/-- The neighbour in a direction: north, east, south, west of the 8×8 grid of consorts (00 R2), by package number. -/
def consortXY (c : Nat) : Nat × Nat := (4 * (c / 16 % 2) + c % 4, 4 * (c / 32) + c % 16 / 4)
def consortAt (x y : Nat) : Nat := 16 * (x / 4 + 2 * (y / 4)) + 4 * (y % 4) + x % 4
def neighbour (c e : Nat) : Option Nat :=
  let (x, y) := consortXY c
  match e with
  | 0 => if y = 0 then none else some (consortAt x (y - 1))
  | 1 => if x = 7 then none else some (consortAt (x + 1) y)
  | 2 => if y = 7 then none else some (consortAt x (y + 1))
  | _ => if x = 0 then none else some (consortAt (x - 1) y)

/-- The direction that faces a direction. -/
def facing (e : Nat) : Nat := (e + 2) % 4

/-- A link end exists inside the package and the partition (R235). -/
def State.endExists (s : State) (gk e : Nat) : Bool :=
  let g := s.gang gk
  match neighbour (g.core / 4) e with
  | none => false
  | some c => bit (s.part (s.partOf g)).consorts c

/-- The gang owns the link end. -/
def State.ownsEnd (s : State) (gk e : Nat) : Bool :=
  s.endExists gk e && (s.link (linkKey ((s.gang gk).core / 4) e)).owner == some gk

/-- The sender's window of a queue has room (R234). -/
def State.windowRoom (s : State) (k n : Nat) : Bool := decide ((s.link k).window.length + n ≤ 16)

/-- Puts an entry into a queue's replay window. -/
def State.sendEntry (s : State) (k : Nat) (words : List W32) (m : Mask) : State :=
  let l := s.link k
  s.setLink k { l with window := l.window ++ [(l.nextSend, words, m)], nextSend := l.nextSend + 1 }

/-- The queue that feeds a link end of the gang: the facing end's sender. -/
def State.recvKey (s : State) (gk e : Nat) : Nat :=
  match neighbour ((s.gang gk).core / 4) e with
  | some c => linkKey c (facing e)
  | none => linkKey ((s.gang gk).core / 4) e

/-! ### The issue of an instruction -/

/-- Who issues: gang, cohort, path and active lanes, MODE and address; `cap` tells that a source is pending under
deferring; `guardPend` that the guard is. -/
structure Issue where
  gk : Nat := 0
  g : Gang := {}
  ss : List Nat := []
  path : Mask := 0
  act : Mask := 0
  mode : W32 := 0
  pc : W64 := 0
  cap : Bool := false
  guardPend : Bool := false
  deriving DecidableEq, Repr

/-- What the issue checks answer: no such gang, a state in which the instruction trapped or stalled, or an issue. -/
inductive Front where
  | none
  | done (s : State)
  | go (e : Issue)
  deriving DecidableEq, Repr

/-- The guard's lanes (01 R15). -/
def Gang.guardMask (g : Gang) (m : W32) : Mask :=
  if mGen m then (if mNeg m then ~~~(g.pmask (mGuard m)) else g.pmask (mGuard m)) else 0xFFFFFFFF#32

/-- The issuing cohort as it stands, before any check. Log entry 73, DEDUCED. -/
def State.issueOf (s : State) (i : Instr) : Option Issue :=
  match find s.gangs s.cur.gang with
  | none => none
  | some g =>
    let ss := s.cur.slices
    let sl := g.slice (ss.headD 0)
    let path := g.path &&& slicesMask ss
    let act := match sl.reexec with
      | some m => path &&& m
      | none => if (desc i).guarded then path &&& g.guardMask sl.mode else path
    some { gk := s.cur.gang, g := g, ss := ss, path := path, act := act, mode := sl.mode, pc := s.cur.pc }

/-- Whether a slot's elements are 8 bytes, and its rank (12 R280, R300). -/
def descType (d : List Byte) : Nat := bits (fromBytes (d.take 8)) 56 5
def descRank (d : List Byte) : Nat := bits (fromBytes (d.take 8)) 61 3
def State.slotWide (s : State) (e : Issue) (t : Nat) : Bool :=
  match find (s.group e.g.group).td t with
  | some d => is64 (descType d)
  | none => false
def State.slotRank (s : State) (e : Issue) (t : Nat) : Nat :=
  match find (s.group e.g.group).td t with
  | some d => descRank d
  | none => 1

/-- The stepped number of an operand: the high part belongs to its field (03 R80). Log entry 30, DEDUCED. -/
def Cur.num (c : Cur) (o : Opnd) : Nat :=
  o.num + 64 * match o.role with
    | .d => c.hiD
    | .a => c.hiA
    | .b => c.hiB
    | .c => c.hiC
    | .cond => 0

/-- An immediate selector outside its range (03 R75 step 4), under field 5. -/
def selectorFault (i : Instr) : Option (Nat × Nat) := (immSelector i).map fun n => (5, n)

/-- The first operand field outside its kind, and then an immediate selector: the field's number and the number to report
(03 R75 step 4). -/
def State.operandFault (s : State) (e : Issue) (i : Instr) : Option (Nat × Nat) :=
  ((desc i).ops.findSome? fun o =>
    (kindFault e.mode (s.slotWide e) (s.slotRank e) o.kind (s.cur.num o)).map fun n => (o.role.num, n)).or (selectorFault i)

/-- The lowest queue register that the instruction names without owning it (03 R75 step 5). -/
def State.queueFault (s : State) (e : Issue) (i : Instr) : Option Nat :=
  let fan := if (desc i).fan then (those 4 fun q => bit (e.g.fanSet (mFan e.mode)) (q + 1)) else []
  let named := match i with
    | .qpush d _ => if d.toNat < 4 then [d.toNat] else []
    | .qpop _ a => if a.toNat < 4 then [a.toNat] else []
    | _ => []
  match (fan ++ named).find? fun q => !s.ownsEnd e.gk q with
  | some q => some q
  | none => match i with
    | .qown _ a => if s.endExists e.gk a.toNat then none else some a.toNat
    | .qownRel a => if s.endExists e.gk a.toNat then none else some a.toNat
    | _ => none

/-- The level forbids the instruction (03 R75 step 3; 01 R36): `hiA` counts the 64s of a stepped selector. -/
def privFault (g : Gang) (hiA : Nat) (i : Instr) : Bool :=
  decide (g.level = 0) && ((desc i).priv || match i with
    | .srd _ a => a.toNat + 64 * hiA == 20
    | _ => false)

/-- The decode traps after step 2, in the order of R75: cause and sys.taux (R76). -/
def State.decodeFault (s : State) (e : Issue) (i : Instr) : Option (Nat × W64) :=
  if privFault e.g s.cur.hiA i then some (cPriv, w64 s.cur.word.toNat)
  else match s.operandFault e i with
  | some (f, n) => some (cIllOp, opAux f n)
  | none => match s.queueFault e i with
    | some q => some (cQueue, w64 q)
    | none => match typeReason i e.mode s.cur.hiB with
      | some r =>
        some (cIllType, w64 (s.cur.word.toNat + (if r = 1 then mType2 e.mode else mType e.mode) * 2 ^ 32 + r * 2 ^ 37))
      | none =>
        if roundsIn (desc i).rnd e.mode ∧ mRnd e.mode ≥ 6 then some (cIllRnd, w64 (s.cur.word.toNat + mRnd e.mode * 2 ^ 32))
        else none

/-- The registers that an operand names. -/
def State.opNames (s : State) (e : Issue) (o : Opnd) : List Nat :=
  kindNames e.mode (s.slotWide e) (s.slotRank e) o.kind (s.cur.num o)

/-- The registers that are read; MDRN's unused c is not. -/
def State.readNames (s : State) (e : Issue) (i : Instr) : List Nat :=
  let names := ((desc i).ops.filter (·.reads)).flatMap (s.opNames e)
  match i with
  | .tst _ _ _ => ((desc i).ops.filter fun o => o.role != .a).flatMap (s.opNames e)
  | .tld _ _ _ => ((desc i).ops.filter fun o => o.role == .b).flatMap (s.opNames e)
  | _ => names

/-- The registers that are written: none where a fan-out set lacks the register file (03 R77). -/
def State.writeNames (s : State) (e : Issue) (i : Instr) : List Nat :=
  if (desc i).fan ∧ ¬ bit (e.g.fanSet (mFan e.mode)) 0 then []
  else match i with
  | .tld _ _ _ => ((desc i).ops.filter fun o => o.role == .d).flatMap (s.opNames e)
  | _ => ((desc i).ops.filter (·.writes)).flatMap (s.opNames e)

/-- The result goes to a consumer other than the register file (03 R78); an empty set names none (05 R137). -/
def fanOther (e : Issue) (i : Instr) : Bool := (desc i).fan && decide (e.g.fanSet (mFan e.mode) / 2 ≠ 0)

/-- Pending registers stand still for a handler of a deferred trap (05 R144). Log entry 40, DEDUCED. -/
def Gang.frozen (g : Gang) : Bool := (g.userH && g.hidUser.deferred) || (g.supH && g.hidSup.deferred)

/-- The guard predicate that the instruction reads, if any. A re-execution applies no guard (05 R143). -/
def Issue.guardName (e : Issue) (i : Instr) : List Nat :=
  if (desc i).guarded ∧ mGen e.mode ∧ (e.g.slice (e.ss.headD 0)).reexec = none then [64 + mGuard e.mode] else []

/-- The destinations that count as sources: pending ones of which the active lanes, which a pending guard leaves unknown,
do not surely hold every producer lane (10 R224). -/
def State.pendingDests (s : State) (e : Issue) (i : Instr) : List Nat :=
  let unsure := (e.guardName i).any fun n => (e.g.pend n).on
  ((s.writeNames e i).map e.g.pname).filter fun n =>
    (e.g.pend n).on && (unsure || decide ((e.g.pend n).mask &&& ~~~e.act ≠ 0))

/-- The pending sources: those read, the guard, and such destinations (01 R15; 10 R224). -/
def State.pendingSources (s : State) (e : Issue) (i : Instr) : List Nat :=
  if e.g.frozen then []
  else
    let src := ((e.guardName i ++ s.readNames e i).map e.g.pname).filter fun n => (e.g.pend n).on
    (src ++ s.pendingDests e i).eraseDups

/-- Branches, calls and joins drain every pending register of the executing cohort, and the predicates that they name (05 R146). -/
def drainsAll : Instr → Bool
  | .br _ | .brp _ _ | .bra _ _ | .brn _ _ | .call _ | .callr _ | .ret | .jmpr _ | .jset _ _ | .jsetAct _ | .jarr | .jwait
  | .regang _ => true
  | _ => false

/-- Some register of the gang is pending. -/
def Gang.anyPending (g : Gang) : Bool := g.regs.pend.any fun p => p.2.on

/-- The registers that are pending in a lane of some slices (05 R146). -/
def Gang.pendingIn (g : Gang) (ss : List Nat) : List Nat :=
  g.regs.pend.filterMap fun p => if p.2.on ∧ p.2.mask &&& slicesMask ss ≠ 0 then some p.1 else none

/-- The instruction may be captured: class C or CP, no stochastic rounding, no queue consumer (03 R78; 04 R93). -/
def capturable (e : Issue) (i : Instr) : Bool :=
  ((desc i).cls == .C || (desc i).cls == .CP) && !fanOther e i && !(roundsIn (desc i).rnd e.mode && mRnd e.mode == 5)

/-- The cohort did not issue: it stays where it is, with the reason (10 R219). -/
def State.stall (s : State) (gk : Nat) (ss : List Nat) (r : Stall) : State :=
  s.setGang gk ((s.gang gk).onSlices ss fun _ x => { x with stall := some r })

/-- Residual entries held (10 R225, R230; 07 R162): an unsettled captured store counts, and so does one that has
faulted. -/
def Gang.residualCount (g : Gang) : Nat :=
  g.work.residuals.length + (g.work.stores.filter fun q => !q.entry.waits.isEmpty).length
    + (g.work.posted.filter fun p => p.entry.isSome && !p.outside).length
    + (match g.work.faulted with
      | some (_, _, false) => 1
      | _ => 0)
    + b2n ((g.page.map fun p => p.entry.isSome && !p.outside) == some true)

/-- The kinds of access that wait while an LDA is outstanding (07 R165). -/
def Gang.ldaOut (g : Gang) : Bool := g.work.flight.any (·.acq)
def isAccess (i : Instr) : Bool := (desc i).cnt == 1 || (desc i).cnt == 2

/-- The windows that the queue consumers of the fan-out set enter, each with one entry: a stream port's where its quarter has an
active lane, none where no lane is active (03 R77, R78; 10 R234). -/
def Issue.fanNeeds (e : Issue) : List (Nat × Nat) :=
  let f := e.g.fanSet (mFan e.mode)
  if e.act = 0 then []
  else
    ((those 4 fun q => bit f (q + 1)).map fun q => (linkKey (e.g.core / 4) q, 1))
      ++ (if bit f 5 then (those 4 fun j => decide (e.act &&& quarterMask j ≠ 0)).map fun j => (portKey e.gk j, 1) else [])
      ++ (if bit f 6 then [(cruKey e.g.group, 1)] else [])

/-- Every window has the places. -/
def State.rooms (s : State) (ks : List (Nat × Nat)) : Bool := ks.all fun k => s.windowRoom k.1 k.2

/-- No residual entry is free: the gang parks until one is (10 R219, R228). -/
def State.parkResidual (s : State) (e : Issue) : State :=
  let g := (s.gang e.gk).onSlices e.ss fun _ x => { x with stall := some .residualFull }
  let park := decide ((e.g.slice (e.ss.headD 0)).stall ≠ some .residualFull)
  s.setGang e.gk { g with
    sys := { g.sys with parks := if park then min (g.sys.parks + 1) 65535 else g.sys.parks }
    sched := { g.sched with park := some .residual, active := false, outside := 0 } }

/-- A further pending naming has to wait: 63 tags are outstanding, or the next one still has a delivery on its way (10 R224). -/
def Pend.tagsOut (p : Pend) : Bool := decide (63 ≤ p.out.length) || p.out.contains ((p.tag + 1) % 64)

/-- The registers whose tags are out among those that an instruction would name as pending (10 R224). -/
def State.tagsOut (s : State) (e : Issue) (i : Instr) : List Nat :=
  ((s.writeNames e i).map e.g.pname).filter fun n => (e.g.pend n).tagsOut

/-- What keeps an instruction from capture: 63 tags outstanding (10 R224), or a full residual queue, at which the gang parks
or takes residual-capacity (10 R228). -/
def State.captureStop (s : State) (e : Issue) (i : Instr) : Option State :=
  if ¬ (s.tagsOut e i).isEmpty then some (s.stall e.gk e.ss (.outTags (s.tagsOut e i)))
  else if e.g.residualCount ≥ 32 then
    some (if mDfrf e.mode then s.trap e.gk e.ss { code := cResid, tmask := e.act, tpc := e.pc } else s.parkResidual e)
  else none

/-- Deliveries come late under MODE.dfr, but for a handler of a deferred trap (05 R144). -/
def Issue.late (e : Issue) : Bool := mDfr e.mode && !e.g.frozen

/-- The instruction may deliver late (01 R34). -/
def deliversLate (i : Instr) : Bool := (desc i).cls == .CP || (desc i).cls == .DP

/-- The guard that the instruction reads is pending. -/
def Issue.unsure (e : Issue) (i : Instr) : Bool := !e.g.frozen && (e.guardName i).any fun n => (e.g.pend n).on

/-- A load or store whose settled guard leaves no active lane: no access, and nothing is counted (07 R159). -/
def Issue.noAccess (e : Issue) (i : Instr) : Bool := isAccess i && decide (e.act = 0) && !e.unsure i

/-- The predicates that a branch names, and the guard that BRP reads for itself (05 R125, R126, R146). -/
def branchPreds (m : W32) : Instr → List Nat
  | .bra c _ | .brn c _ => if c.toNat < 32 then [64 + c.toNat] else []
  | .brp c _ => (if c.toNat = 63 then [] else [64 + c.toNat]) ++ (if mGen m ∨ c.toNat = 63 then [64 + mGuard m] else [])
  | _ => []

/-- What a branch, call or join has to see settled: registers pending in the cohort's lanes, and predicates that it names. -/
def Issue.drainNames (e : Issue) (i : Instr) : List Nat :=
  (e.g.pendingIn e.ss ++ (branchPreds e.mode i).filter fun n => (e.g.pend n).on).eraseDups

/-- The queue entry in which a re-execution performs its lanes (07 R162). -/
def Gang.faultedStore (g : Gang) (e : Issue) : Option Nat :=
  if (e.g.slice (e.ss.headD 0)).reexec.isSome then
    g.work.stores.findIdx? fun q => !q.captured && q.fault.isSome && q.entry.addr == e.pc && decide ((q.fault.getD 0) &&& e.act ≠ 0)
  else none

/-- One more operation of the instruction's class would pass the top of its range (01 R35); the re-execution of a store in its
own entry counts no more (07 R162). -/
def Issue.countFull (e : Issue) (i : Instr) : Bool :=
  e.g.counts.full (desc i).cnt && !((desc i).cnt == 2 && (e.g.faultedStore e).isSome)

/-- What stalls an instruction that passed its checks, pending sources of its own aside: a drain of the cohort's registers
(05 R146), an LDA on its way (07 R165), a count at its top (01 R35), or a destination whose tags are out (10 R224). -/
def State.frontStall (s : State) (e : Issue) (i : Instr) : Option Stall :=
  if drainsAll i ∧ ¬ e.g.frozen ∧ ¬ (e.drainNames i).isEmpty then some (.sources (e.drainNames i))
  else if e.noAccess i then none
  else if isAccess i ∧ e.g.ldaOut then some .lda
  else if e.countFull i then some (.full (desc i).cnt)
  else if e.late ∧ deliversLate i ∧ e.act ≠ 0 ∧ ¬ (s.tagsOut e i).isEmpty then some (.outTags (s.tagsOut e i))
  else none

/-- The issue checks of R75 from step 3 on, then the deferring rules, and with its sources settled a window without room for
the consumers of its fan-out set (03 R78; 10 R234). -/
def State.front (s : State) (i : Instr) : Front :=
  match s.issueOf i with
  | none => .none
  | some e =>
    match s.decodeFault e i with
    | some (c, aux) => .done (s.trap e.gk e.ss { code := c, aux := aux, tmask := e.act, tpc := e.pc })
    | none =>
      match s.frontStall e i with
      | some r => .done (s.stall e.gk e.ss r)
      | none =>
        let ps := s.pendingSources e i
        let may := capturable e i && mDfr e.mode
        if ps.isEmpty ∨ (may ∧ e.noAccess i) then
          if fanOther e i ∧ ¬ s.rooms e.fanNeeds then .done (s.stall e.gk e.ss (.room e.fanNeeds)) else .go e
        else if may then
          match s.captureStop e i with
          | some t => .done t
          | none => .go { e with cap := true, guardPend := e.unsure i, act := if e.unsure i then e.path else e.act }
        else .done (s.stall e.gk e.ss (.sources ps))

/-! ### Retirement -/

/-- The slice after the instruction at its program counter retires (03 R67, R80): the next repetition, or the next word. -/
def Slice.advance (x : Slice) (clock : Nat) : Slice :=
  match x.rep with
  | some r =>
    let i := pcIdx x.pc + 1
    if i ≥ r.count then { x with pc := pcMake (pcAddr x.pc + 8) 0, rep := none, reexec := none, stall := none, last := clock }
    else { x with pc := pcMake (pcAddr x.pc) i, reexec := none, stall := none, last := clock }
  | none => { x with pc := pcNext x.pc, reexec := none, stall := none, last := clock }

/-- The gang's counts of cycles without an issue and without a retirement after a retirement (10 R219, R223). -/
def Sched.retire (x : Sched) : Sched := { x with idle := 0, hung := false, quiet := 0 }

/-- The cohort's instruction retires and continues at the next one. -/
def State.advance (s : State) (gk : Nat) (ss : List Nat) : State :=
  let g := s.gang gk
  s.setGang gk { g.onSlices ss (fun _ x => x.advance s.clock) with sched := g.sched.retire }

/-- The cohort's instruction retires and each slice continues at an address of its own; slices with unequal addresses
part into cohorts (05 R122). -/
def Gang.jump (g : Gang) (ss : List Nat) (clock : Nat) (dst : Nat → Nat) : Gang :=
  let first := ss.headD 0
  let base := g.freshCohort
  let g' := g.onSlices ss fun i x =>
    { x with pc := pcMake (dst i) 0, rep := none, reexec := none, stall := none, last := clock
             cohort := if dst i = dst first then x.cohort else base + (firstOf 8 fun j => ss.contains j && dst j == dst i).getD i }
  { g' with sched := g.sched.retire }

def State.jump (s : State) (gk : Nat) (ss : List Nat) (dst : Nat → Nat) : State :=
  s.setGang gk ((s.gang gk).jump ss s.clock dst)

/-! ### Writing results -/

/-- A write that is not a delivery, in the lanes `m`, clears the pending bit of its register and advances its tag, so that
older deliveries are discarded (10 R224); where some lanes of the instruction failed, the older delivery keeps the lanes that
were not written (07 R154; log entry 26, DEDUCED). In a handler of a deferred trap it changes neither (05 R144). -/
def Gang.laterWriter (g : Gang) (m : Mask) (n : Nat) : Gang :=
  let p := g.pend (g.pname n)
  let rest := p.mask &&& ~~~m
  if ¬ p.on ∨ g.frozen then g
  else if rest = 0 then g.setPend (g.pname n) { p with on := false, tag := (p.tag + 1) % 64 }
  else g.setPend (g.pname n) { p with mask := rest }

/-- The registers' later writer is this instruction. -/
def Gang.laterWriters (g : Gang) (m : Mask) (ns : List Nat) : Gang := ns.foldl (fun g n => g.laterWriter m n) g

/-- Makes a register pending under its next tag (10 R224), its name resolved by the slices' window bases (10 R225). -/
def Gang.makePending (g : Gang) (r : Nat) (m : Mask) : Gang :=
  let p := g.pend r
  g.setPend r { on := true, tag := (p.tag + 1) % 64, mask := m, out := p.out ++ [(p.tag + 1) % 64], bases := g.slices.map (·.base) }

/-- Makes registers pending; the answer pairs each pending name with its tag. -/
def Gang.makeAllPending (g : Gang) (ns : List Nat) (m : Mask) : Gang × List (Nat × Nat) :=
  let rs := ns.map g.pname
  let g := rs.foldl (fun g r => g.makePending r m) g
  (g, rs.map fun r => (r, (g.pend r).tag))

/-- A word per lane to the named register of every lane of a mask. -/
def Gang.writeLanes (g : Gang) (m : Mask) (n : Nat) (f : Nat → W32) : Gang :=
  (lanesOf m).foldl (fun g l => g.writeV l n (f l)) g

def Gang.writePairs (g : Gang) (m : Mask) (n : Nat) (f : Nat → W64) : Gang :=
  (lanesOf m).foldl (fun g l => g.writePair l n (f l)) g

def Gang.writePreds (g : Gang) (m : Mask) (n : Nat) (f : Nat → Bool) : Gang :=
  (lanesOf m).foldl (fun g l => g.writeP l n (f l)) g

/-- Delivers a result to the queue consumers of a fan-out set (03 R77; 01 R30), one entry each: for a link a 64-bit result's low
words and then its high words (log entry 14, DEDUCED), for a port and the reduction unit a lane's words together. -/
def State.fanSend (s : State) (e : Issue) (m : Mask) (wide : Bool) (f : Nat → W64) : State :=
  let fs := e.g.fanSet (mFan e.mode)
  let low := (lanesOf m).map fun l => lo32 (f l)
  let high := (lanesOf m).map fun l => hi32 (f l)
  let both (ls : List Nat) := ls.flatMap fun l => if wide then [lo32 (f l), hi32 (f l)] else [lo32 (f l)]
  let s := (List.range 4).foldl (fun s q =>
    if bit fs (q + 1) ∧ m ≠ 0 then
      s.sendEntry (linkKey (e.g.core / 4) q) (if wide then low ++ high else low) m
    else s) s
  let s := if bit fs 5 then (List.range 4).foldl (fun s j =>
      let mj := m &&& quarterMask j
      if mj = 0 then s else s.sendEntry (portKey e.gk j) (both (lanesOf mj)) mj) s
    else s
  if bit fs 6 ∧ m ≠ 0 then s.sendEntry (cruKey e.g.group) (both (lanesOf m)) m else s

/-- Writes a vector result (a pair when `wide`) through the instruction's fan-out set. -/
def State.writeResult (s : State) (e : Issue) (i : Instr) (m : Mask) (n : Nat) (wide : Bool) (f : Nat → W64) : State :=
  let fs := if (desc i).fan then e.g.fanSet (mFan e.mode) else 1
  let g := s.gang e.gk
  let names := if wide then [n, n + 1] else [n]
  let s := if bit fs 0 then
      s.setGang e.gk ((if wide then g.writePairs m n f else g.writeLanes m n fun l => lo32 (f l)).laterWriters m names)
    else s
  if (desc i).fan ∧ fs ≠ 1 then s.fanSend e m wide f else s

/-- Writes one word to a single destination register in every active lane. -/
def State.writeAll (s : State) (e : Issue) (n : Nat) (x : W32) : State :=
  s.setGang e.gk (((s.gang e.gk).writeLanes e.act n fun _ => x).laterWriter e.act n)

/-- Writes one bit to a predicate in every active lane. -/
def State.writeAllP (s : State) (e : Issue) (n : Nat) (x : Bool) : State :=
  s.setGang e.gk (((s.gang e.gk).writePreds e.act n fun _ => x).laterWriter e.act (64 + n))

/-! ### Capture (10 R225) -/

/-- The settled operands by value: every named register of every lane of the path. -/
def captureVals (g : Gang) (lanes : Mask) (names : List Nat) : Store W32 :=
  (lanesOf lanes).foldl (fun vs l =>
    names.foldl (fun vs n =>
      put vs (128 * l + n) (if n < 64 then g.readV l n else w32 (b2n (g.readP l (n - 64))))) vs) []

/-- What an entry holds of an instruction, its waits and destination aside. -/
def State.entryOf (s : State) (e : Issue) (i : Instr) : Entry :=
  let names := (e.guardName i ++ s.readNames e i ++ s.writeNames e i).eraseDups
  { id := e.g.work.nextId, instr := i, word := s.cur.word, addr := e.pc, mode := e.mode, lanes := e.act
    guardPend := e.guardPend, vals := captureVals e.g e.path names }

/-- The gang with the next entry number taken. -/
def Gang.nextEntry (g : Gang) : Gang := { g with work := { g.work with nextId := g.work.nextId + 1 } }

/-- The entry of a captured instruction; its destination becomes pending under a new tag. -/
def State.capture (s : State) (e : Issue) (i : Instr) : Entry × Gang :=
  let g := e.g
  let srcs := s.pendingSources e i
  let keep := (s.pendingDests e i).foldl (fun (m : Mask) n => m ||| (g.pend n).mask) 0
  let ent := s.entryOf e i
  let (g1, dest) := g.makeAllPending (s.writeNames e i) (e.act ||| keep)
  ({ ent with waits := srcs.map fun n => (n, (g.pend n).tag), late := srcs.foldl (fun m n => put m n (g.pend n).mask) []
              dest := dest, keep := keep }, g1.nextEntry)

/-- The highest number of entries held (01 R37). -/
def Gang.noteHigh (g : Gang) : Gang := { g with sys := { g.sys with high := max g.sys.high (min g.residualCount 32) } }

/-- Captures an instruction into the residual queue and goes on; a load counts from its capture (01 R35). -/
def State.captureResidual (s : State) (e : Issue) (i : Instr) : State :=
  let (ent, g) := s.capture e i
  let g := { g with
    work := { g.work with residuals := g.work.residuals ++ [ent] }
    counts := g.counts.bump (desc i).cnt (· + 1) }
  (s.setGang e.gk g.noteHigh).advance e.gk e.ss

/-- An operand of a captured entry in a lane: a vector word or a predicate bit. -/
def Entry.readV (e : Entry) (l n : Nat) : W32 := get 0 e.vals (128 * l + n)
def Entry.readP (e : Entry) (l n : Nat) : Bool := decide (get 0 e.vals (128 * l + 64 + n) ≠ 0)

/-- A delivery of a register's words under a tag is offered to an entry that waits on it (10 R226); `fin` tells that no
lane of the producer is still to come. -/
def Entry.offer (e : Entry) (reg tag : Nat) (lanes : Mask) (fin : Bool) (f : Nat → W32) : Entry :=
  if e.waits.contains (reg, tag) then
    { e with waits := if fin then e.waits.filter (· ≠ (reg, tag)) else e.waits
             vals := (lanesOf (lanes &&& get 0 e.late reg)).foldl (fun vs l => put vs (128 * l + valName reg) (f l)) e.vals }
  else e

/-- Writes a delivered word to the place behind a pending name: a predicate, a shadow register, v0–v7 of the user context even
while a handler uses the shadow (10 R231), or the stack slot that the name meant when it became pending (10 R225). -/
def Gang.landV (g : Gang) (bases : List Nat) (reg l : Nat) (x : W32) : Gang :=
  if 96 ≤ reg then { g with regs := g.regs.putShadow l (reg - 96) x }
  else if 64 ≤ reg then g.writeP l (reg - 64) (decide (x ≠ 0))
  else { g with regs := g.regs.putVec (slotKey l (if reg < 16 then reg else bases[l / 4]?.getD 0 + reg)) x }

/-- Writes delivered words in the lanes of a mask. -/
def Gang.land (g : Gang) (bases : List Nat) (reg : Nat) (lanes : Mask) (f : Nat → W32) : Gang :=
  (lanesOf lanes).foldl (fun g l => g.landV bases reg l (f l)) g

/-- Delivers a register's words under a tag: to every waiting entry, and to the register where the tag is current
(01 R33; 10 R226). -/
def Gang.deliver (g : Gang) (reg tag : Nat) (lanes : Mask) (fin : Bool) (f : Nat → W32) : Gang :=
  let w : Work := { g.work with
    residuals := g.work.residuals.map fun e => e.offer reg tag lanes fin f
    stores := g.work.stores.map fun q => { q with entry := q.entry.offer reg tag lanes fin f } }
  let g : Gang := { g with work := w }
  let p := g.pend reg
  let cur := decide (p.on ∧ p.tag = tag)
  let g := if cur then g.land p.bases reg (lanes &&& p.mask) f else g
  g.setPend reg { p with
    on := if cur then !fin else p.on
    mask := if cur then p.mask &&& ~~~lanes else p.mask
    out := if fin then p.out.erase tag else p.out }

end Sys2Proof.Machine
end

