-- ==== Sys2Proof/Machine/Flags.lean ====
section
/-! DEFINITION. What a computing instruction leaves in a lane, the sticky flags, and floating-point traps lane by lane
(01 R37; 02 R55, R56). -/

namespace Sys2Proof.Machine

/-- One lane's result: a word or pair, or a predicate bit; the flags raised; a saturation; the random steps consumed. -/
structure Out where
  val : W64 := 0
  p : Bool := false
  flags : Flags := 0
  sat : Bool := false
  draws : Nat := 0
  deriving DecidableEq, Repr

/-- What a computation reads: the active lanes, MODE, the registers and random states of the lanes, and the uniform value
of MOVW. Live instructions read the gang, residuals their captured operands. -/
structure Env where
  act : Mask
  mode : W32
  v : Nat → Nat → W32
  p : Nat → Nat → Bool
  xs : Nat → Xs
  uni : W64

/-- A computation: what each active lane delivers. -/
abbrev Kernel := Env → Nat → Out

/-- The environment of a live instruction. -/
def Issue.env (e : Issue) (uni : W64) : Env :=
  { act := e.act, mode := e.mode, v := e.g.readV, p := e.g.readP, xs := e.g.xsOf, uni := uni }

/-- The environment of a captured instruction that runs in the lanes of a mask. -/
def Entry.env (e : Entry) (m : Mask) : Env :=
  { act := m, mode := e.mode, v := e.readV, p := e.readP, xs := fun _ => {}, uni := 0 }

/-- The outcomes of the active lanes, under their lane numbers. -/
def outcomes (k : Kernel) (env : Env) : Store Out := (lanesOf env.act).map fun l => (l, k env l)

/-- The flags that the lanes of a mask raise together. -/
def flagsOf (os : Store Out) (m : Mask) : Flags := os.foldl (fun f o => if has m o.1 then orF f o.2.flags else f) 0

/-- The lanes that raise an enabled flag (R56). -/
def raisingLanes (os : Store Out) (fpctl : W32) : Mask :=
  maskOf fun l => decide (Nat.land (get {} os l).flags (bits fpctl.toNat 0 5) ≠ 0)

/-- Some lane saturated. -/
def satOf (os : Store Out) : Bool := os.any fun o => o.2.sat

/-- ORs raised flags and saturation into the sticky flags (01 R37). -/
def Sys.raise (x : Sys) (f : Flags) (sat : Bool) : Sys :=
  { x with fpflags := x.fpflags ||| w32 (f % 32), gflags := if sat then x.gflags ||| 4#32 else x.gflags }

def State.raise (s : State) (gk : Nat) (f : Flags) (sat : Bool) : State :=
  let g := s.gang gk
  s.setGang gk { g with sys := g.sys.raise f sat }

/-- sys.taux of a floating-point trap (R56). -/
def fpAux (os : Store Out) (raising act : Mask) (fpctl : W32) : W64 :=
  w64 (Nat.land (flagsOf os raising) (bits fpctl.toNat 0 5) + flagsOf os act * 2 ^ 8)

/-- The operand that an instruction writes. -/
def destOf (i : Instr) : Option Opnd := (desc i).ops.find? (·.writes)

/-- Writes the results of the lanes of a mask to the destination of the instruction. -/
def State.writeOuts (s : State) (e : Issue) (i : Instr) (m : Mask) (os : Store Out) : State :=
  match destOf i with
  | none => s
  | some o =>
    let n := s.cur.num o
    if o.kind = .pred then
      s.setGang e.gk (((s.gang e.gk).writePreds m n fun l => (get {} os l).p).laterWriter m (64 + n))
    else s.writeResult e i m n (decide ((s.opNames e o).length = 2)) fun l => (get {} os l).val

/-- Advances the random state of the lanes of a mask by what each consumed (01 R32). -/
def Gang.drawLanes (g : Gang) (m : Mask) (os : Store Out) : Gang :=
  (lanesOf m).foldl (fun g l =>
    let n := (get {} os l).draws
    if n = 0 then g else g.setXs l ((g.xsOf l).steps n)) g

/-- The end of a computing instruction: completing lanes write, flags stick, and raising lanes take the trap (R56). -/
def State.finish (s : State) (e : Issue) (i : Instr) (os : Store Out) : State :=
  let raising := raisingLanes os e.g.sys.fpctl
  let done := e.act &&& ~~~raising
  let s := s.writeOuts e i done os
  let s := s.setGang e.gk ((s.gang e.gk).drawLanes done os)
  let s := s.raise e.gk (flagsOf os e.act) (satOf os)
  if raising = 0 then s.advance e.gk e.ss
  else s.trap e.gk e.ss { code := cFp, aux := fpAux os raising e.act e.g.sys.fpctl, tmask := raising, tdone := done, tpc := e.pc }

/-- What any core instruction answers: the issue checks, then its own effect. -/
def issue (i : Instr) (effect : Issue → State → State) (s : State) : Host.Outcome State Fault Refusal :=
  match s.front i with
  | .none => .fault .noIssuer
  | .done t => .next t
  | .go e => .next (effect e s)

/-- A computing instruction of class C: captured where a source is pending, else computed in every active lane. -/
def compute (i : Instr) (k : Kernel) : State → Host.Outcome State Fault Refusal :=
  issue i fun e s =>
    if e.cap then s.captureResidual e i else s.finish e i (outcomes k (e.env 0))

/-! ### Element by element -/

/-- The stochastic word of the `i`-th element that a lane rounds: the low half of its `i+1`-th step (R53). -/
def Env.draw (env : Env) (l i : Nat) : Nat := (((env.xs l).steps i).step.2.toNat) % 2 ^ 32

/-- Applies a function to `n` elements of the result type and packs what it gives. -/
def mapElems (env : Env) (l t n : Nat) (rounds : Bool) (f : (i u : Nat) → Nat × Flags × Bool) : Out :=
  let rsr := rounds && mRnd env.mode == 5
  let es := (List.range n).map fun i => f i (if rsr then env.draw l i else 0)
  { val := w64 (pack t (es.map (·.1))), flags := es.foldl (fun a x => orF a x.2.1) 0, sat := es.any (·.2.2)
    draws := if rsr then n else 0 }

/-- A value operand: the word, or the pair of a 64-bit type. -/
def Env.value (env : Env) (t l n : Nat) : Nat :=
  if is64 t then (join64 (env.v l n) (env.v l (n + 1))).toNat else (env.v l n).toNat

end Sys2Proof.Machine
end

