-- ==== Sys2Proof/Machine/Windows.lean ====
section
/-! DEFINITION. Catalogue windows and the start of a stream context: the touching of an on-touch window and the fill that
it starts (11 R246, R247, R252, R253). -/

namespace Sys2Proof.Machine

/-- Where local offset `o` of a group's scratchpad or of its core's operand buffer stands. -/
def State.localFlat (s : State) (grp o : Nat) : Nat :=
  if o ≥ 0x180000 then bufBase (s.group grp).core + (o - 0x180000) else spadBase grp + o

/-- The first byte of window `i` of an entry (R246). -/
def State.windowFlat (s : State) (grp : Nat) (c : CatEntry) (i : Nat) : Nat :=
  s.localFlat grp (c.rbase + i * (c.wsize * 512))

def Group.entry (g : Group) (e : Nat) : CatEntry := get {} g.cat e
def State.setEntry (s : State) (grp e : Nat) (c : CatEntry) : State :=
  let g := s.group grp
  s.setGroup grp { g with cat := put g.cat e c }

def CatEntry.win (c : CatEntry) (i : Nat) : WState := get .absent c.wstate i
def CatEntry.setWin (c : CatEntry) (i : Nat) (w : WState) : CatEntry := { c with wstate := set .absent c.wstate i w }

/-- The on-touch windows of the group that `n` bytes from a place reach: entry and window (R252). -/
def State.touched (s : State) (grp flat n : Nat) : List (Nat × Nat) :=
  (s.group grp).cat.flatMap fun (e, c) =>
    if c.valid ∧ c.touch then
      (those c.cnt fun i =>
        let b := s.windowFlat grp c i
        decide (flat < b + c.wsize * 512) && decide (b < flat + n)).map fun i => (e, i)
    else []

/-- The stream contexts that a core's die could start for a partition (R255; 16 R365): none where the partition's share
is used up. -/
def State.freeHandles (s : State) (core p : Nat) : List Nat :=
  let die := core / 64
  let mine := s.streams.filter fun (h, c) => h / 512 == die && (s.group c.group).part == p
  if mine.length ≥ (s.part p).sshare then []
  else ((List.range 512).map (512 * die + ·)).filter fun h => (find s.streams h).isNone

/-- The descriptor slots of a context, from the group's td slots (R255). -/
def Group.boxes (g : Group) (tdmap : List Nat) : Store StreamBox :=
  (List.range 4).foldl (fun m j =>
    match find g.td (nth tdmap j) with
    | some d => put m j { desc := d, origin := [0, 0, 0, 0, 0, 0], extent := [1, 1, 1, 1, 1, 1] }
    | none => m) []

/-- Starts a context on entry `e` with e registers as given. -/
def State.startStream (s : State) (h grp gk e : Nat) (touch : Option Nat) (fillNo : Nat) (regs : Store W64) : State :=
  let g := s.group grp
  let c := g.entry e
  let r : StreamRegs := { e := regs, sd := g.boxes c.tdmap, pc := c.prog }
  s.setStream h { group := grp, gang := gk, entry := e, touch := touch, fillNo := fillNo, regs := r, check := r }

/-- A fill of window `i` begins for a gang where a context is free; otherwise it waits for one (R253). -/
def State.startFill (s : State) (grp gk e i : Nat) : State :=
  let g := s.group grp
  let c := g.entry e
  match s.pick (s.freeHandles g.core g.part) with
  | (none, s) => s.setEntry grp e { c with wants := put c.wants i gk }
  | (some h, s) =>
    let s := s.setEntry grp e { c with next := (c.next + 1) % 2 ^ 32, wfill := put c.wfill i c.next, wants := del c.wants i }
    s.startStream h grp gk e (some i) c.next (put (put [] 0 (w64 i)) 1 (w64 c.next))

/-- A core-path access touches window `i` of entry `e` (R252). -/
def State.touch (s : State) (grp gk e i : Nat) : State :=
  let c := (s.group grp).entry e
  match c.win i with
  | .absent =>
    let c := c.setWin i .filling
    (s.setEntry grp e { c with wfill := del c.wfill i }).startFill grp gk e i
  | .filling => if (find c.wfill i).isNone then s.startFill grp (get gk c.wants i) e i else s
  | _ => s

/-- The fills that wait for a context begin, as far as contexts are free (R253). -/
def State.startFills (s : State) : State :=
  s.groups.foldl (fun s p =>
    if (s.ctx p.2.ctx).state ≠ .resident then s
    else p.2.cat.foldl (fun s q => q.2.wants.foldl (fun s w => s.startFill p.1 w.2 q.1 w.1) s) s) s

/-- The faulted phase that a faulted window raises (R244, R252). -/
def windowFlt (c : CatEntry) (e i sa : Nat) : Flt :=
  { code := cPhase, va := sa, aux := w64 (c.fcode % 256 + e * 2 ^ 8 + get 0 c.wfill i % 2 ^ 32 * 2 ^ 32) }

/-- What the windows that an access reaches do to it: nothing, make it wait, or fault it. -/
inductive Win where
  | free | wait | bad (f : Flt)
  deriving DecidableEq, Repr

/-- The verdict of the windows on `n` bytes at a place, reached by scratchpad address `sa`. -/
def State.winAt (s : State) (grp flat n sa : Nat) : Win :=
  let g := s.group grp
  (s.touched grp flat n).foldl (fun w (e, i) =>
    match w, (g.entry e).win i with
    | .bad f, _ => .bad f
    | _, .faulted => .bad (windowFlt (g.entry e) e i sa)
    | .wait, _ => .wait
    | .free, .present => .free
    | .free, _ => .wait) .free

/-- Every window that the bytes at some places reach is touched. -/
def State.touchAll (s : State) (grp gk : Nat) (fs : List (Nat × Nat)) : State :=
  fs.foldl (fun s (flat, n) => (s.touched grp flat n).foldl (fun s (e, i) => s.touch grp gk e i) s) s

end Sys2Proof.Machine
end

