-- ==== Sys2Proof/Machine/Memory.lean ====
section
/-! DEFINITION. The memory family (chapter 07): loads, stores, the store queue, acquire and release, atomics and
reductions, prefetch and fences; and the event that retires a store-queue entry. -/

namespace Sys2Proof.Machine

open Host (Outcome)

/-! ### Access shapes (R150 to R152, R157, R166) -/

/-- The address space, bytes and alignment of an access, the registers that hold the data, those that form the address,
whether a narrow load extends the sign, and the address of a lane from its registers. -/
structure Access where
  spad : Bool := false
  size : Nat
  align : Nat
  regs : List Nat
  aregs : List Nat
  sext : Bool := false
  addr : (Nat → W32) → Nat

/-- pair a plus an offset, modulo 2^64 (R150). -/
def pairPlus (a : Nat) (off : Int) (v : Nat → W32) : Nat := wrap 64 ((join64 (v a) (v (a + 1))).toNat + off)

/-- A global access at pair a plus an immediate. -/
def gAccess (size align : Nat) (regs : List Nat) (a : Nat) (off : Int) : Access :=
  { size := size, align := align, regs := regs, aregs := [a, a + 1], addr := pairPlus a off }

/-- A global access at pair a plus register b, sign-extended (R158). -/
def xAccess (size : Nat) (sext : Bool) (regs : List Nat) (a b : Nat) : Access :=
  { size := size, align := size, regs := regs, aregs := [a, a + 1, b], sext := sext
    addr := fun v => pairPlus a (v b).toInt v }

/-- A scratchpad access at register a plus an immediate, modulo 2^32 (R151). -/
def sAccess (size : Nat) (regs : List Nat) (a : Nat) (off : Int) : Access :=
  { spad := true, size := size, align := size, regs := regs, aregs := [a], addr := fun v => wrap 32 ((v a).toNat + off) }

/-- The registers of a value field, and its bytes (R157). -/
def valRegs (m : W32) (d : Nat) : List Nat := if is64 (mType m) then [d, d + 1] else [d]
def valSize (m : W32) : Nat := if is64 (mType m) then 8 else 4

/-- An access at the address of an atomic of a scope: scratchpad at .blk and .cns, global at .dev and .sys (R166). -/
def aAccess (s : BitVec 2) (m : W32) (regs : List Nat) (a : Nat) : Access :=
  if s.toNat ≥ 2 then gAccess (valSize m) (valSize m) regs a 0 else sAccess (valSize m) regs a 0

/-- The access that a load, store, atomic or reduction makes; for a reduction `regs` are its operand's. -/
def accessOf (m : W32) : Instr → Option Access
  | .ld d a i | .st d a i => some (gAccess (valSize m) (valSize m) (valRegs m d.toNat) a.toNat i.toInt)
  | .ld2 d a i | .st2 d a i => some (gAccess 8 8 [d.toNat, d.toNat + 1] a.toNat i.toInt)
  | .ld4 d a i | .st4 d a i =>
    some (gAccess 16 16 [d.toNat, d.toNat + 1, d.toNat + 2, d.toNat + 3] a.toNat i.toInt)
  | .lds d a i | .sts d a i => some (sAccess (valSize m) (valRegs m d.toNat) a.toNat i.toInt)
  | .ldxZb d a b | .stxB d a b => some (xAccess 1 false [d.toNat] a.toNat b.toNat)
  | .ldxSb d a b => some (xAccess 1 true [d.toNat] a.toNat b.toNat)
  | .ldxZh d a b | .stxH d a b => some (xAccess 2 false [d.toNat] a.toNat b.toNat)
  | .ldxSh d a b => some (xAccess 2 true [d.toNat] a.toNat b.toNat)
  | .ldxW d a b | .stxW d a b => some (xAccess 4 false [d.toNat] a.toNat b.toNat)
  | .ldxD d a b | .stxD d a b => some (xAccess 8 false [d.toNat, d.toNat + 1] a.toNat b.toNat)
  | .lda _ d a | .stl _ d a => some (gAccess (valSize m) (valSize m) (valRegs m d.toNat) a.toNat 0)
  | .redAdd s a b | .redMin s a b | .redMax s a b | .redAnd s a b | .redOr s a b | .redXor s a b =>
    some (aAccess s m (valRegs m b.toNat) a.toNat)
  | .aadd s d a _ | .amin s d a _ | .amax s d a _ | .aand s d a _ | .aor s d a _ | .axor s d a _ | .axch s d a _
  | .ainc s d a _ | .cas s d a _ _ => some (aAccess s m (valRegs m d.toNat) a.toNat)
  | .tst _ _ _ => some (xAccess 1 false [0] 2 4)
  | _ => none

/-- A store whose effect on a byte depends on the byte: a reduction, or a TST of nibbles, whose entry keeps its own name. -/
def isRmw : Instr → Bool
  | .redAdd _ _ _ | .redMin _ _ _ | .redMax _ _ _ | .redAnd _ _ _ | .redOr _ _ _ | .redXor _ _ _ | .tst _ _ _ => true
  | _ => false

/-- The scope of a release, an atomic or a reduction: 0 .blk to 3 .sys (R153, R164). -/
def scopeOf : Instr → Option Nat
  | .stl s _ _ | .redAdd s _ _ | .redMin s _ _ | .redMax s _ _ | .redAnd s _ _ | .redOr s _ _ | .redXor s _ _
  | .aadd s _ _ _ | .amin s _ _ _ | .amax s _ _ _ | .aand s _ _ _ | .aor s _ _ _ | .axor s _ _ _ | .axch s _ _ _
  | .ainc s _ _ _ | .cas s _ _ _ _ => some s.toNat
  | _ => none

/-- The scope of a release store, before which the gang's older stores are visible there (R164). -/
def releaseScope : Instr → Nat
  | .stl s _ _ => s.toNat
  | _ => 0

/-- The operation number of a reduction (R153). -/
def redOp : Instr → Option Nat
  | .redAdd _ _ _ => some 0
  | .redMin _ _ _ => some 1
  | .redMax _ _ _ => some 2
  | .redAnd _ _ _ => some 3
  | .redOr _ _ _ => some 4
  | .redXor _ _ _ => some 5
  | _ => none

/-- The words that the loaded bytes put into the data registers (R158). -/
def Access.words (x : Access) (bs : List Byte) : List W32 :=
  let v := fromBytes bs
  if x.size < 4 then [w32 (if x.sext then wrap 32 (signed (8 * x.size) v) else v)]
  else (List.range (x.size / 4)).map fun k => w32 (v / 2 ^ (32 * k))

/-- The bytes that the data registers hold (R158). -/
def Access.data (x : Access) (v : Nat → W32) : List Byte := (x.regs.flatMap fun r => toBytes 4 (v r).toNat).take x.size

/-! ### The checks of R154, in order -/

/-- Where an access at an address goes, or the first check that it fails. `kind` is 0 read, 1 write, 3 atomic; `pcie` tells
whether host memory supports the operation (R168). -/
def State.laneAt (s : State) (gk : Nat) (x : Access) (kind : Nat) (pcie : Bool) (ad : Nat) : Except Flt Nat :=
  let g := s.gang gk
  if ad % x.align ≠ 0 then .error (alignFlt ad)
  else if x.spad then
    match s.scratch g.group ad with
    | .at_ f _ _ => .ok f
    | .bad r => .error (scratchFlt ad r)
  else
    match s.xlate g.core (s.ctxOf g) ad x.size (kind != 0) with
    | .ok pa _ => if isHost pa ∧ ¬ pcie then .error { code := cAccess, aux := memAux 6 ad, va := ad, kind := kind } else .ok pa
    | r => .error ((xlFlt ad kind r).getD {})

/-- The addresses of the lanes. -/
def Access.lanes (x : Access) (m : Mask) (v : Nat → Nat → W32) : List (Nat × Nat) := (lanesOf m).map fun l => (l, x.addr (v l))

/-- Translations that the access makes are held (18 R375). -/
def State.warm (s : State) (gk : Nat) (x : Access) (ads : List (Nat × Nat)) : State :=
  if x.spad then s
  else
    let g := s.gang gk
    ads.foldl (fun s p => if p.2 < 2 ^ 56 then s.fillTlb g.core (s.ctxOf g) p.2 else s) s

/-- The lanes with a place and those with a fault, each ascending. -/
def State.laneAll (s : State) (gk : Nat) (x : Access) (kind : Nat) (pcie : Bool) (ads : List (Nat × Nat)) :
    Store Nat × Store Flt :=
  let rs := ads.map fun p => (p.1, s.laneAt gk x kind pcie p.2)
  (rs.filterMap fun p => match p.2 with | .ok f => some (p.1, f) | .error _ => none,
   rs.filterMap fun p => match p.2 with | .ok _ => none | .error e => some (p.1, e))

/-- The windows' verdicts on placed lanes of a scratchpad access: the lanes that fault, and whether some lane waits. -/
def State.winAll (s : State) (gk : Nat) (x : Access) (ads : List (Nat × Nat)) (ok : Store Nat) : Store Flt × Bool :=
  if ¬ x.spad then ([], false)
  else
    let grp := (s.gang gk).group
    let vs := ok.map fun p => (p.1, s.winAt grp p.2 x.size (get 0 ads p.1))
    (vs.filterMap fun p => match p.2 with | .bad f => some (p.1, f) | _ => none, vs.any fun p => p.2 == .wait)

/-- The mask of a map's keys. -/
def keyMask {α : Type} (m : Store α) : Mask := maskOf fun l => (find m l).isSome

/-- Two lane maps as one. -/
def merge {α : Type} (a b : Store α) : Store α := b.foldl (fun m p => put m p.1 p.2) a

/-! ### The store queue as loads see it (R162, R163) -/

/-- A waiting entry waits on one of the registers. Log entry 48, DEDUCED. -/
def Entry.waitsOn (e : Entry) (rs : List Nat) : Bool := e.waits.any fun w => rs.contains (valName w.1)

/-- The lanes that a settled entry performs: its guard is applied once delivered (10 R227). -/
def Entry.active (e : Entry) : Mask :=
  if e.guardPend then
    e.lanes &&& maskOf fun l => e.readP l (mGuard e.mode) != mNeg e.mode
  else e.lanes

/-- The places that a settled address of an entry reaches. -/
def State.entryPlaces (s : State) (gk : Nat) (e : Entry) (x : Access) : Store Nat :=
  (s.laneAll gk x (if (redOp e.instr).isSome then 3 else 1) true (x.lanes e.lanes e.readV)).1

/-- A load of the gang that was captured has still to run, and is older than an entry: no load takes bytes of the entry before it,
since the loads stand in the order in which they are performed, and the entry after the older one (14 R323). -/
def Gang.capturedLoad (g : Gang) (id : Nat) : Bool := g.work.residuals.any fun e => (desc e.instr).cnt == 1 && decide (e.id < id)

/-- The entry makes a load of `n` bytes at some places wait (R163): its address is pending in the load's space, or it
writes a byte of the load's with pending data, as a reduction, or behind an older captured load (14 R323; log entry 100,
DEDUCED). -/
def State.blocks (s : State) (gk : Nat) (q : SqEntry) (spad : Bool) (n : Nat) (flats : Store Nat) : Bool :=
  match accessOf q.entry.mode q.entry.instr with
  | none => false
  | some x =>
    if x.spad != spad then false
    else if q.entry.waitsOn x.aregs then true
    else if q.entry.waits.isEmpty ∧ ¬ isRmw q.entry.instr ∧ ¬ (s.gang gk).capturedLoad q.entry.id then false
    else (s.entryPlaces gk q.entry x).any fun p => flats.any fun f => overlaps f.2 n p.2 x.size

/-- The entries older than `before` that make a load wait, each with the number of registers that it still waits on (R163). -/
def State.blockers (s : State) (gk before : Nat) (x : Access) (flats : Store Nat) : List (Nat × Nat) :=
  ((s.gang gk).work.stores.filter fun q => decide (q.entry.id < before) && s.blocks gk q x.spad x.size flats).map fun q =>
    (q.entry.id, q.entry.waits.length)

/-- A store-queue entry of the gang may write a byte of some ranges: what an instruction reads or writes at issue comes after
it (14 R315, R321). Log entry 17, DEDUCED. -/
def State.olderStore (s : State) (gk : Nat) (spad : Bool) (rs : List (Nat × Nat)) : Bool :=
  (s.gang gk).work.stores.any fun q => match accessOf q.entry.mode q.entry.instr with
    | none => false
    | some x => x.spad == spad && (q.entry.waitsOn x.aregs
        || (s.entryPlaces gk q.entry x).any fun p => rs.any fun r => overlaps p.2 x.size r.1 r.2)

/-- The bytes that older settled stores of the queue write, oldest first. -/
def State.queued (s : State) (gk before : Nat) : List (Nat × List Byte) :=
  (s.gang gk).work.stores.flatMap fun q =>
    match accessOf q.entry.mode q.entry.instr with
    | none => []
    | some x =>
      if q.entry.id ≥ before ∨ ¬ q.entry.waits.isEmpty ∨ isRmw q.entry.instr then []
      else
        let e := { q.entry with lanes := q.entry.active }
        (s.entryPlaces gk e x).map fun p => (p.2, x.data (e.readV p.1))

/-- The byte of the youngest older store, if any. -/
def forwarded (ws : List (Nat × List Byte)) (a : Nat) : Option Byte :=
  ws.reverse.findSome? fun w => if w.1 ≤ a then w.2[a - w.1]? else none

/-! ### Reading -/

/-- A line of the core's load cache (R160), as a gang uses it that reads none filled before `since`. -/
def State.cached (s : State) (core since a : Nat) : Option Byte :=
  match find (s.core core).cache (a / 128) with
  | some ln => if since ≤ ln.stamp then ln.bytes[a % 128]? else none
  | none => none

/-- A byte as a load of the gang finds it behind its store queue: in the load cache or in memory; none where it is poisoned. -/
def State.sight (s : State) (gk : Nat) (cache : Bool) (a : Nat) : Option Byte :=
  let g := s.gang gk
  match (if cache then s.cached g.core g.since a else none) with
  | some b => some b
  | none => if s.poisoned a 1 || s.unreachable a then none else some (s.coreByte gk a)

/-- The bytes that a load gets at a place: of the store queue, then as `sight` finds them; none where it meets poison (R154, R160,
R163). -/
def loadBytes (sight : Nat → Option Byte) (ws : List (Nat × List Byte)) (a n : Nat) : Option (List Byte) :=
  (List.range n).foldr (fun j r =>
    match r with
    | none => none
    | some bs => ((forwarded ws (a + j)).or (sight (a + j))).map fun b => b :: bs) (some [])

/-! ### Open loads (14 R321) -/

/-- The loads older than `before` that have still to read, with their lanes. -/
def Gang.openLoads (g : Gang) (before : Nat) : List (Nat × Mask) :=
  let w := g.work
  let es := w.residuals ++ w.flight.filterMap (·.entry) ++ w.posted.filterMap (·.entry)
    ++ (w.faulted.map fun f => f.1).toList ++ (g.page.bind (·.entry)).toList
  (es.filter fun e => (desc e.instr).cnt == 1 && decide (e.id < before)).map fun e => (e.id, e.lanes)

/-- What an access of a younger instruction found, for the open loads that may turn out to read it too: what they read there is
no newer (14 R321). Log entry 87, DEDUCED. -/
def State.remember (s : State) (gk before : Nat) (cache : Bool) (n : Nat) (ok : Store Nat) : State :=
  let os := (s.gang gk).openLoads before
  if os.isEmpty then s
  else
    let seen (a : Nat) : List Byte := (List.range 16).map fun i => (s.sight gk cache (a / 16 * 16 + i)).getD 0
    let fresh_ : List Past := os.flatMap fun o => ok.filterMap fun p =>
      if has o.2 p.1 then some { id := o.1, lane := p.1, at_ := p.2, n := n, block := seen p.2 } else none
    let all := ((s.gang gk).openLoads (s.gang gk).work.nextId).map Prod.fst
    s.mapGang gk fun g => { g with work := { g.work with past := (g.work.past.filter fun p => all.contains p.id) ++ fresh_ } }

/-- The older bytes that the load `id` reads in a lane where a younger access shared a byte with it: the first such access's. -/
def Gang.pastAt (g : Gang) (id lane a n : Nat) : Option Past :=
  g.work.past.find? fun p => p.id == id && p.lane == lane && overlaps a n p.at_ p.n

/-- A store of the gang, older than the loads that remember its place, has been performed. -/
def State.notePast (s : State) (gk id a n : Nat) : State :=
  if (s.gang gk).work.past.isEmpty then s
  else
    let put_ (p : Past) : Past := if p.id ≤ id then p else
      { p with block := p.block.mapIdx fun i b =>
          let x := p.at_ / 16 * 16 + i
          if a ≤ x ∧ x < a + n then s.byte x else b }
    s.mapGang gk fun g => { g with work := { g.work with past := g.work.past.map put_ } }

/-- The lines that the load cache holds at most: 128 KiB of 128 bytes (R160). -/
def cacheLines : Nat := 1024

/-- A full cache gives up some line, which the manual leaves open (R160). -/
def State.roomForLine (s : State) (core : Nat) : State :=
  let c := s.core core
  if c.cache.length < cacheLines then s
  else
    let (v, s) := s.pick (c.cache.map Prod.fst)
    s.setCore core { c with cache := del c.cache (v.getD 0) }

/-- The line that holds a byte is filled for a gang, where no word of it is poisoned (R160). Log entry 47, DEDUCED. -/
def State.fillLine (s : State) (gk a : Nat) : State :=
  let line := a / 128
  let g := s.gang gk
  if (s.cached g.core g.since a).isSome ∨ s.poisoned (128 * line) 128 then s
  else
    let s := if (find (s.core g.core).cache line).isSome then s else s.roomForLine g.core
    let c := s.core g.core
    let ln : Line := { stamp := c.fills + 1, bytes := s.coreBytes gk (128 * line) 128 }
    s.setCore g.core { c with cache := put c.cache line ln, fills := c.fills + 1 }

/-- The lines that hold a byte of a range leave the cache. -/
def State.dropLines (s : State) (core a n : Nat) : State :=
  let c := s.core core
  s.setCore core { c with cache := c.cache.filter fun p => !overlaps a n (128 * p.1) 128 }

/-- An acquire empties the load cache (R160). -/
def State.emptyCache (s : State) (core : Nat) : State :=
  let c := s.core core
  s.setCore core { c with cache := [] }

/-- A store writes through to a held line (R160). -/
def State.updateLines (s : State) (core a : Nat) (bs : List Byte) : State :=
  let c := s.core core
  s.setCore core { c with
    cache := mapVals (fun line (ln : Line) =>
      { ln with bytes := ln.bytes.mapIdx fun i b => if a ≤ 128 * line + i then (bs[128 * line + i - a]?).getD b else b }) c.cache }

/-- A lane reaches host memory while the partition's link is down: the access waits (19 R399). -/
def State.hostWait (s : State) (gk : Nat) (ok : Store Nat) : Bool :=
  !(s.part (s.partOf (s.gang gk))).linked && ok.any fun p => isHost p.2

/-- The on-touch windows that placed lanes of an access wait for (R159; 11 R252). -/
def State.winWaits (s : State) (grp n : Nat) (ok : Store Nat) : List (Nat × Nat) :=
  (ok.flatMap fun p => s.touched grp p.2 n).eraseDups.filter fun w =>
    match ((s.group grp).entry w.1).win w.2 with
    | .present | .faulted => false
    | _ => true

/-- A store-queue entry that an LDA or STL of the gang has ordered before a load with number `before`, or from which an earlier
load took bytes, has not been performed (14 R323). An entry that has faulted is performed by its re-execution, which is
younger. -/
def Gang.owesStores (g : Gang) (before : Nat) : Bool :=
  g.work.stores.any fun q => decide (q.entry.id < min g.work.ordered before) && q.fault.isNone

/-- An older load of the gang that was not captured has still to read: later ones come after it (14 R323). -/
def Gang.unread (g : Gang) (before : Nat) : Bool :=
  g.work.flight.any fun d => d.loads && d.entry.isSome && decide (d.id < before)

/-- Loads that follow one which took bytes of a queued store come after the store (14 R323). Log entry 100, DEDUCED. -/
def State.noteForward (s : State) (gk before n : Nat) (ok : Store Nat) : State :=
  let from_ := (s.gang gk).work.stores.filter fun q => match accessOf q.entry.mode q.entry.instr with
    | none => false
    | some x => decide (q.entry.id < before) && q.entry.waits.isEmpty
        && (s.entryPlaces gk { q.entry with lanes := q.entry.active } x).any fun p => ok.any fun f => overlaps f.2 n p.2 x.size
  if from_.isEmpty then s
  else s.mapGang gk fun g => { g with work := { g.work with ordered := from_.foldl (fun m q => max m (q.entry.id + 1)) g.work.ordered } }

/-- What a load met: older entries, the host link, requests to other chips or windows that it waits for, or values and faults by lane. -/
inductive LoadRes where
  | blocked (qs : List (Nat × Nat))
  | ordered
  | link
  | asked (s : State) (fs : List (Nat × Nat))
  | waits (s : State) (ws : List (Nat × Nat))
  | ran (s : State) (vals : Store (List W32)) (bad : Store Flt)
  deriving DecidableEq, Repr

/-- How a gang's access that may reach other chips goes on (19 R407). -/
def State.coreAsks (s : State) (gk cls n : Nat) (fs : List (Nat × Nat)) (ok : Store Nat) : Asked :=
  s.asking (s.partOf (s.gang gk)) (s.worldOf (s.ctxOf (s.gang gk))) cls n fs (ok.map (·.2))

/-- Meters a gang's access, where it is one to global memory. -/
def State.meterAccess (s : State) (gk : Nat) (x : Access) (ok : Store Nat) : State :=
  if x.spad then s else s.meterLanes (s.partOf (s.gang gk)) (corePort (s.gang gk).core) x.size ok

/-- A load in the lanes of a mask, older than the store-queue entries from `before` on, whose requests to other chips are `fs`. -/
def State.loadRun (s : State) (gk before : Nat) (x : Access) (cache : Bool) (fs : List (Nat × Nat)) (m : Mask) (v : Nat → Nat → W32) : LoadRes :=
  let g := s.gang gk
  let ads := x.lanes m v
  let s := s.warm gk x ads
  let (ok, bad) := s.laneAll gk x 0 true ads
  let qs := s.blockers gk before x ok
  if ¬ qs.isEmpty then .blocked qs
  else if g.owesStores before then .ordered
  else if s.hostWait gk ok then .link
  else match s.coreAsks gk 0 x.size fs ok with
  | .wait s fs => .asked s fs
  | .go =>
    let (wbad, wait) := s.winAll gk x ads ok
    if wait then .waits (s.touchAll g.group gk (ok.map fun p => (p.2, x.size))) (s.winWaits g.group x.size ok)
    else
      let ws := s.queued gk before
      let ok := ok.filter fun p => (find wbad p.1).isNone
      let s := ((s.readNear gk (ok.map fun p => (p.2, x.size))).noteForward gk before x.size ok).remember gk before cache x.size ok
      let view (l a : Nat) (b : Nat) : Option Byte := match g.pastAt before l a x.size with
        | some p => p.block[b - p.at_ / 16 * 16]?
        | none => s.sight gk cache b
      let rs := ok.map fun p => (p.1, p.2, loadBytes (view p.1 p.2) ws p.2 x.size)
      let vals := rs.filterMap fun p => p.2.2.map fun bs => (p.1, x.words bs)
      let pois : Store Flt := rs.filterMap fun p =>
        if p.2.2.isNone then
          let ad := get 0 ads p.1
          some (p.1, { code := cPoison, aux := memAux 0 ad, va := ad, page := p.2.1 })
        else none
      let s := if cache then rs.foldl (fun s p => if p.2.2.isSome then s.fillLine gk p.2.1 else s) s else s
      .ran (s.meterAccess gk x ok) vals (merge (merge bad wbad) pois)

/-! ### Delivering and failing -/

/-- Writes each lane's words to the registers, as their later writer. -/
def Gang.writeWords (g : Gang) (regs : List Nat) (vals : Store (List W32)) : Gang :=
  (((regs.zipIdx).foldl (fun g (r, k) => g.writeLanes (keyMask vals) r fun l => (get [] vals l)[k]?.getD 0) g)).laterWriters (keyMask vals) regs

/-- The values under `128 · lane + name`. -/
def flightVals (regs : List Nat) (vals : Store (List W32)) : Store W32 :=
  vals.foldl (fun m p => (regs.zipIdx).foldl (fun m (r, k) => put m (128 * p.1 + r) (p.2[k]?.getD 0)) m) []

/-- The records of poison consumed. -/
def State.logPoison (s : State) (gk : Nat) (bad : Store Flt) : State :=
  bad.foldl (fun s p => if p.2.code = cPoison then s.logAnywhere 3 gk p.2.page 0 else s) s

/-- The instruction fails in some lanes: the lowest one's cause (R154). -/
def State.failLanes (s : State) (e : Issue) (bad : Store Flt) (done : Mask) (store : Option Nat) : State :=
  (s.logPoison e.gk bad).fail e.gk e.ss ((vals bad).headD {}) (keyMask bad) done e.pc store

/-- The first place of an access to global memory in the lanes of a cohort. -/
def State.firstPlace (s : State) (e : Issue) (x : Access) : Option Nat :=
  if x.spad then none else (s.laneAll e.gk x 0 true (x.lanes e.act e.g.readV)).1.head?.map (·.2)

/-- The end of a load or atomic that ran at issue: values at once, or in flight to a pending destination from the place `from_`;
failing lanes make the instruction trap with the others complete. -/
def State.deliverIssue (s : State) (e : Issue) (regs : List Nat) (acq : Bool) (out : Store (List W32)) (bad : Store Flt)
    (atom : Option Entry) (from_ : Option Nat) : State :=
  let g := s.gang e.gk
  if ¬ bad.isEmpty then (s.setGang e.gk (g.writeWords regs out)).failLanes e bad (keyMask out) none
  else if e.late then
    let (g, dest) := g.makeAllPending regs e.act
    let (s, cross) : State × Option (Nat × Nat) := match from_ with
      | some a => ((s.crossSend e.g.core a).1, some (s.crossSend e.g.core a).2)
      | none => (s, none)
    let d : Deliv :=
      { id := g.work.nextId, regs := dest, lanes := e.act, vals := flightVals regs out, loads := true, acq := acq, at_ := s.clock
        cross := cross, atom := atom.map fun (a : Entry) => { a with dest := dest } }
    let g := { g.nextEntry with counts := { g.counts with loads := g.counts.loads + 1 } }
    (s.setGang e.gk { g with work := { g.work with flight := g.work.flight ++ [d] } }).advance e.gk e.ss
  else (s.setGang e.gk (g.writeWords regs out)).advance e.gk e.ss

/-- A load that has still to read makes its destination pending and is tried again when its delivery is due. -/
def State.deliverLate (s : State) (e : Issue) (ent : Entry) (regs : List Nat) : State :=
  let (g, dest) := (s.gang e.gk).makeAllPending regs e.act
  let ent := { ent with dest := dest }
  let d : Deliv := { id := ent.id, regs := dest, lanes := e.act, loads := true, entry := some ent }
  let g := { g.nextEntry with counts := { g.counts with loads := g.counts.loads + 1 } }
  (s.setGang e.gk { g with work := { g.work with flight := g.work.flight ++ [d] } }).advance e.gk e.ss

/-- The requests to other chips that the cohort's instruction has sent and whose answers it waits for. -/
def Issue.flits (e : Issue) : List (Nat × Nat) :=
  match (e.g.slice (e.ss.headD 0)).stall with
  | some (.flits fs) => fs
  | _ => []

/-- Stores older than an LDA or STL are performed before the gang's later loads (14 R323). -/
def State.orderStores (s : State) (gk : Nat) : State :=
  s.mapGang gk fun g => { g with work := { g.work with ordered := g.work.nextId } }

/-- The partition has crossbar balance for a global access (16 R365). -/
def State.crossbarOk (s : State) (gk : Nat) (x : Access) : Bool := x.spad || s.mayStart (s.partOf (s.gang gk)) 4

/-- A load at issue (R158, R163). A window that is not present makes its destination pending under MODE.dfr (R159), and so does an
older load that has still to read (14 R323; log entry 100, DEDUCED). -/
def State.loadIssue (s : State) (e : Issue) (i : Instr) (cache acq : Bool) : State :=
  match accessOf e.mode i with
  | none => s
  | some x =>
    if e.cap then s.captureResidual e i
    else if e.act = 0 then s.advance e.gk e.ss
    else if ¬ s.crossbarOk e.gk x then s.stall e.gk e.ss (.budget 4)
    else if e.g.unread e.g.work.nextId then
      if e.late ∧ ¬ acq then s.deliverLate e (s.entryOf e i) x.regs else s.stall e.gk e.ss (.ordered e.g.work.nextId)
    else
      match s.loadRun e.gk e.g.work.nextId x cache e.flits e.act e.g.readV with
      | .blocked qs =>
        if e.late ∧ ¬ acq then
          match s.captureStop e i with
          | some t => t
          | none => s.captureResidual e i
        else s.stall e.gk e.ss (.blocking qs)
      | .ordered => s.stall e.gk e.ss (.ordered (min e.g.work.ordered e.g.work.nextId))
      | .link => s.stall e.gk e.ss .link
      | .asked s fs =>
        if e.late ∧ ¬ acq then s.deliverLate e { s.entryOf e i with flits := fs } x.regs else s.stall e.gk e.ss (.flits fs)
      | .waits s ws => if e.late then s.deliverLate e (s.entryOf e i) x.regs else s.stall e.gk e.ss (.window ws)
      | .ran t out bad =>
        (if acq ∧ bad.isEmpty then t.orderStores e.gk else t).deliverIssue e x.regs acq out bad none (s.firstPlace e x)

def load (i : Instr) : State → Outcome State Fault Refusal := issue i fun e s => s.loadIssue e i true false

def execLd (d a : BitVec 6) (i : BitVec 12) : State → Outcome State Fault Refusal := load (.ld d a i)
def execLd2 (d a : BitVec 6) (i : BitVec 12) : State → Outcome State Fault Refusal := load (.ld2 d a i)
def execLd4 (d a : BitVec 6) (i : BitVec 12) : State → Outcome State Fault Refusal := load (.ld4 d a i)
def execLdxZb (d a b : BitVec 6) : State → Outcome State Fault Refusal := load (.ldxZb d a b)
def execLdxSb (d a b : BitVec 6) : State → Outcome State Fault Refusal := load (.ldxSb d a b)
def execLdxZh (d a b : BitVec 6) : State → Outcome State Fault Refusal := load (.ldxZh d a b)
def execLdxSh (d a b : BitVec 6) : State → Outcome State Fault Refusal := load (.ldxSh d a b)
def execLdxW (d a b : BitVec 6) : State → Outcome State Fault Refusal := load (.ldxW d a b)
def execLdxD (d a b : BitVec 6) : State → Outcome State Fault Refusal := load (.ldxD d a b)

/-- LDS: the load cache does not serve the scratchpad (R160). -/
def execLds (d a : BitVec 6) (i : BitVec 12) : State → Outcome State Fault Refusal :=
  issue (.lds d a i) fun e s => s.loadIssue e (.lds d a i) false false

/-- LDA: an acquire at .cns or wider empties the load cache first; the lines it reads past are dropped in any case, so
that no later load returns older bytes (R160, R164; 14 R321). -/
def execLda (sc : BitVec 2) (d a : BitVec 6) : State → Outcome State Fault Refusal :=
  issue (.lda sc d a) fun e s =>
    let s := if sc.toNat ≥ 1 then s.emptyCache e.g.core
      else match accessOf e.mode (.lda sc d a) with
        | some x => (s.laneAll e.gk x 0 true (x.lanes e.act e.g.readV)).1.foldl (fun s p => s.dropLines e.g.core p.2 x.size) s
        | none => s
    s.loadIssue e (.lda sc d a) false true

/-! ### Stores (R158, R161, R162) -/

/-- Enters an entry into the store queue; a count rises with it. -/
def State.enqueue (s : State) (gk : Nat) (q : SqEntry) : State :=
  let g := (s.gang gk).nextEntry
  s.setGang gk { g with
    work := { g.work with stores := g.work.stores ++ [q] }, counts := { g.counts with stores := g.counts.stores + 1 } }

/-- A settled store at issue: the lanes of its entry that pass the checks enter the queue; the others, and those that
have failed already, make it trap and stay in the same entry. `fin` lanes complete without a store. -/
def State.storeLanes (s : State) (e : Issue) (ent : Entry) (x : Access) (kind : Nat) (pcie : Bool) (pre : Store Flt) (fin : Mask) :
    State :=
  let ads := x.lanes ent.lanes ent.readV
  let s := s.warm e.gk x ads
  let (ok, bad) := s.laneAll e.gk x kind pcie ads
  let bad := merge bad pre
  let fault : Option Mask := if bad.isEmpty then none else some (keyMask bad)
  let ent : Entry := { ent with lanes := keyMask ok }
  let (s, id) : State × Nat := match e.g.faultedStore e with
    | some k =>
      let g := s.gang e.gk
      let id := (g.work.stores[k]?.map fun q => q.entry.id).getD 0
      let q' (q : SqEntry) : SqEntry :=
        { q with fault := fault, entry := { q.entry with lanes := q.entry.lanes ||| keyMask ok, vals := merge q.entry.vals ent.vals } }
      (s.setGang e.gk { g with work := { g.work with stores := modAt q' k g.work.stores } }, id)
    | none => if ok.isEmpty ∧ bad.isEmpty then (s, ent.id) else (s.enqueue e.gk { entry := ent, fault := fault }, ent.id)
  if bad.isEmpty then s.advance e.gk e.ss else s.failLanes e bad (keyMask ok ||| fin) (some id)

/-- A store or reduction at issue. Log entry 27, DEDUCED. -/
def State.storeIssue (s : State) (e : Issue) (i : Instr) (pcie : Bool) : State :=
  match accessOf e.mode i with
  | none => s
  | some x =>
    if e.cap then
      let (ent, g) := s.capture e i
      let g : Gang := { g with
        work := { g.work with stores := g.work.stores ++ [{ entry := ent, captured := true }] }
        counts := { g.counts with stores := g.counts.stores + 1 } }
      (s.setGang e.gk g.noteHigh).advance e.gk e.ss
    else if e.act = 0 then s.advance e.gk e.ss
    else s.storeLanes e (s.entryOf e i) x (if (redOp i).isSome then 3 else 1) pcie [] 0

def store (i : Instr) : State → Outcome State Fault Refusal := issue i fun e s => s.storeIssue e i true

def execSt (d a : BitVec 6) (i : BitVec 12) : State → Outcome State Fault Refusal := store (.st d a i)
def execSt2 (d a : BitVec 6) (i : BitVec 12) : State → Outcome State Fault Refusal := store (.st2 d a i)
def execSt4 (d a : BitVec 6) (i : BitVec 12) : State → Outcome State Fault Refusal := store (.st4 d a i)
def execSts (d a : BitVec 6) (i : BitVec 12) : State → Outcome State Fault Refusal := store (.sts d a i)
def execStxB (d a b : BitVec 6) : State → Outcome State Fault Refusal := store (.stxB d a b)
def execStxH (d a b : BitVec 6) : State → Outcome State Fault Refusal := store (.stxH d a b)
def execStxW (d a b : BitVec 6) : State → Outcome State Fault Refusal := store (.stxW d a b)
def execStxD (d a b : BitVec 6) : State → Outcome State Fault Refusal := store (.stxD d a b)
def execStl (sc : BitVec 2) (d a : BitVec 6) : State → Outcome State Fault Refusal :=
  issue (.stl sc d a) fun e s => (s.orderStores e.gk).storeIssue e (.stl sc d a) true

/-! ### Atomic operations (R166 to R172; 02 R64) -/

/-- A floating sum, rounded to nearest even, no flag kept (02 R64). -/
def fAdd (t x y : Nat) : Nat :=
  let f := tyFmt t
  (f.deliver 0 0 false (addE false (f.decode x) (f.decode y)).1).1

/-- The lesser or greater: floats exact, −0 below +0, the canonical NaN for any NaN (02 R64). -/
def aMinMax (isMax : Bool) (t x y : Nat) : Nat :=
  if isFlt t then
    let f := tyFmt t
    let a := f.decode x
    let b := f.decode y
    if isNan a || isNan b then f.nan else if below a b != isMax then x else y
  else if decide (intVal t x < intVal t y) != isMax then x else y

/-- The element operation of R166. -/
def amo (op t x y : Nat) : Nat :=
  match op with
  | 0 => if isFlt t then fAdd t x y else wrap (tyWidth t) (x + y)
  | 1 => aMinMax false t x y
  | 2 => aMinMax true t x y
  | 3 => Nat.land x y
  | 4 => Nat.lor x y
  | 5 => Nat.xor x y
  | 6 => y
  | _ => if x ≥ y then 0 else x + 1

/-- One address group's returned values, in lane order, and what memory receives (R169, R170). -/
def amoGroup (op t old : Nat) (ys : List Nat) : List Nat × Nat :=
  if op = 0 ∧ isFlt t then
    let go := ys.foldl (fun (r : List Nat × Option Nat) y =>
      match r.2 with
      | none => (r.1 ++ [old], some y)
      | some T => (r.1 ++ [fAdd t old T], some (fAdd t T y))) ([], none)
    (go.1, match go.2 with | some T => fAdd t old T | none => old)
  else ys.foldl (fun r y => (r.1 ++ [r.2], amo op t r.2 y)) ([], old)

/-- CAS over one address group (R171). -/
def casGroup (old : Nat) (ys : List (Nat × Nat)) : List Nat × Nat :=
  ys.foldl (fun r y => (r.1 ++ [r.2], if r.2 = y.1 then y.2 else r.2)) ([], old)

/-- The lanes whose atomic operation the host's root port refuses (R168). -/
def State.rootRefusals (s : State) (ads : List (Nat × Nat)) (ok : Store Nat) : Store Flt :=
  ok.filterMap fun p =>
    if isHost p.2 ∧ Config.unsupported s.free p.2 then
      let ad := get 0 ads p.1
      some (p.1, { code := cAccess, aux := memAux 6 ad, va := ad, kind := 3 })
    else none

/-- The lanes of each place, by the first lane that names it: addresses that reach one place form one group (R169). Log entry 101,
DEDUCED. -/
def addrGroups (ok : Store Nat) : List (Nat × List Nat) :=
  ((ok.map (·.2)).eraseDups).map fun a => (a, (ok.filter fun p => p.2 == a).map (·.1))

/-- Where an atomic on a scratchpad word is performed (R167): true for the bank, at .blk and a local address, false for the
consort unit; none for global memory. -/
def pointOf (spad : Bool) (i : Instr) (ad : Nat) : Option Bool :=
  if spad then some (scopeOf i == some 0 && !bit ad 23) else none

/-- An atomic is about to be performed at a point: only write parts whose point is another, and whose gang's group is another,
may still be to come (14 R322, R339). -/
def State.atPoint (s : State) (gk : Nat) (pt : Option Bool) : State :=
  if s.halves.isEmpty then s
  else
    let grp := (s.gang gk).group
    s.finishHalves fun h => match pt with
      | some b => h.bank == b || h.group == grp
      | none => true

/-- The write part of an atomic: set aside where the act is (14 R322), or made at once. -/
def State.rmwWrite (s : State) (gk : Nat) (pt : Option Bool) (a n new : Nat) : State :=
  match (if s.aside then pt else none) with
  | some b => { s with halves := s.halves ++ [{ gang := gk, group := (s.gang gk).group, bank := b, flat := a, bytes := toBytes n new }] }
  | none => ((s.writing gk a n).setNum a n new).dropLines (s.gang gk).core a n

/-- Performs an atomic in each address group, at the point of its first lane: the old value, the group's operation, the
returned values by lane. The groups follow their first lanes, in one act (R169 fixes no order; log entry 108, DESIGN CHOICE). -/
def State.amoAll (s : State) (gk n : Nat) (pt : Nat → Option Bool) (f : (old : Nat) → (ls : List Nat) → List Nat × Nat)
    (ok : Store Nat) : State × Store Nat :=
  (addrGroups ok).foldl (fun (r : State × Store Nat) (a, ls) =>
    let p := pt (ls.headD 0)
    let s := (r.1.atPoint gk p).readPoint gk a n
    let (ret, new) := f (s.num a n) ls
    (s.rmwWrite gk p a n new, (ls.zip ret).foldl (fun m p => put m p.1 p.2) r.2)) (s, [])

/-- A value operand of a lane as a number. -/
def valueOf (m : W32) (v : Nat → W32) (b : Nat) : Nat :=
  if is64 (mType m) then (join64 (v b) (v (b + 1))).toNat else (v b).toNat

/-- What a group of lanes does at a place: from the word there, the words that the lanes return and the word left. -/
abbrev AtomicFn := (old : Nat) → (ls : List Nat) → List Nat × Nat

/-- The operation of an atomic with return (R166), and whether it passes to host memory, which carries only integer AADD, AXCH
and CAS (R168). -/
def atomicFn (i : Instr) (mode : W32) (v : Nat → Nat → W32) : Option (AtomicFn × Bool) :=
  let amo (op b : Nat) : Option (AtomicFn × Bool) :=
    some (fun old ls => amoGroup op (mType mode) old (ls.map fun l => valueOf mode (v l) b), (op == 0 && isInt (mType mode)) || op == 6)
  match i with
  | .aadd _ _ _ b => amo 0 b.toNat
  | .amin _ _ _ b => amo 1 b.toNat
  | .amax _ _ _ b => amo 2 b.toNat
  | .aand _ _ _ b => amo 3 b.toNat
  | .aor _ _ _ b => amo 4 b.toNat
  | .axor _ _ _ b => amo 5 b.toNat
  | .axch _ _ _ b => amo 6 b.toNat
  | .ainc _ _ _ b => amo 7 b.toNat
  | .cas _ _ _ b c =>
    some (fun old ls => casGroup old (ls.map fun l => (valueOf mode (v l) b.toNat, valueOf mode (v l) c.toNat)), true)
  | _ => none

/-- An atomic with return is performed in the lanes of a mask (R169), once its requests `fs` to other chips are answered. -/
def State.atomicRun (s : State) (gk id : Nat) (i : Instr) (x : Access) (fs : List (Nat × Nat)) (m : Mask) (v : Nat → Nat → W32) (pcie : Bool) (f : AtomicFn) :
    LoadRes :=
  let g := s.gang gk
  let ads := x.lanes m v
  let s := s.warm gk x ads
  let (ok, bad) := s.laneAll gk x 3 pcie ads
  let (wbad, wait) := s.winAll gk x ads ok
  if wait then .waits (s.touchAll g.group gk (ok.map fun p => (p.2, x.size))) (s.winWaits g.group x.size ok)
  else if s.hostWait gk ok then .link
  else match s.coreAsks gk 2 x.size fs ok with
  | .wait s fs => .asked s fs
  | .go =>
    let bad := merge bad (s.rootRefusals ads ok)
    let s := s.tick1
    let ok := ok.filter fun p => (find bad p.1).isNone
    let ok := ok.filter fun p => (find wbad p.1).isNone
    let pois : Store Flt := ok.filterMap fun p =>
      if s.poisoned p.2 x.size || s.unreachable p.2 then
        let ad := get 0 ads p.1
        some (p.1, { code := cPoison, aux := memAux 0 ad, va := ad, page := p.2 })
      else none
    let ok := ok.filter fun p => (find pois p.1).isNone
    let s := s.remember gk id false x.size ok
    let (s, ret) := s.amoAll gk x.size (fun l => pointOf x.spad i (get 0 ads l)) f ok
    let s := s.meterAccess gk x ok
    .ran s (ret.map fun p => (p.1, (List.range (x.size / 4)).map fun k => w32 (p.2 / 2 ^ (32 * k)))) (merge (merge bad wbad) pois)

/-- An atomic with return at issue (R169, R173): it waits until the store queue is empty. -/
def atomic (i : Instr) : State → Outcome State Fault Refusal :=
  issue i fun e s =>
    match accessOf e.mode i, atomicFn i e.mode e.g.readV with
    | some x, some (f, pcie) =>
      if e.act = 0 then s.advance e.gk e.ss
      else if ¬ e.g.work.stores.isEmpty then s.stall e.gk e.ss .older
      else if e.g.unread e.g.work.nextId then s.stall e.gk e.ss (.ordered e.g.work.nextId)
      else if ¬ s.crossbarOk e.gk x then s.stall e.gk e.ss (.budget 4)
      else match s.atomicRun e.gk e.g.work.nextId i x e.flits e.act e.g.readV pcie f with
        | .waits s ws => s.stall e.gk e.ss (.window ws)
        | .asked s fs => s.stall e.gk e.ss (.flits fs)
        | .ran t out bad => t.deliverIssue e x.regs false out bad (some (s.entryOf e i)) (s.firstPlace e x)
        | _ => s.stall e.gk e.ss .link
    | _, _ => s

def execAadd (s : BitVec 2) (d a b : BitVec 6) : State → Outcome State Fault Refusal := atomic (.aadd s d a b)
def execAmin (s : BitVec 2) (d a b : BitVec 6) : State → Outcome State Fault Refusal := atomic (.amin s d a b)
def execAmax (s : BitVec 2) (d a b : BitVec 6) : State → Outcome State Fault Refusal := atomic (.amax s d a b)
def execAand (s : BitVec 2) (d a b : BitVec 6) : State → Outcome State Fault Refusal := atomic (.aand s d a b)
def execAor (s : BitVec 2) (d a b : BitVec 6) : State → Outcome State Fault Refusal := atomic (.aor s d a b)
def execAxor (s : BitVec 2) (d a b : BitVec 6) : State → Outcome State Fault Refusal := atomic (.axor s d a b)
def execAxch (s : BitVec 2) (d a b : BitVec 6) : State → Outcome State Fault Refusal := atomic (.axch s d a b)
def execAinc (s : BitVec 2) (d a b : BitVec 6) : State → Outcome State Fault Refusal := atomic (.ainc s d a b)

def execCas (sc : BitVec 2) (d a b c : BitVec 6) : State → Outcome State Fault Refusal := atomic (.cas sc d a b c)

/-- A reduction: a store-queue entry; host memory carries only the integer sum (R168, R172). -/
def reduction (op : Nat) (i : Instr) : State → Outcome State Fault Refusal :=
  issue i fun e s => s.storeIssue e i (op == 0 && isInt (mType e.mode))

def execRedAdd (s : BitVec 2) (a b : BitVec 6) : State → Outcome State Fault Refusal := reduction 0 (.redAdd s a b)
def execRedMin (s : BitVec 2) (a b : BitVec 6) : State → Outcome State Fault Refusal := reduction 1 (.redMin s a b)
def execRedMax (s : BitVec 2) (a b : BitVec 6) : State → Outcome State Fault Refusal := reduction 2 (.redMax s a b)
def execRedAnd (s : BitVec 2) (a b : BitVec 6) : State → Outcome State Fault Refusal := reduction 3 (.redAnd s a b)
def execRedOr (s : BitVec 2) (a b : BitVec 6) : State → Outcome State Fault Refusal := reduction 4 (.redOr s a b)
def execRedXor (s : BitVec 2) (a b : BitVec 6) : State → Outcome State Fault Refusal := reduction 5 (.redXor s a b)

/-! ### The head of the store queue (R161 to R163) -/

/-- One lane of a store is performed, never between the two parts of an atomic (14 R322): a partial store over a poisoned word is
not, and raises the deferred memory error (R161; 20 R418). -/
def State.performLane (s : State) (gk ad flat : Nat) (bs : List Byte) : State :=
  let core := (s.gang gk).core
  if s.unreachable flat then s.memError gk 2 ad flat
  else
    let s := s.finishHalves fun h => overlaps flat bs.length h.flat h.bytes.length
    let (s, refused) := (s.writing gk flat bs.length).store flat bs
    if refused then s.memError gk 1 ad flat else s.updateLines core flat bs

/-- The bytes that a lane stores; a nibble replaces its half of the byte as it stands (12 R281, R301). -/
def State.laneData (s : State) (e : Entry) (x : Access) (l flat : Nat) : List Byte :=
  match e.instr with
  | .tst _ _ _ =>
    let n := (e.readV l 0).toNat % 16
    let old := (s.byte flat).toNat
    [BitVec.ofNat 8 (if e.readV l 5 = 0 then old / 16 * 16 + n else n * 16 + old % 16)]
  | _ => x.data (e.readV l)

/-- The lanes of a reduction are performed group by group; poison is left and reported (20 R416). -/
def State.performRed (s : State) (gk op t n : Nat) (e : Entry) (x : Access) (ads : List (Nat × Nat)) (ok : Store Nat) : State :=
  (addrGroups ok).foldl (fun s (a, ls) =>
    if s.unreachable a then s.memError gk 2 (get 0 ads (ls.headD 0)) a
    else if s.poisoned a n then s.memError gk 3 (get 0 ads (ls.headD 0)) a
    else
      let ys := ls.map fun l => fromBytes (x.data (e.readV l))
      let pt := pointOf x.spad e.instr (get 0 ads (ls.headD 0))
      let s := (s.atPoint gk pt).readPoint gk a n
      s.rmwWrite gk pt a n (amoGroup op t (s.num a n) ys).2) s

/-- A load of the gang that is older than an entry has not completed (R162). -/
def Gang.olderLoad (g : Gang) (id : Nat) : Bool :=
  (g.work.residuals.any fun e => (desc e.instr).cnt == 1 && decide (e.id < id))
    || (g.work.flight.any fun d => d.loads && decide (d.id < id))
    || (g.work.posted.any fun p => match p.entry with
        | some e => (desc e.instr).cnt == 1 && decide (e.id < id)
        | none => false)
    || (match g.work.faulted with
        | some (e, _, _) => (desc e.instr).cnt == 1 && decide (e.id < id)
        | none => false)
    || (match g.page.bind (·.entry) with
        | some e => (desc e.instr).cnt == 1 && decide (e.id < id)
        | none => false)

/-- A deferred fault of an entry is posted (10 R230); the record of a page fault waits until it is taken (05 R438). -/
def State.deferFault (s : State) (gk : Nat) (e : Entry) (outside : Bool) (bad : Store Flt) (done : Mask) : State :=
  let f := (vals bad).headD {}
  let s := s.logPoison gk bad
  let e := { e with lanes := keyMask bad, guardPend := false }
  let p : Posted :=
    { code := f.code, aux := f.aux, tmask := keyMask bad, tdone := done, entry := some e, outside := outside, kind := f.kind
      malformed := f.malformed }
  (if f.code = cPage then s else s.postMemFault gk f).post gk p

/-- The head entry after its lanes were performed: it leaves, or stays with the lanes that failed. -/
def Gang.retireHead (g : Gang) (q : SqEntry) (left : Option Mask) : Gang :=
  match left with
  | none =>
    if q.fault.isSome then
      { g with work := { g.work with stores := { q with entry := { q.entry with lanes := 0 } } :: g.work.stores.drop 1 } }
    else
      { g with work := { g.work with stores := g.work.stores.drop 1 }, counts := { g.counts with stores := g.counts.stores - 1 } }
  | some m =>
    { g with work := { g.work with
        stores := { q with captured := true, fault := some m, entry := { q.entry with lanes := m, guardPend := false, flits := [] } } :: g.work.stores.drop 1 } }

/-- Some lanes of a store write a byte in common: no observer sees the lower one's (R158), so the store is seen as one. -/
def lanesMeet (n : Nat) : List (Nat × Nat) → Bool
  | [] => false
  | p :: ps => ps.any (fun q => overlaps p.2 n q.2 n) || lanesMeet n ps

/-- Whether the head entry can be performed now. -/
def Gang.headReady (g : Gang) (q : SqEntry) : Bool :=
  q.entry.waits.isEmpty && !g.olderLoad q.entry.id && (q.fault.isNone || (!q.captured && decide (q.entry.lanes ≠ 0)))

/-- Performs the head of a gang's store queue. A store that fails here, whether or not it was captured, posts its fault.
Log entry 27, DEDUCED. -/
def State.retireStore (s : State) (gk : Nat) : State :=
  let g := s.gang gk
  match g.work.stores with
  | [] => s
  | q :: _ =>
    match accessOf q.entry.mode q.entry.instr with
    | none => s
    | some x =>
      if ¬ g.headReady q ∨ ¬ s.crossbarOk gk x ∨ s.still gk then s
      else
        let red := redOp q.entry.instr
        let m := q.entry.active
        let ads := x.lanes m q.entry.readV
        let s := s.warm gk x ads
        let pcie := match red with
          | some op => op == 0 && isInt (mType q.entry.mode)
          | none => true
        let (ok, bad) := s.laneAll gk x (if red.isSome then 3 else 1) pcie ads
        let (wbad, wait) := s.winAll gk x ads ok
        if wait then s.touchAll g.group gk (ok.map fun p => (p.2, x.size))
        else if s.hostWait gk ok then s
        else match s.coreAsks gk (if red.isSome then 2 else 1) x.size q.entry.flits ok with
        | .wait s fs => s.mapGang gk fun g => { g with work := { g.work with
            stores := modAt (fun q => { q with entry := { q.entry with flits := fs } }) 0 g.work.stores } }
        | .go =>
          let bad := merge (merge bad wbad) (if red.isSome then s.rootRefusals ads ok else [])
          let s := if red.isSome then s.tick1 else s
          let ok := ok.filter fun p => (find bad p.1).isNone
          let s := if lanesMeet x.size ok then { s with aside := false } else s
          let s := if releaseScope q.entry.instr = 0 then s else s.released gk (releaseScope q.entry.instr)
          let s := match red with
            | some op => s.performRed gk op (mType q.entry.mode) x.size q.entry x ads ok
            | none => ok.foldl (fun (s : State) (p : Nat × Nat) =>
                s.performLane gk (get 0 ads p.1) p.2 (s.laneData q.entry x p.1 p.2)) s
          let s := ok.foldl (fun s p => s.notePast gk q.entry.id p.2 x.size) s
          let s := s.meterAccess gk x ok
          let left := if bad.isEmpty then none else some (keyMask bad)
          let s := s.setGang gk ((s.gang gk).retireHead q left)
          if bad.isEmpty then s else s.deferFault gk q.entry true bad (keyMask ok)

def execStoreQueueRetire (g : Nat) (s : State) : Outcome State Fault Refusal := .next (s.retireStore g)

/-! ### Prefetch and fences (R174 to R176) -/

/-- The lines that PREF brings in, in the lanes of a mask, asking other chips for theirs; a lane that would fault is dropped in
silence, and so is one that reaches host memory behind a link that is down (19 R398, R399). -/
def State.prefetch (s : State) (gk hint a : Nat) (m : Mask) (v : Nat → Nat → W32) : State :=
  let x := gAccess 1 1 [] a 0
  let ads := x.lanes m v
  let s := s.warm gk x ads
  let linked := (s.part (s.partOf (s.gang gk))).linked
  let ok := (s.laneAll gk x 0 true ads).1.filter fun p => linked || !isHost p.2
  if hint = 0 then
    ok.foldl (fun s p =>
      let s := (s.fillLine gk p.2).meter (s.partOf (s.gang gk)) (corePort (s.gang gk).core) 128 p.2
      (s.ask (s.partOf (s.gang gk)) (s.worldOf (s.ctxOf (s.gang gk))) 0 128 [p.2]).1) s
  else s

def execPref (d a : BitVec 6) : State → Outcome State Fault Refusal :=
  issue (.pref d a) fun e s =>
    if e.cap then s.captureResidual e (.pref d a)
    else (s.prefetch e.gk d.toNat a.toNat e.act e.g.readV).advance e.gk e.ss

/-- Older loads and stores of the gang are complete. -/
def Counts.quiet (c : Counts) : Bool := c.loads == 0 && c.stores == 0

def execFence (sc : BitVec 2) : State → Outcome State Fault Refusal :=
  issue (.fence sc) fun e s =>
    if ¬ e.g.counts.quiet then s.stall e.gk e.ss .quiet
    else
      let s := if sc.toNat ≥ 1 then s.released e.gk sc.toNat else s
      (if sc.toNat ≥ 1 then s.emptyCache e.g.core else s).advance e.gk e.ss

/-- The reads of the gang's passes are over: they come before every write that starts from now on (R176). -/
def State.readsOver (s : State) (gk : Nat) : State := { s with rereads := s.rereads.filter fun r => r.gang != gk }

/-- XFENCE (R176; 14 R315): the writes of path x that the gang has observed complete are visible at device scope to path y from now
on, and the reads of passes that it has seen complete are over; with y = core the load cache is emptied. -/
def execXfence (a b : BitVec 6) : State → Outcome State Fault Refusal :=
  issue (.xfence a b) fun e s =>
    if a = b then s.trap e.gk e.ss { code := cIllOp, aux := opAux 2 b.toNat, tmask := e.act, tpc := e.pc }
    else if a.toNat = 0 ∧ e.g.counts.stores ≠ 0 then s.stall e.gk e.ss (.counts 31 0 31 7)
    else
      let s := if a.toNat = 3 then s.readsOver e.gk else s
      let s := (if a.toNat = 0 then s.storesSeen e.gk else s).reveal fun v =>
        if v.path = a.toNat ∧ (if v.path = 0 then v.gang = e.gk else v.known.contains e.gk) then pathSeats b.toNat else 0
      (if b.toNat = 0 then s.emptyCache e.g.core else s).advance e.gk e.ss

end Sys2Proof.Machine
end

