-- ==== Sys2Proof/Machine/Pool.lean ====
section
/-! DEFINITION. The SRAM pool family (chapter 11): barrier objects, the window catalogue, control of stream contexts, queues
and the weight decoder; and the events of barriers, windows, queues and the decoder. -/

namespace Sys2Proof.Machine

open Host (Outcome)

/-! ### Precise failures of cohort instructions (R243; 09 R191) -/

/-- A failure of the whole instruction: every active lane re-executes. Log entry 55, DEDUCED. -/
def State.precise (s : State) (e : Issue) (f : Flt) : State := s.fail e.gk e.ss f e.act 0 e.pc

/-- operand-format with a reason: sys.taux names the instruction (09 R191). -/
def State.opFormat (s : State) (e : Issue) (reason : Nat) : State :=
  s.trap e.gk e.ss { code := cFormat, aux := w64 (pcAddr e.pc + reason * 2 ^ 56), tmask := e.act, tpc := e.pc }

/-- A register of the cohort's lowest active lane. -/
def Issue.low (e : Issue) (a : BitVec 6) : Nat := (e.g.readV (lowest e.act) a.toNat).toNat

/-- The place of a local range: its alignment, then R151. -/
def State.localAt (s : State) (grp align n sa : Nat) : Except Flt Nat :=
  if sa % align ≠ 0 then .error (alignFlt sa)
  else match s.localRange grp sa n with
    | .at_ f _ _ => .ok f
    | .bad r => .error (scratchFlt sa r)

/-! ### Barrier objects (R240 to R245) -/

/-- A barrier object's place: 64-byte aligned, in a scratchpad share (R243). -/
def State.barAt (s : State) (grp sa : Nat) : Except Flt Nat :=
  if sa % 64 ≠ 0 then .error (alignFlt sa)
  else match s.scratch grp sa with
    | .at_ f _ off => if off ≥ 0x180000 then .error (scratchFlt sa 4) else .ok f
    | .bad r => .error (scratchFlt sa r)

/-- The barrier-overrun trap (R242). -/
def State.overrun (s : State) (e : Issue) (sa n : Nat) : State :=
  s.precise e { code := cOverrun, aux := w64 (sa % 2 ^ 24 + n % 2 ^ 32 * 2 ^ 32) }

/-- A barrier instruction on the object that register `a` names; with no active lane it does nothing. -/
def State.onBar (s : State) (e : Issue) (a : BitVec 6) (f : (sa flat : Nat) → State) : State :=
  if e.act = 0 then s.advance e.gk e.ss
  else match s.barAt e.g.group (e.low a) with
    | .error x => s.precise e x
    | .ok flat => if s.olderStore e.gk true [(flat, 64)] then s.stall e.gk e.ss .older else f (e.low a) flat

def execBinit (a b : BitVec 6) : State → Outcome State Fault Refusal :=
  issue (.binit a b) fun e s => s.onBar e a fun _ flat =>
    let base := e.low b
    if base = 0 ∨ base ≥ 65536 then
      s.trap e.gk e.ss { code := cIllOp, aux := opAux 2 b.toNat, tmask := e.act, tpc := e.pc }
    else (s.writeBar flat (Bar.init base)).advance e.gk e.ss

/-- An arrival with release semantics (R242, R245): older accesses of the gang come first. -/
def State.arriveAt (s : State) (e : Issue) (sa flat n : Nat) : State :=
  if ¬ e.g.counts.quiet then s.stall e.gk e.ss .quiet
  else match (s.bar flat).arrive n with
    | some b => ((s.released e.gk (b2n (bit sa 23))).setBar flat b).advance e.gk e.ss
    | none => s.overrun e sa n

def execBarr (a b : BitVec 6) : State → Outcome State Fault Refusal :=
  issue (.barr a b) fun e s => s.onBar e a fun sa flat => s.arriveAt e sa flat (e.low b)

def execBexp (d a b : BitVec 6) : State → Outcome State Fault Refusal :=
  issue (.bexp d a b) fun e s => s.onBar e a fun sa flat =>
    match (s.bar flat).expect (e.low b) (e.low d) with
    | some x => (s.setBar flat x).advance e.gk e.ss
    | none => s.overrun e sa (e.low b)

/-- An acquire by a completed phase carries what the phase counted; one on a remote object empties the load cache (R160, R245). -/
def State.acquireBar (s : State) (e : Issue) (sa flat n : Nat) : State :=
  let s := s.phaseSeen e.gk flat n
  if bit sa 23 then s.emptyCache e.g.core else s

def execBwait (a b : BitVec 6) : State → Outcome State Fault Refusal :=
  issue (.bwait a b) fun e s => s.onBar e a fun sa flat =>
    let o := s.bar flat
    let n := e.low b
    if o.complete n then (s.acquireBar e sa flat n).advance e.gk e.ss
    else if ¬ o.isOpen n then s.overrun e sa n
    else match o.faultTo n with
      | some m => s.precise e { code := cPhase, aux := w64 (nth o.finfo (m % 4) % 2 ^ 15 + m * 2 ^ 32) }
      | none => s.stall e.gk e.ss (.phase flat n false)

def execBtest (d a b : BitVec 6) : State → Outcome State Fault Refusal :=
  issue (.btest d a b) fun e s => s.onBar e a fun sa flat =>
    let done := (s.bar flat).complete (e.low b)
    let s := if done then s.acquireBar e sa flat (e.low b) else s
    (s.writeAllP e d.toNat done).advance e.gk e.ss

/-! ### The window catalogue (R246 to R251) -/

/-- The record's fields (R246). -/
def catRecord (bs : List Byte) : CatEntry :=
  let w (i : Nat) : Nat := fromBytes ((bs.drop (4 * i)).take 4)
  { rbase := w 0, wsize := bits (w 1) 0 16, cnt := bits (w 1) 16 4 + 1, touch := bit (w 1) 20, mcast := bit (w 1) 21
    full := w 2, free := w 3, prog := w 4 + w 5 * 2 ^ 32, tdmap := four fun j => bits (w 6) (4 * j) 3 }

/-- A push entry's barrier: local, 64-byte aligned, in the scratchpad share. Log entry 46, DESIGN CHOICE. -/
def State.catBar (s : State) (grp sa : Nat) : Bool :=
  !bit sa 23 && (match s.barAt grp sa with | .ok _ => true | .error _ => false)

/-- The record lies inside its table (R246, R248). -/
def State.catLegal (s : State) (grp : Nat) (bs : List Byte) : Bool :=
  let w (i : Nat) : Nat := fromBytes ((bs.drop (4 * i)).take 4)
  let c := catRecord bs
  let ring := c.cnt * c.wsize * 512
  decide (c.rbase < 2 ^ 21) && c.rbase % 512 == 0 && decide (1 ≤ c.wsize) && decide (c.wsize ≤ 1024) && w 1 / 2 ^ 22 == 0
    && (match s.localRange grp c.rbase ring with | .at_ _ _ _ => true | .bad _ => false)
    && (if c.touch then !c.mcast && c.full == 0 && c.free == 0 else s.catBar grp c.full && s.catBar grp c.free)
    && decide (c.prog < 2 ^ 56) && c.prog % 8 == 0
    && w 6 / 2 ^ 15 == 0 && !bit (w 6) 3 && !bit (w 6) 7 && !bit (w 6) 11 && w 7 == 0

/-- A context of an entry, push or on-touch. -/
def State.entryStreams (s : State) (grp e : Nat) : List (Nat × StreamCtx) :=
  s.streams.filter fun p => p.2.group == grp && p.2.entry == e

/-- The context is running, waiting in SE.WAITF or on a page fault. -/
def StreamCtx.running (c : StreamCtx) : Bool := c.state == 1 || c.state == 2 || c.state == 6

/-- No operation of the context is under way. -/
def StreamCtx.between (c : StreamCtx) : Bool := c.beats.isEmpty && c.out.isEmpty

/-- The entry is busy (R248). -/
def State.entryBusy (s : State) (grp e : Nat) : Bool :=
  (s.entryStreams grp e).any (fun p => p.2.running) || ((s.group grp).entry e).wstate.any fun p => p.2 == .filling

/-- Frees the stream contexts that pass a test; no credit and no handle names them any more. -/
def State.freeStreams (s : State) (f : StreamCtx → Bool) : State :=
  let gone (h : Nat) : Bool := ((find s.streams h).map f).getD false
  let theirs (grp h : Nat) : Bool := gone h && (s.stream h).group == grp
  { s with
    streams := s.streams.filter fun p => !f p.2
    groups := mapVals (fun k (g : Group) => { g with handles := g.handles.filter fun p => !theirs k p.2 }) s.groups
    credits := s.credits.map fun (c : Credit) => if (c.stream.map gone) = some true then { c with stream := none } else c }

/-- Frees every context of an entry (R256). -/
def State.freeEntry (s : State) (grp e : Nat) : State :=
  let s := s.freeStreams fun c => c.group == grp && c.entry == e
  let c := (s.group grp).entry e
  s.setEntry grp e { c with ctx := none }

def execCatset (a : BitVec 6) (n : BitVec 5) : State → Outcome State Fault Refusal :=
  issue (.catset a n) fun e s =>
    if e.act = 0 then s.advance e.gk e.ss
    else match s.localAt e.g.group 32 32 (e.low a) with
      | .error x => s.precise e x
      | .ok flat =>
        let bs := s.coreBytes e.gk flat 32
        if s.olderStore e.gk true [(flat, 32)] then s.stall e.gk e.ss .older
        else if ¬ s.catLegal e.g.group bs then s.opFormat e 14
        else if s.entryBusy e.g.group n.toNat then s.opFormat e 16
        else
          let s := s.freeEntry e.g.group n.toNat
          (s.setEntry e.g.group n.toNat { catRecord bs with valid := true }).advance e.gk e.ss

/-- The groups in which a push fill is written (R263). -/
def State.written (s : State) (grp e : Nat) : List Nat :=
  let g := s.group grp
  if (g.entry e).mcast ∧ ¬ g.peers.isEmpty then g.peers else [grp]

/-- A mark or credit for a phase: applied at once where the phase is open, else kept until it is (R242). -/
def Credit.apply (c : Credit) (b : Bar) : Bar :=
  match c.mark with
  | some info => b.mark (c.phase % 4) info
  | none => b.credit c.phase c.nbytes

/-- A mark or credit is offered to its object (R242, R266). A mark on a phase that is not open yet waits until it is, and one on a phase
that has completed is dropped. Log entry 105, DESIGN CHOICE. -/
def State.offerCredit (s : State) (c : Credit) : State :=
  if c.mark.isSome ∧ (s.bar c.obj).isOpen c.phase then s.setBar c.obj (c.apply (s.bar c.obj))
  else { s with credits := s.credits ++ [c] }

/-- A stream fault: state 5, the entry's fcode, and the marked phase or window (R266). -/
def State.streamFault (s : State) (h code : Nat) : State :=
  let c := s.stream h
  let s := s.setStream h { c with state := 5, code := code }
  let ent := (s.group c.group).entry c.entry
  let s := s.setEntry c.group c.entry { ent with fcode := code }
  match c.touch with
  | some i =>
    let ent := (s.group c.group).entry c.entry
    s.setEntry c.group c.entry (ent.setWin i .faulted)
  | none =>
    let phase := c.regs.cur.getD ent.next
    (s.written c.group c.entry).foldl (fun s grp =>
      let full := ((s.group grp).entry c.entry).full
      s.offerCredit { obj := spadBase grp + full, phase := phase, mark := some (code + c.entry * 256) }) s

/-- An access of the group waits on a window of the entry: a stalled LDS or atomic, an LDS whose destination is pending, or a
store at the head of its queue (R252). -/
def State.entryWaiters (s : State) (grp k : Nat) : Bool :=
  let touches (gk : Nat) (e : Entry) : Bool := match accessOf e.mode e.instr with
    | none => false
    | some x => x.spad && (s.entryPlaces gk e x).any fun p => (s.touched grp p.2 x.size).any fun w => w.1 == k
  s.gangs.any fun (gk, g) => g.live && g.group == grp
    && ((g.slices.any fun x => x.held == 0 && match x.stall with
          | some (.window ws) => ws.any fun w => w.1 == k
          | _ => false)
        || (g.work.flight.any fun d => d.queue.isNone && d.entry.any (touches gk))
        || (g.work.stores.head?.any fun q => g.headReady q && touches gk q.entry))

/-- Every context of the entry has stopped, no fill is in progress, and no access waits on one (R249, R253). -/
def State.fillsOver (s : State) (grp k : Nat) : Bool := !s.entryBusy grp k && !s.entryWaiters grp k

/-- Every context that runs on the entry stops as with fault 0x0C, once an operation that writes its window has ended; one that
delivers to a return port, or waits for it, stops there, and a fill that waits for a context stops at once (R249). -/
def State.stopEntry (s : State) (grp k : Nat) : State :=
  let s := (s.entryStreams grp k).foldl (fun s p =>
    if ¬ p.2.running then s
    else if p.2.beats.isEmpty then (s.setStream p.1 { p.2 with out := [] }).streamFault p.1 0x0C
    else s.setStream p.1 { p.2 with clearing := true }) s
  let c := (s.group grp).entry k
  let idle := those c.cnt fun i => c.win i == .filling && (find c.wfill i).isNone
  if idle.isEmpty then s
  else s.setEntry grp k { idle.foldl (fun (c : CatEntry) i => c.setWin i .faulted) c with wants := [], fcode := 0x0C }

/-- CATCLR (R249): it waits for what it stops, and for the accesses that then fault (R253). -/
def execCatclr (n : BitVec 5) : State → Outcome State Fault Refusal :=
  issue (.catclr n) fun e s =>
    let grp := e.g.group
    let k := n.toNat
    if e.act = 0 ∨ ¬ ((s.group grp).entry k).valid then s.advance e.gk e.ss
    else
      let s := s.stopEntry grp k
      if ¬ s.fillsOver grp k then s.stall e.gk e.ss (.fills k)
      else
        let s := s.freeEntry grp k
        let c := (s.group grp).entry k
        (s.setEntry grp k { c with valid := false }).advance e.gk e.ss

/-- The status word of CATQRY (R250). -/
def State.catStatus (s : State) (grp k : Nat) : Nat :=
  let c := (s.group grp).entry k
  let run := s.entryBusy grp k
  let flt := (s.entryStreams grp k).any (fun p => p.2.state == 5) || c.wstate.any fun p => p.2 == .faulted
  let pres := if c.touch then (those 16 fun i => c.win i == .present).foldl (fun m i => m + 2 ^ i) 0 else 0
  b2n c.valid * 2 ^ 31 + b2n c.touch * 2 ^ 30 + b2n run * 2 ^ 29 + b2n flt * 2 ^ 28 + c.fcode % 256 * 2 ^ 20 + pres

def execCatqry (d : BitVec 6) (sel : BitVec 1) (n : BitVec 5) : State → Outcome State Fault Refusal :=
  issue (.catqry d sel n) fun e s =>
    let x := if sel.toNat = 1 then ((s.group e.g.group).entry n.toNat).next else s.catStatus e.g.group n.toNat
    (s.writeAll e d.toNat (w32 x)).advance e.gk e.ss

def execWrel (a : BitVec 6) (n : BitVec 5) : State → Outcome State Fault Refusal :=
  issue (.wrel a n) fun e s =>
    let grp := e.g.group
    let c := (s.group grp).entry n.toNat
    if e.act = 0 then s.advance e.gk e.ss
    else if ¬ c.valid then s.opFormat e 1
    else if c.touch then
      let i := e.low a % c.cnt
      let s := if c.win i = .filling then s else s.setEntry grp n.toNat (c.setWin i .absent)
      s.advance e.gk e.ss
    else s.arriveAt e c.free (spadBase grp + c.free) (e.low a)

/-! ### Stream contexts (R255, R256) -/

/-- The handle under which a group knows a context that it starts: the engine's number, but where a context that the group still
holds goes by that number since a CTXLOAD (18 R391). -/
def State.handleFor (s : State) (grp h : Nat) : Nat :=
  let g := s.group grp
  let held (k : Nat) : Bool := ((find s.streams k).map (·.group)) == some grp
  let taken (v : Nat) : Bool := match find g.handles v with
    | some k => held k && k != h
    | none => held v && v != h
  if taken h then ((List.range 2048).find? fun v => !taken v && (v == h || (find s.streams v).isNone)).getD h else h

def execSego (d a : BitVec 6) (n : BitVec 5) : State → Outcome State Fault Refusal :=
  issue (.sego d a n) fun e s =>
    let grp := e.g.group
    let k := n.toNat
    if e.act = 0 then s.advance e.gk e.ss
    else match s.localAt grp 64 64 (e.low a) with
      | .error x => s.precise e x
      | .ok flat =>
        let c := (s.group grp).entry k
        let answer (s : State) (x : Nat) : State := (s.writeAll e d.toNat (w32 x)).advance e.gk e.ss
        if s.olderStore e.gk true [(flat, 64)] then s.stall e.gk e.ss .older
        else if ¬ c.valid ∨ c.touch then answer s 0x80000002
        else
          let s := if (c.ctx.map fun h => (s.stream h).state == 4 || (s.stream h).state == 5) = some true then s.freeEntry grp k else s
          let c := (s.group grp).entry k
          if c.ctx.isSome then answer s 0x80000003
          else match s.pick (s.freeHandles e.g.core (s.partOf e.g)) with
            | (none, s) => answer s 0x80000001
            | (some h, s) =>
              let regs := (List.range 8).foldl (fun m j => put m j (w64 (s.coreNum e.gk (flat + 8 * j) 8))) []
              let s := s.startStream h grp e.gk k none 0 regs
              let v := s.handleFor grp h
              let s := s.setEntry grp k { c with ctx := some h }
              let g := s.group grp
              answer (s.setGroup grp { g with handles := if v = h then del g.handles h else put g.handles v h }) v

/-- The engine's number of the context that SEGO named by a handle: the group's handle map translates (18 R391). A number under which
the map knows another handle's context names none: 2048, which no context has. -/
def State.ownHandle (s : State) (e : Issue) (h : Nat) : Nat :=
  let m := (s.group e.g.group).handles
  (find m h).getD (if m.any fun p => p.2 == h then 2048 else h)

/-- A context of the issuing group by its engine's number. -/
def State.ownStream (s : State) (e : Issue) (h : Nat) : Option StreamCtx :=
  match find s.streams h with
  | some c => if c.group = e.g.group then some c else none
  | none => none

def execSestop (a : BitVec 6) : State → Outcome State Fault Refusal :=
  issue (.sestop a) fun e s =>
    let h := s.ownHandle e (e.low a)
    let s := match s.ownStream e h with
      | some c =>
        if e.act = 0 then s
        else if (c.state = 1 ∨ c.state = 2) ∧ c.between then s.setStream h { c with state := 3 }
        else if c.state = 1 ∨ c.state = 6 then s.setStream h { c with stopping := true }
        else s
      | none => s
    s.advance e.gk e.ss

def execSeresume (a : BitVec 6) : State → Outcome State Fault Refusal :=
  issue (.seresume a) fun e s =>
    let h := s.ownHandle e (e.low a)
    let s := match s.ownStream e h with
      | some c =>
        if e.act = 0 then s
        else if c.state = 3 then s.setStream h { c with state := 1 }
        else s.setStream h { c with stopping := false }
      | none => s
    s.advance e.gk e.ss

/-- The word of SEQRY (R256). -/
def StreamCtx.word (c : StreamCtx) : Nat :=
  c.state * 2 ^ 29 + c.entry % 32 * 2 ^ 24 + (if c.state = 5 then c.code % 256 * 2 ^ 16 else 0) + c.regs.tag.toNat % 65536

def execSeqry (d a : BitVec 6) : State → Outcome State Fault Refusal :=
  issue (.seqry d a) fun e s =>
    let x := match s.ownStream e (s.ownHandle e (e.low a)) with
      | some c => c.word
      | none => 0
    (s.writeAll e d.toNat (w32 x)).advance e.gk e.ss

/-! ### Queue instructions (R275 to R277) -/

/-- The sender's queue that QPUSH to a queue register enters. -/
def pushKey (e : Issue) (q : Nat) : Nat :=
  if q < 4 then linkKey (e.g.core / 4) q
  else if q < 8 then portKey e.gk (q - 4)
  else if q = 12 then cruKey e.g.group
  else portKey e.gk 13

def execQpush (d a : BitVec 6) : State → Outcome State Fault Refusal :=
  issue (.qpush d a) fun e s =>
    let k := pushKey e d.toNat
    if e.act = 0 then s.advance e.gk e.ss
    else if ¬ s.windowRoom k 1 then s.stall e.gk e.ss (.room [(k, 1)])
    else (s.sendEntry k ((lanesOf e.act).map fun l => e.g.readV l a.toNat) e.act).advance e.gk e.ss

/-- The receive queue that QPOP of a queue register reads. -/
def State.popKey (s : State) (gk q : Nat) : Nat := if q < 4 then s.recvKey gk q else portKey gk q

/-- The oldest entry of a queue taken for the gang: each lane's word, or none for a decoded chunk in error. Of a 64-bit delivery on
a link a QPOP takes the low words and the next one the high words (03 R77; log entry 14, DEDUCED). -/
def State.popQueue (s : State) (gk q : Nat) : Option (State × Option (Nat → W32)) :=
  if q = 13 then
    let g := s.gang gk
    match g.chunks with
    | [] => none
    | c :: cs =>
      some (s.setGang gk { g with chunks := cs }, c.map fun bs => fun l => w32 (fromBytes ((bs.drop (4 * l)).take 4)))
  else
    let k := s.popKey gk q
    let x := s.link k
    match x.recv with
    | [] => none
    | (ws, m) :: rest =>
      let n := (lanesOf m).length
      let more : List (List W32 × Mask) := if q < 4 ∧ n < ws.length then [(ws.drop n, m)] else []
      let word (l : Nat) : W32 :=
        if q = 12 then ws.headD 0 else if has m l then ws[(those l (has m)).length]?.getD 0 else 0
      let s := if q = 12 then s.observes gk fun v => v.path == 5 && v.group == (s.gang gk).group else s
      some (s.setLink k { x with recv := more ++ rest }, some word)

/-- An earlier QPOP waits on the queue. -/
def Gang.popWaits (g : Gang) (q : Nat) : Bool := g.work.flight.any fun d => d.queue == some q

def execQpop (d a : BitVec 6) : State → Outcome State Fault Refusal :=
  issue (.qpop d a) fun e s =>
    let q := a.toNat
    let i : Instr := .qpop d a
    if e.act = 0 then s.advance e.gk e.ss
    else match (if e.g.popWaits q then none else s.popQueue e.gk q) with
      | some (s, some f) => (s.setGang e.gk (((s.gang e.gk).writeLanes e.act d.toNat f).laterWriter e.act d.toNat)).advance e.gk e.ss
      | some (s, none) => s.opFormat e 13
      | none =>
        if e.late then
          let ent := s.entryOf e i
          let (g, dest) := (s.gang e.gk).makeAllPending [d.toNat] e.act
          let x : Deliv := { id := ent.id, regs := dest, lanes := e.act, entry := some { ent with dest := dest }, queue := some q }
          let g := g.nextEntry
          (s.setGang e.gk { g with work := { g.work with flight := g.work.flight ++ [x] } }).advance e.gk e.ss
        else s.stall e.gk e.ss (.queue q)

def execQown (d a : BitVec 6) : State → Outcome State Fault Refusal :=
  issue (.qown d a) fun e s =>
    let k := linkKey (e.g.core / 4) a.toNat
    let x := s.link k
    let mine := x.owner == none || x.owner == some e.gk
    let s := if mine ∧ e.act ≠ 0 then s.setLink k { x with owner := some e.gk, core := some e.g.core } else s
    (s.writeAllP e d.toNat mine).advance e.gk e.ss

def execQownRel (a : BitVec 6) : State → Outcome State Fault Refusal :=
  issue (.qownRel a) fun e s =>
    let k := linkKey (e.g.core / 4) a.toNat
    let x := s.link k
    let s := if x.owner = some e.gk ∧ e.act ≠ 0 then s.setLink k { x with owner := none } else s
    s.advance e.gk e.ss

/-! ### The weight decoder (R273, R274) -/

/-- The code table at some bytes, where it is legal (R273). -/
def State.codeTable (s : State) (gk flat : Nat) : Option CodeTable :=
  let count := (List.range 15).map fun i => (s.coreByte gk (flat + 1 + i)).toNat
  let n := count.foldl (· + ·) 0
  let kraft := ((List.range 15).map fun i => nth count i * 2 ^ (14 - i)).foldl (· + ·) 0
  if s.coreByte gk flat = 0 ∧ 1 ≤ n ∧ n ≤ 256 ∧ kraft ≤ 2 ^ 15 then some { count := count, symbols := s.coreBytes gk (flat + 16) n }
  else none

/-- DECTBL: the address is local; the table's own bytes must satisfy R151 as far as they reach. -/
def execDectbl (a : BitVec 6) (sl : BitVec 2) : State → Outcome State Fault Refusal :=
  issue (.dectbl a sl) fun e s =>
    if e.act = 0 then s.advance e.gk e.ss
    else match s.localAt e.g.group 4 16 (e.low a) with
      | .error x => s.precise e x
      | .ok flat =>
        if s.olderStore e.gk true [(flat, 272)] then s.stall e.gk e.ss .older
        else match s.codeTable e.gk flat with
        | none => s.opFormat e 15
        | some t =>
          match s.localAt e.g.group 4 (16 + t.symbols.length) (e.low a) with
          | .error x => s.precise e x
          | .ok _ =>
            let c := s.core e.g.core
            (s.setCore e.g.core { c with decLoad := c.decLoad ++ [(sl.toNat, t)] }).advance e.gk e.ss

/-- The oldest table that DECTBL has issued replaces its slot. -/
def execDecoderTableLoad (c : Nat) (s : State) : Outcome State Fault Refusal :=
  let x := s.core c
  match x.decLoad with
  | [] => .next s
  | (sl, t) :: rest => .next (s.setCore c { x with decLoad := rest, dec := put x.dec sl t })

/-- The canonical codes: length, code and symbol (R274). -/
def CodeTable.codes (t : CodeTable) : List (Nat × Nat × Byte) :=
  ((List.range 15).foldl (fun (r : Nat × Nat × List (Nat × Nat × Byte)) i =>
    let n := nth t.count i
    let here := (List.range n).map fun c => (i + 1, r.1 + c, t.symbols[r.2.1 + c]?.getD 0)
    ((r.1 + n) * 2, r.2.1 + n, r.2.2 ++ here)) (0, 0, [])).2.2

/-- The bits of bytes, most significant first. -/
def bitsOf (bs : List Byte) : List Bool := bs.flatMap fun b => (List.range 8).map fun i => bit b.toNat (7 - i)

/-- The shortest prefix of the bits that is a code, of length `len` or more. -/
def matchCode (codes : List (Nat × Nat × Byte)) : (fuel len val : Nat) → List Bool → Option (Byte × List Bool)
  | 0, _, _, _ => none
  | _, _, _, [] => none
  | f + 1, len, val, b :: bs =>
    let v := 2 * val + b2n b
    match codes.find? fun c => c.1 == len + 1 && c.2.1 == v with
    | some c => some (c.2.2, bs)
    | none => matchCode codes f (len + 1) v bs

/-- Decodes `n` symbols, or fails (R274): each is what its code's entry of the table holds, a reserved ternary code too. Log entry 93,
DEDUCED. -/
def decodeSyms (codes : List (Nat × Nat × Byte)) : (n : Nat) → List Bool → Option (List Byte)
  | 0, _ => some []
  | n + 1, bs =>
    match matchCode codes 15 0 0 bs with
    | none => none
    | some (x, rest) => (decodeSyms codes n rest).map (x :: ·)

/-- The decoder's output for a slot of a core. -/
def State.decodeWith (s : State) (core slot n : Nat) (bs : List Byte) : Option (List Byte) :=
  match find (s.core core).dec slot with
  | none => none
  | some t => decodeSyms t.codes n (bitsOf bs)

/-- The chunk of a q13 entry: header, then input bytes (R275). -/
def State.decodeEntry (s : State) (core : Nat) (ws : List W32) : Option (List Byte) :=
  let h := (ws.headD 0).toNat
  let n := h % 256
  if n = 0 ∨ n > 128 ∨ h / 1024 ≠ 0 then none
  else s.decodeWith core (bits h 8 2) n ((ws.drop 1).flatMap fun w => toBytes 4 w.toNat)

def execDecodeChunk (g : Nat) (s : State) : Outcome State Fault Refusal :=
  let k := portKey g 13
  let x := s.link k
  let gg := s.gang g
  match x.recv with
  | [] => .next s
  | (ws, _) :: rest =>
    if gg.chunks.length ≥ 8 ∨ s.still g then .next s
    else
      let s := s.setLink k { x with recv := rest }
      .next (s.setGang g { gg with chunks := gg.chunks ++ [s.decodeEntry gg.core ws] })

/-! ### Credits and windows (R242, R253) -/

/-- The bytes that a credit counts are visible to the core path of the object's core before it is applied (R242). -/
def State.creditSeen (s : State) (c : Credit) : State :=
  s.reveal fun v => if v.phases.contains (c.obj, c.phase) then 2 ^ seat 0 (s.group (objGroup c.obj)).core else 0

/-- The object of a credit belongs to a context that has come to rest (18 R384). -/
def State.creditStill (s : State) (c : Credit) : Bool :=
  let st := (s.ctx (s.group (objGroup c.obj)).ctx).state
  st == .quiescent || st == .halted

/-- A credit whose phase is open is applied; a tile operation that waited for it ends. -/
def execCredit (i : Nat) (s : State) : Outcome State Fault Refusal :=
  match s.credits[i]? with
  | none => .next s
  | some c =>
    let b := s.bar c.obj
    if ¬ b.isOpen c.phase ∨ s.creditStill c then .next s
    else
      let s := ({ s with credits := dropAt i s.credits } : State).creditSeen c
      let s := s.setBar c.obj (c.apply b)
      .next (match c.tile with
        | some (g, t) => s.tileDone g t
        | none => s)

/-- The fill of window `i` has ended: every byte that it wrote is visible to the core path of its core, and the window is present.
Its context keeps its slot (R253, R256). -/
def execWindowPresent (grp e i : Nat) (s : State) : Outcome State Fault Refusal :=
  let c := (s.group grp).entry e
  let ended := (s.entryStreams grp e).any fun p =>
    p.2.touch == some i && p.2.state == 4 && find c.wfill i == some p.2.fillNo
  let own (v : Veil) : Bool := (s.entryStreams grp e).any fun p => p.2.touch == some i && v.agent == streamAgent p.1
  .next (if c.win i = .filling ∧ ended then
      (s.reveal fun v => if own v then 2 ^ seat 0 (s.group grp).core else 0).setEntry grp e (c.setWin i .present)
    else s)

/-! ### Queue transport (10 R232, R233) -/

/-- The words that a receiving buffer still takes, or whether an entry fits it whole: rows of a matrix port, the reduction
unit's input, or an entry of the receive queue. -/
def Gang.rowRoom (g : Gang) (j : Nat) (ws : List W32) (m : Mask) : Bool :=
  let per := if m = 0 then 0 else ws.length / (lanesOf m).length
  (List.range 8).all fun r =>
    decide ((get [] g.rows (8 * j + r)).length + per * ((lanesOf m).filter fun l => l % 8 == r).length ≤ 128)

/-- Appends an entry's words to the rows of a port: a lane's words to row `lane mod 8` (09 R200). -/
def Gang.appendRows (g : Gang) (j : Nat) (ws : List W32) (m : Mask) : Gang :=
  let ls := lanesOf m
  let per := if ls.isEmpty then 1 else ws.length / ls.length
  (ls.zipIdx).foldl (fun g (l, i) =>
    let k := 8 * j + l % 8
    { g with rows := put g.rows k (get [] g.rows k ++ (ws.drop (per * i)).take per) }) g

/-- Moves the head of a receive queue into the word buffer behind it, where it fits. -/
def State.intoBuffer (s : State) (k : Nat) : State :=
  let x := s.link k
  match x.recv with
  | [] => s
  | (ws, m) :: rest =>
    match qkey k with
    | .cru grp =>
      let g := s.group grp
      if g.cru.length + ws.length ≤ 1088 then (s.setLink k { x with recv := rest }).setGroup grp { g with cru := g.cru ++ ws }
      else s
    | .port gk j =>
      let g := s.gang gk
      if j < 4 ∧ g.rowRoom j ws m then (s.setLink k { x with recv := rest }).setGang gk (g.appendRows j ws m) else s
    | .link _ _ => s

/-- The core whose sys.qbackoff governs a queue, and its base. -/
def State.backoff (s : State) (k : Nat) : Nat :=
  match qkey k with
  | .cru grp => (s.core (s.group grp).core).backoff
  | .port gk _ => (s.core (s.gang gk).core).backoff
  | .link _ _ => ((s.link k).core.map fun c => (s.core c).backoff).getD 32

/-- The receiver takes the next entry in order, or refuses it; the entry's number is then acknowledged. First, where a
buffer stands behind the receive queue, its head moves on. -/
def execQueueReceive (k : Nat) (s : State) : Outcome State Fault Refusal :=
  let s := s.intoBuffer k
  let x := s.link k
  if x.refused then .next s
  else match x.window with
    | [] => .next s
    | (n, ws, m) :: rest =>
      if x.recv.length < 8 then
        .next (s.setLink k { x with
          window := rest, expect := n + 1, sent := n + 1, recv := x.recv ++ [(ws, m)], delay := 0 })
      else
        let b := if x.delay = 0 then s.backoff k else x.delay
        .next (s.setLink k { x with refused := true, resume := s.clock + b, delay := min 1024 (2 * b) })

/-- After the back-off the sender resends from the refused entry on. -/
def execQueueReplay (k : Nat) (s : State) : Outcome State Fault Refusal :=
  let x := s.link k
  if x.refused ∧ s.clock ≥ x.resume then .next (s.setLink k { x with refused := false }) else .next s

end Sys2Proof.Machine
end

