-- ==== Sys2Proof/Machine/Axis.lean ====
section
/-! DEFINITION. The axis family (chapter 12): descriptors and their slots, axis tables and the axis-entry caches, the
translation of coordinates, edits, invalidation, queries, gather and scatter. -/

namespace Sys2Proof.Machine

open Host (Outcome)

/-! ### Descriptors (R280, R281) -/

/-- An axis map (R280). -/
inductive AxMap where
  | inline (present : Bool) (step pstart : Nat)
  | table (va : Nat)
  deriving DecidableEq, Repr

/-- A tensor descriptor. -/
structure TDesc where
  rank : Nat := 0
  type : Nat := 0
  base : Nat := 0
  stride : List Nat := []
  ext : List Nat := []
  map : List AxMap := []
  deriving DecidableEq, Repr

def le (bs : List Byte) (off n : Nat) : Nat := fromBytes ((bs.drop off).take n)

/-- The map of a 64-bit field. -/
def axMapOf (w : Nat) : AxMap :=
  if bit w 63 then .table (bits w 0 56) else .inline (bit w 62) (bits w 60 2) (bits w 0 32)

/-- The fields of 128 bytes. -/
def descOf (bs : List Byte) : TDesc :=
  let w := le bs 0 8
  let r := bits w 61 3
  { rank := r, type := bits w 56 5, base := bits w 0 56
    stride := (List.range r).map fun a => le bs (8 + 8 * a) 8
    ext := (List.range r).map fun a => le bs (0x38 + 4 * a) 4
    map := (List.range r).map fun a => axMapOf (le bs (0x50 + 8 * a) 8) }

/-- A map field is legal for an extent (R280, R281). -/
def mapLegal (w ext : Nat) : Bool :=
  if bit w 63 then bits w 56 7 == 0 && bits w 0 4 == 0 && bits w 0 56 != 0
  else
    let st := bits w 60 2
    let p := bits w 0 32
    bits w 32 28 == 0 && st != 3 && (st != 0 || decide (p + ext ≤ 2 ^ 32)) && (st != 1 || decide (p + 1 ≥ ext))

/-- A descriptor is legal (R281). -/
def descLegal (bs : List Byte) : Bool :=
  let d := descOf bs
  decide (1 ≤ d.rank) && decide (d.rank ≤ 6) && decide (d.type ≤ 18)
    && (List.range 6).all fun a =>
      let st := le bs (8 + 8 * a) 8
      let ex := le bs (0x38 + 4 * a) 4
      let mp := le bs (0x50 + 8 * a) 8
      if a < d.rank then decide (ex ≥ 1) && mapLegal mp ex else st == 0 && ex == 0 && mp == 0

/-- The bytes of a map. -/
def AxMap.word : AxMap → Nat
  | .inline pr st p => b2n pr * 2 ^ 62 + st * 2 ^ 60 + p
  | .table va => 2 ^ 63 + va

/-- The 128 bytes of a descriptor. -/
def TDesc.bytes (d : TDesc) : List Byte :=
  toBytes 8 (d.base + d.type * 2 ^ 56 + d.rank * 2 ^ 61)
    ++ ((List.range 6).flatMap fun a => toBytes 8 (nth d.stride a))
    ++ ((List.range 6).flatMap fun a => toBytes 4 (nth d.ext a))
    ++ ((List.range 6).flatMap fun a => toBytes 8 ((d.map[a]?.map AxMap.word).getD 0))

/-- Bytes of one element; a nibble counts as its byte (R281). -/
def elemBytes (t : Nat) : Nat :=
  if is64 t then 8
  else if t = 0 ∨ t = 1 ∨ t = 8 ∨ t = 18 then 4
  else if t = 4 ∨ t = 5 ∨ t = 10 ∨ t = 11 then 2
  else 1

/-- The descriptor in a slot of a group. -/
def Group.slot (g : Group) (t : Nat) : Option TDesc := (find g.td t).map descOf
def State.setSlot (s : State) (grp t : Nat) (d : TDesc) : State :=
  let g := s.group grp
  s.setGroup grp { g with td := put g.td t d.bytes }

/-! ### Remap entries (R282) -/

structure AxEnt where
  lstart : Nat := 0
  len : Nat := 0
  pstart : Nat := 0
  flags : Nat := 0
  deriving DecidableEq, Repr

def AxEnt.step (e : AxEnt) : Nat := bits e.flags 0 2
def AxEnt.present (e : AxEnt) : Bool := bit e.flags 2
def AxEnt.spec (e : AxEnt) : Bool := bit e.flags 3
def AxEnt.remote (e : AxEnt) : Bool := bit e.flags 4
def AxEnt.ro (e : AxEnt) : Bool := bit e.flags 5
def AxEnt.tier (e : AxEnt) : Nat := bits e.flags 6 2
def AxEnt.chip (e : AxEnt) : Nat := bits e.flags 8 12

def entOf (bs : List Byte) : AxEnt := { lstart := le bs 0 4, len := le bs 4 4, pstart := le bs 8 4, flags := le bs 12 4 }
def AxEnt.bytes (e : AxEnt) : List Byte := toBytes 4 e.lstart ++ toBytes 4 e.len ++ toBytes 4 e.pstart ++ toBytes 4 e.flags

/-- An entry is valid (R282). -/
def AxEnt.valid (e : AxEnt) : Bool :=
  decide (1 ≤ e.len) && decide (e.lstart + e.len ≤ 2 ^ 32) && e.step != 3 && decide (e.flags < 2 ^ 20)
    && (if e.remote then e.tier != 3
        else e.chip == 0 && e.tier == 0 && (e.step != 0 || decide (e.pstart + e.len ≤ 2 ^ 32))
          && (e.step != 1 || decide (e.pstart + 1 ≥ e.len)))

def AxEnt.covers (e : AxEnt) (x : Nat) : Bool := decide (e.lstart ≤ x) && decide (x < e.lstart + e.len)

/-- The physical index, or the offset in a remote block (R283). -/
def AxEnt.phys (e : AxEnt) (x : Nat) : Nat :=
  let o := x - e.lstart
  if e.remote then (if e.step = 2 then 0 else if e.step = 1 then (2 ^ 64 - o) % 2 ^ 64 else o)
  else if e.step = 0 then e.pstart + o else if e.step = 1 then e.pstart - o else e.pstart

/-- The entries stand in ascending order without overlap. -/
def wellFormed : List AxEnt → Bool
  | [] => true
  | [_] => true
  | a :: b :: r => decide (a.lstart < b.lstart) && decide (a.lstart + a.len ≤ b.lstart) && wellFormed (b :: r)

/-! ### Walks (R283, R284, R287, R298) -/

/-- The outcome of a map: an entry, an absent range with its reason and the entry behind it, or the fault of the table's
own address. -/
inductive MapRes where
  | ok (e : AxEnt)
  | absent (reason : Nat) (e : Option AxEnt)
  | flt (f : Flt)
  deriving DecidableEq, Repr

/-- Who walks: the context, the cache unit, and the translation of an address. -/
structure Walker where
  ctx : Nat
  unit : Nat
  xl : State → Nat → Xl

def coreWalker (core x : Nat) : Walker := { ctx := x, unit := core, xl := fun s va => s.xlate core x va 16 false }

/-- Sixteen bytes of a table at its home slice. -/
def State.tableRead (s : State) (w : Walker) (va : Nat) : Except MapRes (List Byte) :=
  match w.xl s va with
  | .ok pa _ =>
    if ¬ isHbm pa then .error (.absent 4 none)
    else if s.poisoned pa 16 then .error (.absent 3 none)
    else .ok (s.bytes pa 16)
  | r => .error (.flt ((xlFlt va 0 r).getD {}))

/-- What the entry reached gives (R283). -/
def AxEnt.judge (e : AxEnt) : MapRes :=
  if ¬ e.valid then .absent 3 (some e) else if ¬ e.present then .absent 1 (some e) else .ok e

/-- A header's count, or the failure of an invalid header (R282, R283). -/
def headCount (bs : List Byte) : Except MapRes Nat :=
  let count := le bs 0 4
  let cap := le bs 4 4
  if count > cap ∨ cap = 0 ∨ cap > 65536 ∨ le bs 8 8 ≠ 0 then .error (.absent 4 none) else .ok count

/-- The place of a table's header (none) or entry (R282). -/
def axPlace (va : Nat) : Option Nat → Nat
  | none => va
  | some i => va + 16 + 16 * i

/-- The first `n` entries of a table. -/
def State.tableEntries (s : State) (w : Walker) (va n : Nat) : Except MapRes (List AxEnt) :=
  (List.range n).mapM fun i => (s.tableRead w (axPlace va (some i))).map entOf

/-- The items of a cache, and those that it holds of a table. -/
def State.axItems (s : State) (u : Nat) : List AxItem := get [] s.axis u
def AxItem.of (i : AxItem) (w : Walker) (va : Nat) : Bool := i.ctx == w.ctx && i.table == va
def State.axHeld (s : State) (w : Walker) (va : Nat) : List AxItem := (s.axItems w.unit).filter (·.of w va)

/-- The items that a cache holds at most (R287): 128 of a core, 32 of a stream engine. -/
def axRoom (u : Nat) : Nat := if u ≥ 1024 then 32 else 128

/-- A cache takes an item that a walk has read at the table's home slice. -/
def State.axKeep (s : State) (w : Walker) (va : Nat) (entry : Option Nat) (bs : List Byte) : State :=
  let rest := (s.axItems w.unit).filter fun i => !(i.of w va && i.entry == entry)
  let item : AxItem := { ctx := w.ctx, table := va, entry := entry, bytes := bs }
  { s with axis := put s.axis w.unit ((item :: rest).take (axRoom w.unit)) }

/-- A header or an entry as the cache holds it, or as it stands in the table; whether it is the table's (R298). -/
def State.lookItem (s : State) (w : Walker) (va : Nat) (entry : Option Nat) : Except MapRes (List Byte) × Bool × State :=
  let now := s.tableRead w (axPlace va entry)
  let held := ((s.axHeld w va).find? fun i => i.entry == entry).map (·.bytes)
  let (hit, s) : Option Bool × State :=
    if held.isSome ∧ held ≠ now.toOption then s.pick [true, false] else (some false, s)
  match (if hit = some true then held else none) with
  | some bs => (.ok bs, false, s)
  | none => (now, true, s)

/-- The cache takes what a walk has read at the table. -/
def State.axTake (s : State) (w : Walker) (va : Nat) (entry : Option Nat) (r : Except MapRes (List Byte)) (table : Bool) : State :=
  match r with
  | .ok bs => if table then s.axKeep w va entry bs else s
  | .error _ => s

/-- A walk reads its header or an entry through the cache (R287, R298). -/
def State.readItem (s : State) (w : Walker) (va : Nat) (entry : Option Nat) : Except MapRes (List Byte) × State :=
  let (r, table, s) := s.lookItem w va entry
  (r, s.axTake w va entry r table)

/-- The entry of `lo … hi - 1` that covers `x`, by halving from the lower middle, or none (R284; 13 R309). -/
def State.search (s : State) (w : Walker) (va x : Nat) : (fuel lo hi : Nat) → Except MapRes (Option AxEnt) × State
  | 0, _, _ => (.ok none, s)
  | n + 1, lo, hi =>
    if lo ≥ hi then (.ok none, s)
    else
      let mid := (lo + hi - 1) / 2
      match s.readItem w va (some mid) with
      | (.error r, s) => (.error r, s)
      | (.ok bs, s) =>
        let e := entOf bs
        if e.covers x then (.ok (some e), s)
        else if e.lstart ≤ x then s.search w va x n (mid + 1) hi
        else s.search w va x n lo mid

/-- A number is a power of two. -/
def isPow2 (n : Nat) : Bool := n == 2 ^ Nat.log2 n

/-- The binary search of a table of `n` entries, which reads at most ⌈log2 n⌉ of them and at least one (R284). Where `n` is a power of
two above 1, halving can take one read more: there the first middle entry counts as read, enters the cache and can fail the walk only
where it covers the index or cannot be read. Log entry 42, DEDUCED. -/
def State.seek (s : State) (w : Walker) (va x n : Nat) : Except MapRes (Option AxEnt) × State :=
  if n < 2 ∨ ¬ isPow2 n then s.search w va x 17 0 n
  else
    let m := n / 2 - 1
    let (r, table, s) := s.lookItem w va (some m)
    match r with
    | .error f => (.error f, s)
    | .ok bs =>
      let e := entOf bs
      if e.covers x then (.ok (some e), s.axTake w va (some m) r table)
      else if e.lstart ≤ x then s.search w va x 17 (m + 1) n
      else s.search w va x 17 0 m

/-- What the entry that a search found gives for an index (R283, R284). -/
def found : Except MapRes (Option AxEnt) → MapRes
  | .error r => r
  | .ok (some e) => e.judge
  | .ok none => .absent 0 none

/-- The walk of a table that is not well formed, of which `es` can be read: it reaches some entry that covers the index, one
that the cache still holds included, or none (R284, R298). -/
def State.strayWalk (s : State) (w : Walker) (va x n : Nat) (es : List (Nat × AxEnt)) : MapRes × State :=
  let kept := (s.axHeld w va).filterMap fun i => i.entry.map fun k => (k, entOf i.bytes)
  let reach := ((es ++ kept).filter fun p => p.2.covers x).eraseDups
  let failed : List (MapRes × Option (Nat × AxEnt)) := match (s.seek w va x n).1 with
    | .error r => [(r, none)]
    | .ok _ => []
  let (r, s) := s.pick (((reach.map fun (p : Nat × AxEnt) => (p.2.judge, some p)) ++ [(MapRes.absent 0 none, none), (.absent 3 none, none)] ++ failed).eraseDups)
  match r with
  | some (m, some (i, e)) => (m, s.axKeep w va (some i) e.bytes)
  | some (m, none) => (m, s)
  | none => (.absent 0 none, s)

/-- A walk of a table for an index (R284). Log entry 42, DEDUCED. -/
def State.walkTable (s : State) (w : Walker) (va x : Nat) : MapRes × State :=
  match s.readItem w va none with
  | (.error r, s) => (r, s)
  | (.ok h, s) => match headCount h with
    | .error r => (r, s)
    | .ok n =>
      let es := (List.range n).filterMap fun i => (s.tableRead w (axPlace va (some i))).toOption.map fun bs => (i, entOf bs)
      if wellFormed (vals es) then
        let (r, s) := s.seek w va x n
        (found r, s)
      else s.strayWalk w va x n es

/-- Map (R283) of axis `a` of a descriptor at an index below its extent. -/
def State.mapAxis (s : State) (w : Walker) (d : TDesc) (a x : Nat) : MapRes × State :=
  match d.map[a]? with
  | some (.inline pr st p) =>
    let e : AxEnt := { lstart := 0, len := nth d.ext a, pstart := p, flags := st + b2n pr * 4 }
    (if pr then .ok e else .absent 1 (some e), s)
  | some (.table va) =>
    s.walkTable w va x
  | none => (.absent 0 none, s)

/-! ### Translation of coordinates (R285) -/

/-- The outcome: the offset modulo 2^64 with what its entries say (speculative; the first read-only axis; the remote
entry with its axis), or the first failing axis. -/
inductive TRes where
  | ok (off : Nat) (spec : Bool) (ro : Option (Nat × Nat)) (remote : Option (Nat × AxEnt × Nat))
  | oor (axis index : Nat)
  | absent (axis index reason : Nat)
  | flt (f : Flt)
  deriving DecidableEq, Repr

/-- Takes the axes in ascending order. With `remote`, one remote axis is allowed: its offset is left out and reported. -/
def State.translate (s : State) (w : Walker) (d : TDesc) (remote : Bool) : (axes xs : List Nat) → TRes → TRes × State
  | a :: axes, x :: xs, .ok off spec ro rem =>
    if x ≥ nth d.ext a then (.oor a x, s)
    else
      let (r, s) := s.mapAxis w d a x
      match r with
      | .flt f => (.flt f, s)
      | .absent n _ => (.absent a x n, s)
      | .ok e =>
        if e.remote then
          if remote ∧ rem.isNone then
            s.translate w d remote axes xs (.ok off (spec || e.spec) ro (some (a, e, e.phys x)))
          else (.absent a x 2, s)
        else
          let ro := if ro.isNone ∧ e.ro then some (a, x) else ro
          s.translate w d remote axes xs (.ok ((off + e.phys x * nth d.stride a) % 2 ^ 64) (spec || e.spec) ro rem)
  | _, _, r => (r, s)

def State.translateAll (s : State) (w : Walker) (d : TDesc) (remote : Bool) (xs : List Nat) : TRes × State :=
  s.translate w d remote (List.range d.rank) xs (.ok 0 false none none)

/-- The byte address of an offset and, for nibbles, the nibble (R281, R285). -/
def TDesc.place (d : TDesc) (off : Nat) : Nat × Nat :=
  if d.type = 14 then (wrap 64 ((d.base : Int) + signed 64 off / 2), off % 2) else ((d.base + off) % 2 ^ 64, 0)

/-- sys.taux of the axis causes (R286). -/
def axAux (reason slot axis index : Nat) : W64 := w64 (index % 2 ^ 32 + axis * 2 ^ 32 + slot * 2 ^ 36 + reason * 2 ^ 40)

/-- The fault of a failing translation. -/
def TRes.flt? (slot : Nat) : TRes → Option Flt
  | .ok _ _ _ _ => none
  | .oor a x => some { code := cIndex, aux := axAux 0 slot a x }
  | .absent a x r => some { code := cAbsent, aux := axAux r slot a x }
  | .flt f => some f

/-! ### Gather and scatter (R300 to R303) -/

/-- What translation gives the lanes: an address and nibble with its speculative mark, a clipped lane, or a fault. -/
inductive TLane where
  | at_ (va nib : Nat) (spec : Bool)
  | clip
  | bad (f : Flt)
  deriving DecidableEq, Repr

/-- Translates the coordinates in each lane of a mask, under a MODE, from the registers that `rd` reads. -/
def State.tlanes (s : State) (gk : Nat) (mode : W32) (m : Mask) (rd : Nat → Nat → W32) (d : TDesc) (slot b : Nat) (wr : Bool) :
    Store TLane × State :=
  let w := coreWalker (s.gang gk).core (s.ctxOf (s.gang gk))
  (lanesOf m).foldl (fun (r : Store TLane × State) l =>
    let xs := (List.range d.rank).map fun i => (rd l (b + i)).toNat
    if mClip mode ∧ (List.range d.rank).any (fun i => decide (nth xs i ≥ nth d.ext i)) then (r.1 ++ [(l, .clip)], r.2)
    else
      let (t, s) := r.2.translateAll w d false xs
      match t with
      | .ok off spec ro _ =>
        match (if wr then ro else none) with
        | some (a, x) => (r.1 ++ [(l, .bad { code := cAbsent, aux := axAux 5 slot a x })], s)
        | none => (r.1 ++ [(l, .at_ (d.place off).1 (d.place off).2 spec)], s)
      | t => (r.1 ++ [(l, .bad ((t.flt? slot).getD {}))], s)) ([], s)

def tlaneBad (ts : Store TLane) : Store Flt := ts.filterMap fun p => match p.2 with | .bad f => some (p.1, f) | _ => none
def tlaneClip (ts : Store TLane) : Mask := maskOf fun l => find ts l == some .clip
def tlaneAt (ts : Store TLane) : Mask := maskOf fun l => match find ts l with | some (.at_ _ _ _) => true | _ => false

/-- The names 2 and 3 of each lane hold its address, name 4 zero, name 5 its nibble. -/
def tlaneVals (ts : Store TLane) : Store W32 :=
  ts.foldl (fun m p => match p.2 with
    | .at_ va n _ =>
      put (put (put m (128 * p.1 + 2) (w32 va)) (128 * p.1 + 3) (w32 (va / 2 ^ 32))) (128 * p.1 + 5) (w32 n)
    | _ => m) []

/-- sys.gflags with a bit set. -/
def State.gflag (s : State) (gk : Nat) (m : W32) : State :=
  let g := s.gang gk
  s.setGang gk { g with sys := { g.sys with gflags := g.sys.gflags ||| m } }

/-- The registers that TLD writes (R300). -/
def tldRegs (t d : Nat) : List Nat := if elemBytes t = 8 then [d, d + 1] else [d]

/-- TLD in the lanes of a mask, its coordinates and MODE given, older than the store-queue entries from `before` on (R301,
R302): a clipped lane and poison at a speculative element give zero. -/
def State.tldRun (s : State) (gk before : Nat) (mode : W32) (fs : List (Nat × Nat)) (m : Mask) (rd : Nat → Nat → W32) (D : TDesc) (slot d b : Nat) :
    LoadRes :=
  let (ts, s) := s.tlanes gk mode m rd D slot b false
  let n := elemBytes D.type
  let regs := tldRegs D.type d
  let x := xAccess n false regs 2 4
  let vs := tlaneVals ts
  match s.loadRun gk before x false fs (tlaneAt ts) (fun l r => get 0 vs (128 * l + r)) with
  | .ran s out bad =>
    let spec (l : Nat) : Bool := match find ts l with | some (.at_ _ _ sp) => sp | _ => false
    let zero := bad.filter fun p => p.2.code == cPoison && spec p.1
    let bad := bad.filter fun p => (find zero p.1).isNone
    let out := if D.type = 14 then mapVals (fun l ws => ws.map fun w => w32 (w.toNat / 16 ^ (get 0 vs (128 * l + 5)).toNat % 16)) out else out
    let zeros := (zero.map (·.1) ++ lanesOf (tlaneClip ts)).map fun l => (l, regs.map fun _ => (0 : W32))
    let s := if tlaneClip ts = 0 then s else s.gflag gk 1
    let s := if zero.isEmpty then s else s.gflag gk 2
    let s := ts.foldl (fun s p => match p.2 with
      | .at_ va _ _ => match s.laneAt gk x 0 true va with | .ok f => s.dropLines (s.gang gk).core f n | .error _ => s
      | _ => s) s
    .ran s (merge out zeros) (merge bad (tlaneBad ts))
  | r => r

/-- The entry of a TLD whose translation goes on after it has issued holds its descriptor as at issue, in the words from 4096
on (R300, R303). -/
def Entry.withDesc (e : Entry) (d : TDesc) : Entry :=
  { e with vals := (List.range 32).foldl (fun m i => put m (4096 + i) (w32 (le d.bytes (4 * i) 4))) e.vals }
def Entry.descOf (e : Entry) : TDesc :=
  Sys2Proof.Machine.descOf ((List.range 32).flatMap fun i => toBytes 4 (get 0 e.vals (4096 + i)).toNat)

/-- Such a TLD makes an attempt. -/
def State.tldLate (s : State) (gk : Nat) (e : Entry) (d a b : Nat) : LoadRes :=
  s.tldRun gk e.id e.mode e.flits e.lanes e.readV e.descOf a d b

/-- TLD. Under MODE.dfr its translation and its access take place at issue, or later: a fault is then deferred (R303). Log entry
27, DEDUCED. -/
def execTld (d a b : BitVec 6) : State → Outcome State Fault Refusal :=
  issue (.tld d a b) fun e s =>
    match (s.group e.g.group).slot a.toNat with
    | none => s.opFormat e 20
    | some D =>
      if e.act = 0 then s.advance e.gk e.ss
      else if ¬ s.crossbarOk e.gk (xAccess (elemBytes D.type) false [] 2 4) then s.stall e.gk e.ss (.budget 4)
      else
        let regs := tldRegs D.type d.toNat
        let (after, s) := if e.late then s.pick [false, true] else (some false, s)
        if e.g.unread e.g.work.nextId then
          if e.late then s.deliverLate e ((s.entryOf e (.tld d a b)).withDesc D) regs else s.stall e.gk e.ss (.ordered e.g.work.nextId)
        else match s.tldRun e.gk e.g.work.nextId e.mode e.flits e.act e.g.readV D a.toNat d.toNat b.toNat with
        | .blocked qs => s.stall e.gk e.ss (.blocking qs)
        | .ordered => s.stall e.gk e.ss (.ordered (min e.g.work.ordered e.g.work.nextId))
        | .link => s.stall e.gk e.ss .link
        | .waits s ws => s.stall e.gk e.ss (.window ws)
        | .asked t fs =>
          if e.late then t.deliverLate e { (t.entryOf e (.tld d a b)).withDesc D with flits := fs } regs
          else t.stall e.gk e.ss (.flits fs)
        | .ran t out bad =>
          if after = some true then s.deliverLate e ((s.entryOf e (.tld d a b)).withDesc D) regs
          else t.deliverIssue e regs false out bad none none

/-- The store that a TST element makes: by its width, or its own name for a nibble. -/
def tstInstr (t : Nat) (i : Instr) : Instr :=
  match elemBytes t with
  | 8 => .stxD 0 2 4
  | 4 => .stxW 0 2 4
  | 2 => .stxH 0 2 4
  | _ => if t = 14 then i else .stxB 0 2 4

def execTst (d a b : BitVec 6) : State → Outcome State Fault Refusal :=
  issue (.tst d a b) fun e s =>
    match (s.group e.g.group).slot a.toNat with
    | none => s.opFormat e 20
    | some D =>
      let (ts, s) := s.tlanes e.gk e.mode e.act e.g.readV D a.toNat b.toNat true
      let i := tstInstr D.type (.tst d a b)
      let data := (lanesOf e.act).foldl (fun m l =>
        put (put m (128 * l) (e.g.readV l d.toNat)) (128 * l + 1) (e.g.readV l (d.toNat + 1))) []
      let ent : Entry := { s.entryOf e i with lanes := tlaneAt ts, vals := merge data (tlaneVals ts) }
      let s := if tlaneClip ts = 0 then s else s.gflag e.gk 1
      if e.act = 0 then s.advance e.gk e.ss
      else match accessOf e.mode i with
        | none => s
        | some x => s.storeLanes e ent x 1 true (tlaneBad ts) (tlaneClip ts)

/-! ### Loading, storing and permuting descriptors (R291, R292) -/

/-- The pair address plus an immediate, in the lowest active lane. -/
def Issue.pairAt (e : Issue) (a : BitVec 6) (i : BitVec 12) : Nat := pairPlus a.toNat i.toInt (e.g.readV (lowest e.act))

/-- Sixteen-byte pieces `0 … n - 1` of a range as lanes of one access. -/
def pieces (va : Nat) : Access :=
  { size := 16, align := 16, regs := [0, 1, 2, 3], aregs := [], addr := fun v => (va + (v 0).toNat) % 2 ^ 64 }

def execTdld (d a : BitVec 6) (i : BitVec 12) : State → Outcome State Fault Refusal :=
  issue (.tdld d a i) fun e s =>
    let va := e.pairAt a i
    if e.act = 0 then s.advance e.gk e.ss
    else if va % 16 ≠ 0 then s.precise e (alignFlt va)
    else if e.g.unread e.g.work.nextId then s.stall e.gk e.ss (.ordered e.g.work.nextId)
    else match s.loadRun e.gk e.g.work.nextId (pieces va) false e.flits 0xFF#32 (fun l _ => w32 (16 * l)) with
      | .blocked qs => s.stall e.gk e.ss (.blocking qs)
      | .link => s.stall e.gk e.ss .link
      | .asked s fs => s.stall e.gk e.ss (.flits fs)
      | .ordered => s.stall e.gk e.ss (.ordered (min e.g.work.ordered e.g.work.nextId))
      | .waits s ws => s.stall e.gk e.ss (.window ws)
      | .ran s out bad =>
        if ¬ bad.isEmpty then (s.logPoison e.gk bad).precise e ((vals bad).headD {})
        else
          let bs := out.flatMap fun p => p.2.flatMap fun w => toBytes 4 w.toNat
          if ¬ descLegal bs then s.opFormat e 19
          else
            let g := s.group e.g.group
            (s.setGroup e.g.group { g with td := put g.td d.toNat bs }).advance e.gk e.ss

/-- The parts of a range within 64 KiB pages. -/
def segments (va n : Nat) : List (Nat × Nat) :=
  let first := min n (65536 - va % 65536)
  if first < n then [(va, first), (va + first, n - first)] else [(va, n)]

/-- TDST (12 R291). Log entry 43, DEDUCED. -/
def execTdst (d a : BitVec 6) (i : BitVec 12) : State → Outcome State Fault Refusal :=
  issue (.tdst d a i) fun e s =>
    let va := e.pairAt a i
    if e.act = 0 then s.advance e.gk e.ss
    else match find (s.group e.g.group).td d.toNat with
    | none => s.opFormat e 20
    | some bs =>
      if ¬ e.g.work.stores.isEmpty then s.stall e.gk e.ss .older
      else if va % 16 ≠ 0 then s.precise e (alignFlt va)
      else
        let x : Access := pieces va
        let (_, bad) := s.laneAll e.gk x 1 true ((List.range 8).map fun l => (l, (va + 16 * l) % 2 ^ 64))
        match vals bad with
        | f :: _ => s.precise e f
        | [] =>
          let ps := (segments va 128).filterMap fun (p, n) =>
            (s.laneAt e.gk { x with size := n, align := 1 } 1 true p).toOption.map fun f => (p, n, f)
          let ok : Store Nat := ps.map fun p => (0, p.2.2)
          if s.hostWait e.gk ok then s.stall e.gk e.ss .link
          else match s.coreAsks e.gk 1 128 e.flits ok with
          | .wait s fs => s.stall e.gk e.ss (.flits fs)
          | .go =>
            let s := ps.foldl (fun s (p, n, f) =>
              ((s.performLane e.gk p f ((bs.drop (p - va)).take n)).rangeSeen e.gk f n).meter (s.partOf e.g) (corePort e.g.core) n f) s
            (s.refresh e.gk).advance e.gk e.ss

/-- The permutation that a word spells for a rank (R292). -/
def permOf (w rank : Nat) : Option (List Nat) :=
  let p := (List.range rank).map fun i => bits w (3 * i) 3
  if w / 2 ^ (3 * rank) = 0 ∧ (List.range rank).all p.contains then some p else none

def execAxperm (d a : BitVec 6) : State → Outcome State Fault Refusal :=
  issue (.axperm d a) fun e s =>
    if e.act = 0 then s.advance e.gk e.ss
    else match (s.group e.g.group).slot d.toNat with
    | none => s.opFormat e 20
    | some D =>
      match permOf (e.low a) D.rank with
      | none => s.opFormat e 19
      | some p =>
        let D' := { D with
          stride := p.map (nth D.stride), ext := p.map (nth D.ext), map := p.filterMap fun a => D.map[a]? }
        (s.setSlot e.g.group d.toNat D').advance e.gk e.ss

/-! ### Edits (R290, R293, R294) -/

/-- The slot and axis of a control word. -/
def ctlOf (w : Nat) (all : Bool) : Option (Option (Nat × Nat)) :=
  if w / 2 ^ 9 ≠ 0 ∨ bit w 7 ∨ bit w 3 then none
  else if bit w 8 then (if all ∧ bits w 0 7 = 0 then some none else none)
  else some (some (bits w 0 3, bits w 4 3))

/-- The part of an entry from logical index `a` on, `n` indices long: it keeps flags and step (R293). -/
def AxEnt.part (e : AxEnt) (a n : Nat) : AxEnt :=
  let o := a - e.lstart
  { e with lstart := a, len := n, pstart := if e.step = 0 then e.pstart + o else if e.step = 1 then e.pstart - o else e.pstart }

/-- What remains of an entry outside `s … s + n - 1`. -/
def AxEnt.outside (e : AxEnt) (s n : Nat) : List AxEnt :=
  let endE := e.lstart + e.len
  if endE ≤ s ∨ s + n ≤ e.lstart then [e]
  else (if e.lstart < s then [e.part e.lstart (s - e.lstart)] else [])
    ++ (if s + n < endE then [e.part (s + n) (endE - (s + n))] else [])

/-- Inserts by logical start. -/
def insertEnt (e : AxEnt) : List AxEnt → List AxEnt
  | [] => [e]
  | x :: xs => if e.lstart < x.lstart then e :: x :: xs else x :: insertEnt e xs

/-- An edit: its effect on the entries, and on the extent. -/
structure Edit where
  legal : Bool
  table : List AxEnt → List AxEnt
  ext : Nat

def editSet (E : AxEnt) (X : Nat) : Edit :=
  { legal := E.valid && decide (E.lstart + E.len ≤ X)
    table := fun es => insertEnt E (es.flatMap fun x => x.outside E.lstart E.len), ext := X }

/-- AXINS: the entry that holds the place strictly inside is split, later ones move up. -/
def editIns (E : AxEnt) (X : Nat) : Edit :=
  let move (x : AxEnt) : List AxEnt :=
    if x.lstart ≥ E.lstart then [{ x with lstart := x.lstart + E.len }]
    else if x.lstart + x.len > E.lstart then
      [x.part x.lstart (E.lstart - x.lstart),
       { x.part E.lstart (x.lstart + x.len - E.lstart) with lstart := E.lstart + E.len }]
    else [x]
  { legal := E.valid && decide (E.lstart ≤ X) && decide (X + E.len ≤ 2 ^ 32 - 1)
    table := fun es => insertEnt E (es.flatMap move), ext := X + E.len }

/-- AXDEL: the range goes, later entries move down. -/
def editDel (s n X : Nat) : Edit :=
  { legal := decide (1 ≤ n) && decide (s + n ≤ X) && decide (n < X)
    table := fun es => (es.flatMap fun x => x.outside s n).map fun x =>
      if x.lstart ≥ s + n then { x with lstart := x.lstart - n } else x
    ext := X - n }

/-- Performs an edit at the table's home slice, indivisibly: the slot's extent changes with it (R294). A protection word of the
table that is poisoned refuses it (log entry 42, DEDUCED). -/
def State.editTable (s : State) (e : Issue) (slot axis va : Nat) (D : TDesc) (ed : Edit) : State :=
  let x := s.ctxOf e.g
  let w := coreWalker e.g.core x
  let pa (a : Nat) : Except Flt Nat :=
    match s.xlate e.g.core x a 16 true with
    | .ok pa _ => .ok pa
    | r => .error ((xlFlt a 1 r).getD {})
  match pa va with
  | .error f => s.precise e f
  | .ok h =>
    if ¬ isHbm h ∨ s.poisoned h 16 then s.opFormat e 17
    else match headCount (s.bytes h 16) with
    | .error _ => s.opFormat e 17
    | .ok n =>
      match s.tableEntries w va n with
      | .error (.flt f) => s.precise e f
      | .error _ => s.opFormat e 17
      | .ok es =>
        let es' := ed.table es
        if ¬ ed.legal ∨ es'.any fun x => decide (x.lstart + x.len > 2 ^ 32) then s.opFormat e 17
        else if es'.length > le (s.bytes h 16) 4 4 then s.opFormat e 18
        else match es'.zipIdx.mapM fun (x, i) => (pa (va + 16 + 16 * i)).map fun p => (x, p) with
          | .error f => s.precise e f
          | .ok ws =>
            if ws.any fun (_, p) => !isHbm p || s.poisoned p 16 then s.opFormat e 17
            else
              let put_ (s : State) (p : Nat) (bs : List Byte) : State :=
                (((s.writing e.gk p bs.length).storeAll p bs).rangeSeen e.gk p bs.length).meter (s.partOf e.g) (corePort e.g.core) bs.length p
              let s := ws.foldl (fun s (x, p) => put_ s p x.bytes) s
              let s := (put_ s h (toBytes 4 es'.length)).refresh e.gk
              (s.setSlot e.g.group slot { D with ext := D.ext.set axis ed.ext }).advance e.gk e.ss

/-- An edit by control word `a`: the slot, axis and map, then the edit. -/
def State.edit (s : State) (e : Issue) (a : BitVec 6) (inline : (D : TDesc) → (slot axis : Nat) → State) (ed : (X : Nat) → Edit) : State :=
  if e.act = 0 then s.advance e.gk e.ss
  else match ctlOf (e.low a) false with
  | some (some (slot, axis)) =>
    match (s.group e.g.group).slot slot with
    | none => s.opFormat e 20
    | some D =>
      if axis ≥ D.rank then s.opFormat e 20
      else match D.map[axis]? with
      | some (.table va) =>
        if s.olderStore e.gk false [(0, 2 ^ 64)] then s.stall e.gk e.ss .older
        else s.editTable e slot axis va D (ed (nth D.ext axis))
      | _ => inline D slot axis
  | _ => s.opFormat e 20

/-- The entry in four registers. -/
def Issue.entry (e : Issue) (b : BitVec 6) : AxEnt :=
  let w (i : Nat) : Nat := (e.g.readV (lowest e.act) (b.toNat + i)).toNat
  { lstart := w 0, len := w 1, pstart := w 2, flags := w 3 }

def execAxset (a b : BitVec 6) : State → Outcome State Fault Refusal :=
  issue (.axset a b) fun e s =>
    let E := e.entry b
    s.edit e a (fun D slot axis =>
      if ¬ E.valid then s.opFormat e 17
      else if E.lstart ≠ 0 ∨ E.len ≠ nth D.ext axis ∨ E.remote ∨ E.spec ∨ E.ro then s.opFormat e 20
      else (s.setSlot e.g.group slot { D with map := D.map.set axis (.inline E.present E.step E.pstart) }).advance e.gk e.ss)
      (editSet E)

def execAxins (a b : BitVec 6) : State → Outcome State Fault Refusal :=
  issue (.axins a b) fun e s =>
    let E := e.entry b
    s.edit e a (fun _ _ _ => s.opFormat e (if E.valid then 20 else 17)) (editIns E)

def execAxdel (a b : BitVec 6) : State → Outcome State Fault Refusal :=
  issue (.axdel a b) fun e s =>
    let E := e.entry b
    s.edit e a (fun _ _ _ => s.opFormat e 20) (editDel E.lstart E.len)

/-! ### Invalidation (R296, R297) -/

/-- AXINV starts the removal of the named items and retires. -/
def State.axinv (s : State) (e : Issue) (scope : Nat) (a : BitVec 6) : State :=
  let start (t : Option Nat) : State :=
    (s.setGang e.gk { e.g with axinv := e.g.axinv ++ [(scope, t)] }).advance e.gk e.ss
  if e.act = 0 then s.advance e.gk e.ss
  else match ctlOf (e.low a) true with
  | some none => start none
  | some (some (slot, axis)) =>
    match (s.group e.g.group).slot slot with
    | none => s.opFormat e 20
    | some D =>
      match (if axis < D.rank then D.map[axis]? else none) with
      | some (.table va) => start (some va)
      | _ => s.opFormat e 20
  | none => s.opFormat e 20

def execAxinvCore (a : BitVec 6) : State → Outcome State Fault Refusal := issue (.axinvCore a) fun e s => s.axinv e 0 a
def execAxinvCns (a : BitVec 6) : State → Outcome State Fault Refusal := issue (.axinvCns a) fun e s => s.axinv e 1 a
def execAxinvDev (a : BitVec 6) : State → Outcome State Fault Refusal := issue (.axinvDev a) fun e s => s.axinv e 2 a

/-- The oldest removal that a gang has started takes place. -/
def State.axRemove (s : State) (gk : Nat) : State :=
  let g := s.gang gk
  match g.axinv with
  | [] => s
  | (scope, t) :: rest =>
    let x := s.ctxOf g
    let inScope (u : Nat) : Bool :=
      match scope with
      | 0 => u == g.core
      | 1 => decide (u < 1024) && u / 4 == g.core / 4
      | _ => true
    let keep (i : AxItem) : Bool := !(i.ctx == x && (match t with | some va => i.table == va | none => true))
    let s := { s with axis := mapVals (fun u is => if inScope u then is.filter keep else is) s.axis }
    s.setGang gk { g with axinv := rest }

/-- No removal of the gang is under way, and no TLD that translates after its issue (R297). -/
def Gang.fenced (g : Gang) : Bool :=
  g.axinv.isEmpty && g.work.flight.all fun d => match d.entry.map Entry.instr with
    | some (Instr.tld _ _ _) => false
    | _ => true

def execAxfence : State → Outcome State Fault Refusal :=
  issue .axfence fun e s => if e.g.fenced then s.advance e.gk e.ss else s.stall e.gk e.ss .removal

/-! ### Querying a translation (R299) -/

/-- The word of an entry and its offset. -/
def qryWord (e : AxEnt) (x : Nat) (present : Bool) : Nat :=
  e.chip * 2 ^ 41 + e.tier * 2 ^ 39 + e.step * 2 ^ 37 + b2n e.ro * 2 ^ 36 + b2n e.remote * 2 ^ 35 + b2n e.spec * 2 ^ 34
    + b2n present * 2 ^ 33 + 2 ^ 32 + (if present then e.phys x % 2 ^ 32 else 0)

def execAxqry (d a b : BitVec 6) : State → Outcome State Fault Refusal :=
  issue (.axqry d a b) fun e s =>
    match (s.group e.g.group).slot a.toNat with
    | none => s.opFormat e 20
    | some D =>
      let w := coreWalker e.g.core (s.ctxOf e.g)
      let (rs, s) := (lanesOf e.act).foldl (fun (r : Store Nat × State) l =>
        let x := (e.g.readV l b.toNat).toNat
        let ax := (e.g.readV l (b.toNat + 1)).toNat
        if ax ≥ D.rank ∨ x ≥ nth D.ext ax then (put r.1 l (2 ^ 53), r.2)
        else
          let (m, s) := r.2.mapAxis w D ax x
          (put r.1 l (match m with
            | .ok ent => qryWord ent x true
            | .absent 1 (some ent) => qryWord ent x false
            | _ => 0), s)) ([], s)
      let g := ((s.gang e.gk).writePairs e.act d.toNat fun l => w64 (get 0 rs l)).laterWriters e.act [d.toNat, d.toNat + 1]
      (s.setGang e.gk g).advance e.gk e.ss

end Sys2Proof.Machine
end

