-- ==== Sys2Proof/Machine/Special.lean ====
section
/-! DEFINITION. EXP2, LOG2, SIN and COS (02 R60): each exact value is enclosed between two fixed-point numbers; where both
agree on the bits that rounding needs, those bits are the value's own. Where they do not (log entry 9, DESIGN CHOICE) the result is
`Config.undecided`. Fixed-point numbers count multiples of `2^-p`. -/

namespace Sys2Proof.Machine

/-- The terms of `Σ z^(2i+1)/(2i+1)` for `z = a/b`, in multiples of `2^-p`, from term `i` on; `pw` is `z^(2i+1)`. -/
def atanhGo (a b : Nat) : (n pw i : Nat) → Nat
  | 0, _, _ => 0
  | n + 1, pw, i => pw / (2 * i + 1) + atanhGo a b n (pw * (a * a) / (b * b)) (i + 1)

/-- `2^p · atanh (a/b)`, below the true value by at most `2 n` units for `a/b ≤ 1/3` and `n` terms. -/
def atanhFix (p a b n : Nat) : Nat := atanhGo a b n (2 ^ p * a / b) 0

/-- `2^p · ln 2 = 2^p · 2 atanh (1/3)`, low by at most a few units per term. -/
def ln2Fix (p : Nat) : Nat := 2 * atanhFix p 1 3 (p / 3 + 4)

/-- The alternating terms of `arctan (1/k)`: positive and negative sums. -/
def atanGo (k : Nat) : (n pw i : Nat) → Int
  | 0, _, _ => 0
  | n + 1, pw, i => ((pw / (2 * i + 1) : Nat) : Int) - atanGo k n (pw / (k * k)) (i + 1)

/-- `2^p · π` by Machin's formula, within `40 (p + 4)` units. -/
def piFix (p : Nat) : Nat :=
  (16 * atanGo 5 (p / 4 + 4) (2 ^ p / 5) 0 - 4 * atanGo 239 (p / 15 + 4) (2 ^ p / 239) 0).toNat

/-- The terms of `e^y`, from term `i` on; `t` is `y^i/i!`. -/
def expGo (p y : Nat) : (n t i : Nat) → Nat
  | 0, _, _ => 0
  | n + 1, t, i => t + expGo p y n (t * y / 2 ^ p / (i + 1)) (i + 1)

/-- The alternating terms of sine (`i = 1`) or cosine (`i = 0`); `t` is `y^i/i!`. -/
def trigGo (p y : Nat) : (n t i : Nat) → Int
  | 0, _, _ => 0
  | n + 1, t, i => (t : Int) - trigGo p y n (t * y / 2 ^ p * y / 2 ^ p / ((i + 1) * (i + 2))) (i + 2)

def sinFix (p y n : Nat) : Int := trigGo p y n y 1
def cosFix (p y n : Nat) : Int := trigGo p y n (2 ^ p) 0

/-- A magnitude between `lo · 2^-p` and `hi · 2^-p`, never itself dyadic: decided when both ends agree on `workBits`
bits, else open. -/
def enclosed (neg : Bool) (p : Nat) (lo hi : Int) (n : Nat) : Exact :=
  if lo ≤ 0 then .open_ neg n
  else
    let l := lo.toNat
    let s := Nat.log2 l + 1 - workBits
    if hi.toNat / 2 ^ s = l / 2 ^ s then .mag neg (l / 2 ^ s) ((s : Int) - (p : Int)) true else .open_ neg n

/-- The working precision and the slack of every enclosure. -/
def fixBits : Nat := 420
def slack (p : Nat) : Int := 64 * (p : Int) + 64

/-- The magnitude `2^k`. -/
def powTwo (neg : Bool) (k : Int) : Exact := .mag neg 1 k false

/-- A value just above (or just below) 1, closer than any format can tell (02 R53). -/
def nearOne (above : Bool) : Exact :=
  if above then .mag false (2 ^ 200) (-200) true else .mag false (2 ^ 200 - 1) (-200) true

/-- EXP2 of a finite nonzero magnitude. `n` names the open value. -/
def exp2Mag (neg : Bool) (m : Nat) (e : Int) (n : Nat) : Exact :=
  let top : Int := (Nat.log2 m : Int) + e
  if top > 12 then .mag false 1 (if neg then -(2 ^ 13) else 2 ^ 13) true
  else if top < -150 then nearOne (!neg)
  else
    let p := fixBits
    let (i, r, k) := truncAt m e 0
    if r = 0 then powTwo false (if neg then -(i : Int) else (i : Int))
    else
      let f := if neg then 2 ^ k - r else r           -- the fraction above the floor, of 2^k
      let fl : Int := if neg then -(i : Int) - 1 else (i : Int)
      let lo := f * 2 ^ p / 2 ^ k
      let l2 := ln2Fix p
      let yl := lo * l2 / 2 ^ p
      let yh := (lo + 1) * (l2 + 4 * p) / 2 ^ p + 1
      let a : Int := (expGo p yl (p / 3) (2 ^ p) 0 : Nat)
      let b : Int := (expGo p yh (p / 3) (2 ^ p) 0 : Nat)
      match enclosed false p (a - slack p) (min (b + slack p) (2 ^ (p + 1) - 1)) n with
      | .mag s m' e' more => .mag s m' (e' + fl) more
      | x => x

/-- LOG2 of a positive magnitude. -/
def log2Mag (m : Nat) (e : Int) (n : Nat) : Exact :=
  let t := Nat.log2 m
  let k : Int := (t : Int) + e
  let r := m - 2 ^ t
  if r = 0 then (if k = 0 then .zero false else exactOf (decide (k < 0)) k.natAbs 0)
  else
    let p := fixBits
    let s := 2 * atanhFix p r (2 ^ (t + 1) + r) (p / 3 + 4)        -- ln (1 + r/2^t)
    let l2 := ln2Fix p
    let lo : Int := ((s * 2 ^ p / (l2 + 4 * p) : Nat) : Int) - 1
    let hi : Int := (((s + 4 * p) * 2 ^ p / l2 : Nat) : Int) + 1
    if k ≥ 0 then enclosed false p (k * 2 ^ p + lo) (k * 2 ^ p + hi) n
    else enclosed true p (-k * 2 ^ p - hi) (-k * 2 ^ p - lo) n

/-- SIN (`isCos = false`) and COS of a finite nonzero magnitude in radians. A small x has a sine below x by less than x³/6,
which is closer than 2^-100 units of its last place. The argument is `q` quarter turns and a
rest `y`; the precision grows with the argument, so that the error of `q` quarter turns stays far below `y`. -/
def trigMag (isCos neg : Bool) (m : Nat) (e : Int) (n : Nat) : Exact :=
  let top : Int := (Nat.log2 m : Int) + e
  if isCos ∧ top < -150 then nearOne false
  else if ¬ isCos ∧ top < -80 then .mag neg (m * 2 ^ 100 - 1) (e - 100) true
  else
    let p := fixBits + 2 * top.toNat
    let x := (truncAt m e (-(p : Int))).1
    let h := piFix p / 2
    let q := x / h
    let y := x % h
    let err := (q + 1) * 20 * (p + 8) + 2
    let yl := y - err
    let yh := y + err
    let terms := p / 4 + 8
    let odd := q % 2 == 1
    let sgn := if isCos then q % 4 == 1 || q % 4 == 2 else neg != (q % 4 == 2 || q % 4 == 3)
    let cap (v : Int) : Int := min v (2 ^ p - 1)
    if isCos != odd then enclosed sgn p (cosFix p yh terms - slack p) (cap (cosFix p yl terms + slack p)) n
    else enclosed sgn p (sinFix p yl terms - slack p) (cap (sinFix p yh terms + slack p)) n

/-- The four functions with their special operands (R60). `fn` and `fmt` name the function and the format in
`Config.undecided`. -/
def exp2E (fmt bits : Nat) : Val → Exact × Flags
  | .nan s => (.nan, if s then nvF else 0)
  | .inf a => (if a then .zero false else .inf false, 0)
  | .fin a m e => if m = 0 then (powTwo false 0, 0) else (exp2Mag a m e (Config.undecided 0 fmt bits), 0)

def log2E (fmt bits : Nat) : Val → Exact × Flags
  | .nan s => (.nan, if s then nvF else 0)
  | .inf a => if a then (.nan, nvF) else (.inf false, 0)
  | .fin a m e =>
    if m = 0 then (.inf true, dzF)
    else if a then (.nan, nvF)
    else (log2Mag m e (Config.undecided 1 fmt bits), 0)

def sinE (fmt bits : Nat) : Val → Exact × Flags
  | .nan s => (.nan, if s then nvF else 0)
  | .inf _ => (.nan, nvF)
  | .fin a m e => if m = 0 then (.zero a, 0) else (trigMag false a m e (Config.undecided 2 fmt bits), 0)

def cosE (fmt bits : Nat) : Val → Exact × Flags
  | .nan s => (.nan, if s then nvF else 0)
  | .inf _ => (.nan, nvF)
  | .fin a m e => if m = 0 then (powTwo false 0, 0) else (trigMag true a m e (Config.undecided 3 fmt bits), 0)

end Sys2Proof.Machine
end

