-- ==== Sys2Proof/Machine/Compute.lean ====
section
/-! DEFINITION. The compute family (chapter 04): arithmetic, logic, shifts, bit fields, comparison, conversion, moves,
predicates, lane exchange, votes, random numbers and system-register reads. -/

namespace Sys2Proof.Machine

open Host (Outcome)

/-! ### Binary arithmetic (R96 to R98) -/

/-- Element by element over MODE.type: an integer rule, or a floating rule delivered under MODE.rnd and MODE.ftz. -/
def binary (int : Nat → Bool → Int → Int → Nat × Bool) (flt : Bool → Val → Val → Exact × Flags) (a b : Nat) : Kernel :=
  fun env l =>
    let m := env.mode
    let t := mType m
    let x := env.value t l a
    let y := env.value t l b
    if isFlt t then
      let f := tyFmt t
      mapElems env l t (tyCount t) true fun i u =>
        let (r, fl) := flt (mRnd m == 2) (f.decodeZ (mFtz m) (element t i x)) (f.decodeZ (mFtz m) (element t i y))
        let (bs, fl') := f.deliver (mRnd m) u (mFtz m) r
        (bs, orF fl fl', false)
    else
      mapElems env l t (tyCount t) false fun i _ =>
        let (bs, sat) := int t (mSat m) (intVal t (element t i x)) (intVal t (element t i y))
        (bs, 0, sat)

def kAdd := binary (fun t sat x y => intFix t sat (x + y)) addE
def kSub := binary (fun t sat x y => intFix t sat (x - y)) (fun rdn x y => addE rdn x (negV y))
def kMul := binary (fun t sat x y => intFix t sat (x * y)) (fun _ => mulE)
def kMulh := binary (fun t _ x y => (wrap (tyWidth t) (x * y / 2 ^ tyWidth t), false)) (fun _ => mulE)

/-- Integer DIV: truncation; a zero divisor gives all ones (R97). -/
def intDiv (t : Nat) (sat : Bool) (x y : Int) : Nat × Bool :=
  if y = 0 then (2 ^ tyWidth t - 1, false) else intFix t sat (Int.tdiv x y)

/-- REM: the sign of x; a zero divisor gives x (R97). -/
def intRem (t : Nat) (_ : Bool) (x y : Int) : Nat × Bool :=
  if y = 0 then (wrap (tyWidth t) x, false) else (wrap (tyWidth t) (Int.tmod x y), false)

def kDiv := binary intDiv (fun _ => divE)
def kRem := binary intRem (fun _ => divE)

/-- MIN and MAX never round (R93, R97). -/
def kMinMax (isMax : Bool) (a b : Nat) : Kernel := fun env l =>
  let m := env.mode
  let t := mType m
  let x := env.value t l a
  let y := env.value t l b
  mapElems env l t (tyCount t) false fun i _ =>
    let p := element t i x
    let q := element t i y
    if isFlt t then
      let (bs, fl) := minmax (tyFmt t) (mFtz m) isMax p q
      (bs, fl, false)
    else (if decide (intVal t p < intVal t q) != isMax then p else q, 0, false)

def execAdd (d a b : BitVec 6) : State → Outcome State Fault Refusal := compute (.add d a b) (kAdd a.toNat b.toNat)
def execSub (d a b : BitVec 6) : State → Outcome State Fault Refusal := compute (.sub d a b) (kSub a.toNat b.toNat)
def execMul (d a b : BitVec 6) : State → Outcome State Fault Refusal := compute (.mul d a b) (kMul a.toNat b.toNat)
def execMulh (d a b : BitVec 6) : State → Outcome State Fault Refusal := compute (.mulh d a b) (kMulh a.toNat b.toNat)
def execMin (d a b : BitVec 6) : State → Outcome State Fault Refusal := compute (.min d a b) (kMinMax false a.toNat b.toNat)
def execMax (d a b : BitVec 6) : State → Outcome State Fault Refusal := compute (.max d a b) (kMinMax true a.toNat b.toNat)
def execDiv (d a b : BitVec 6) : State → Outcome State Fault Refusal := compute (.div d a b) (kDiv a.toNat b.toNat)
def execRem (d a b : BitVec 6) : State → Outcome State Fault Refusal := compute (.rem d a b) (kRem a.toNat b.toNat)

/-! ### Unary arithmetic and special functions (R99) -/

/-- Floating ABS and NEG change the sign bit alone; under ftz a subnormal first reads as zero of its sign. -/
def signOp (f : Fmt) (ftz neg : Bool) (x : Nat) : Nat :=
  let s := bit x (f.eb + f.fb)
  let pat := bits x 0 (f.eb + f.fb)
  let pat := if ftz ∧ pat < 2 ^ f.fb then 0 else pat
  f.withSign (if neg then !s else false) pat

def kSign (neg : Bool) (a : Nat) : Kernel := fun env l =>
  let m := env.mode
  let t := mType m
  let x := env.value t l a
  mapElems env l t (tyCount t) false fun i _ =>
    let p := element t i x
    if isFlt t then (signOp (tyFmt t) (mFtz m) neg p, 0, false)
    else
      let v := intVal t p
      let (bs, sat) := intFix t (mSat m) (if neg then -v else (v.natAbs : Int))
      (bs, 0, sat)

/-- A function of one floating element. -/
def kFun (f : (fmt bits : Nat) → Val → Exact × Flags) (a : Nat) : Kernel := fun env l =>
  let m := env.mode
  let t := mType m
  let x := env.value t l a
  let fm := tyFmt t
  mapElems env l t (tyCount t) true fun i u =>
    let p := element t i x
    let (r, fl) := f t p (fm.decodeZ (mFtz m) p)
    let (bs, fl') := fm.deliver (mRnd m) u (mFtz m) r
    (bs, orF fl fl', false)

def execAbs (d a : BitVec 6) : State → Outcome State Fault Refusal := compute (.abs d a) (kSign false a.toNat)
def execNeg (d a : BitVec 6) : State → Outcome State Fault Refusal := compute (.neg d a) (kSign true a.toNat)
def execSqrt (d a : BitVec 6) : State → Outcome State Fault Refusal := compute (.sqrt d a) (kFun (fun _ _ => sqrtE) a.toNat)
def execRcp (d a : BitVec 6) : State → Outcome State Fault Refusal := compute (.rcp d a) (kFun (fun _ _ => rcpE) a.toNat)
def execRsq (d a : BitVec 6) : State → Outcome State Fault Refusal := compute (.rsq d a) (kFun (fun _ _ => rsqE) a.toNat)
def execExp2 (d a : BitVec 6) : State → Outcome State Fault Refusal := compute (.exp2 d a) (kFun exp2E a.toNat)
def execLog2 (d a : BitVec 6) : State → Outcome State Fault Refusal := compute (.log2 d a) (kFun log2E a.toNat)
def execSin (d a : BitVec 6) : State → Outcome State Fault Refusal := compute (.sin d a) (kFun sinE a.toNat)
def execCos (d a : BitVec 6) : State → Outcome State Fault Refusal := compute (.cos d a) (kFun cosE a.toNat)

/-! ### MAD (R100) -/

def kMad (a b c : Nat) : Kernel := fun env l =>
  let m := env.mode
  let t := mType m
  let x := env.value t l a
  let y := env.value t l b
  let z := env.value t l c
  if isFlt t then
    let f := tyFmt t
    let v (w i : Nat) := f.decodeZ (mFtz m) (element t i w)
    mapElems env l t (tyCount t) true fun i u =>
      let (r, fl) := fmaE (mRnd m == 2) (v x i) (v y i) (v z i)
      let (bs, fl') := f.deliver (mRnd m) u (mFtz m) r
      (bs, orF fl fl', false)
  else
    mapElems env l t (tyCount t) false fun i _ =>
      let v (w : Nat) := intVal t (element t i w)
      let (bs, sat) := intFix t (mSat m) (v x * v y + v z)
      (bs, 0, sat)

def execMad (d a b c : BitVec 6) : State → Outcome State Fault Refusal :=
  compute (.mad d a b c) (kMad a.toNat b.toNat c.toNat)

/-! ### Bitwise logic, shifts and counts (R101 to R103) -/

/-- A function of the whole word or pair. -/
def kBits (f : W64 → W64 → W64) (a b : Nat) : Kernel := fun env l =>
  let t := mType env.mode
  { val := w64 ((f (w64 (env.value t l a)) (w64 (env.value t l b))).toNat % 2 ^ (tyWidth t * tyCount t)) }

def execAnd (d a b : BitVec 6) : State → Outcome State Fault Refusal := compute (.and d a b) (kBits (· &&& ·) a.toNat b.toNat)
def execOr (d a b : BitVec 6) : State → Outcome State Fault Refusal := compute (.or d a b) (kBits (· ||| ·) a.toNat b.toNat)
def execXor (d a b : BitVec 6) : State → Outcome State Fault Refusal := compute (.xor d a b) (kBits (· ^^^ ·) a.toNat b.toNat)
def execAndn (d a b : BitVec 6) : State → Outcome State Fault Refusal :=
  compute (.andn d a b) (kBits (fun x y => x &&& ~~~y) a.toNat b.toNat)
def execNot (d a : BitVec 6) : State → Outcome State Fault Refusal :=
  compute (.not d a) (kBits (fun x _ => ~~~x) a.toNat a.toNat)

/-- SHL, SHR, SAR and ROT of one element of width `w` by `n` (R102). -/
def shl (w x n : Nat) : Nat := if n ≥ w then 0 else x * 2 ^ n % 2 ^ w
def shr (w x n : Nat) : Nat := if n ≥ w then 0 else x / 2 ^ n
def sar (w x n : Nat) : Nat := wrap w (signed w x / 2 ^ (if n ≥ w then w else n))
def rot (w x n : Nat) : Nat := let k := n % w; (x * 2 ^ k + x / 2 ^ (w - k)) % 2 ^ w

/-- A shift by register b: the count of a packed element is the element of b, else the 32-bit value of b. -/
def kShift (f : (w x n : Nat) → Nat) (a b : Nat) : Kernel := fun env l =>
  let t := mType env.mode
  let x := env.value t l a
  let c := (env.v l b).toNat
  mapElems env l t (tyCount t) false fun i _ =>
    (f (tyWidth t) (element t i x) (if tyWidth t < 32 then element t i c else c), 0, false)

/-- A shift by an immediate count (R106). -/
def kShiftI (f : (w x n : Nat) → Nat) (a n : Nat) : Kernel := fun env l =>
  let t := mType env.mode
  { val := w64 (f (tyWidth t) (env.value t l a) n) }

def execShl (d a b : BitVec 6) : State → Outcome State Fault Refusal := compute (.shl d a b) (kShift shl a.toNat b.toNat)
def execShr (d a b : BitVec 6) : State → Outcome State Fault Refusal := compute (.shr d a b) (kShift shr a.toNat b.toNat)
def execSar (d a b : BitVec 6) : State → Outcome State Fault Refusal := compute (.sar d a b) (kShift sar a.toNat b.toNat)
def execRot (d a b : BitVec 6) : State → Outcome State Fault Refusal := compute (.rot d a b) (kShift rot a.toNat b.toNat)

/-- A count or reversal of each element (R103). -/
def kCount (f : (w x : Nat) → Nat) (a : Nat) : Kernel := fun env l =>
  let t := mType env.mode
  let x := env.value t l a
  mapElems env l t (tyCount t) false fun i _ => (f (tyWidth t) (element t i x), 0, false)

def execPopc (d a : BitVec 6) : State → Outcome State Fault Refusal := compute (.popc d a) (kCount popCount a.toNat)
def execClz (d a : BitVec 6) : State → Outcome State Fault Refusal := compute (.clz d a) (kCount (fun w x => w - bitLength w x) a.toNat)
def execBrev (d a : BitVec 6) : State → Outcome State Fault Refusal := compute (.brev d a) (kCount bitReverse a.toNat)

/-! ### Bit fields and addresses (R104, R105) -/

def kBfx (a b c : Nat) : Kernel := fun env l =>
  let t := mType env.mode
  let w := tyWidth t
  let x := env.value t l a
  let pos := (env.v l b).toNat
  let n := min (env.v l c).toNat w
  let y : Int := if tySigned t then signed w x else (x : Nat)
  let f : Nat := wrap n (y / 2 ^ (min pos (2 * w)))
  { val := w64 (if n = 0 then 0 else if tySigned t then wrap w (signed n f) else f) }

def kBfi (d a b c : Nat) : Kernel := fun env l =>
  let t := mType env.mode
  let w := tyWidth t
  let x := env.value t l d
  let y := env.value t l a
  let pos := (env.v l b).toNat
  let len := (env.v l c).toNat
  { val := w64 ((List.range w).foldl (fun r k =>
      r + b2n (if pos ≤ k ∧ k < pos + len then bit y (k - pos) else bit x k) * 2 ^ k) 0) }

def kLea (a b c : Nat) : Kernel := fun env l =>
  let base := (join64 (env.v l a) (env.v l (a + 1))).toNat
  let off := signed 32 (env.v l b).toNat * 2 ^ ((env.v l c).toNat % 64)
  { val := w64 (wrap 64 ((base : Int) + off)) }

def execBfx (d a b c : BitVec 6) : State → Outcome State Fault Refusal :=
  compute (.bfx d a b c) (kBfx a.toNat b.toNat c.toNat)
def execBfi (d a b c : BitVec 6) : State → Outcome State Fault Refusal :=
  compute (.bfi d a b c) (kBfi d.toNat a.toNat b.toNat c.toNat)
def execLea (d a b c : BitVec 6) : State → Outcome State Fault Refusal :=
  compute (.lea d a b c) (kLea a.toNat b.toNat c.toNat)

/-! ### Immediate forms and constants (R106, R113) -/

def kAddi (a : Nat) (imm : BitVec 12) : Kernel := fun env l =>
  let t := mType env.mode
  let (bs, sat) := intFix t (mSat env.mode) (intVal t (env.value t l a) + imm.toInt)
  { val := w64 bs, sat := sat }

def execAddi (d a : BitVec 6) (i : BitVec 12) : State → Outcome State Fault Refusal := compute (.addi d a i) (kAddi a.toNat i)

/-- Logic with a zero-extended immediate. -/
def kLogicI (f : W64 → W64 → W64) (a : Nat) (imm : BitVec 12) : Kernel := fun env l =>
  { val := f (w64 (env.value (mType env.mode) l a)) (imm.setWidth 64) }

def execAndi (d a : BitVec 6) (i : BitVec 12) : State → Outcome State Fault Refusal := compute (.andi d a i) (kLogicI (· &&& ·) a.toNat i)
def execOri (d a : BitVec 6) (i : BitVec 12) : State → Outcome State Fault Refusal := compute (.ori d a i) (kLogicI (· ||| ·) a.toNat i)
def execXori (d a : BitVec 6) (i : BitVec 12) : State → Outcome State Fault Refusal := compute (.xori d a i) (kLogicI (· ^^^ ·) a.toNat i)
def execShli (d a : BitVec 6) (i : BitVec 6) : State → Outcome State Fault Refusal := compute (.shli d a i) (kShiftI shl a.toNat i.toNat)
def execShri (d a : BitVec 6) (i : BitVec 6) : State → Outcome State Fault Refusal := compute (.shri d a i) (kShiftI shr a.toNat i.toNat)
def execSari (d a : BitVec 6) (i : BitVec 6) : State → Outcome State Fault Refusal := compute (.sari d a i) (kShiftI sar a.toNat i.toNat)

def kLdi (imm : BitVec 18) : Kernel := fun _ _ => { val := (imm.signExtend 32).setWidth 64 }
def kLdih (d : Nat) (imm : BitVec 18) : Kernel := fun env l =>
  { val := w64 ((env.v l d).toNat % 2 ^ 14 + imm.toNat * 2 ^ 14) }

def execLdi (d : BitVec 6) (i : BitVec 18) : State → Outcome State Fault Refusal := compute (.ldi d i) (kLdi i)
def execLdih (d : BitVec 6) (i : BitVec 18) : State → Outcome State Fault Refusal := compute (.ldih d i) (kLdih d.toNat i)

/-! ### Comparison and classification (R107, R108) -/

/-- The six conditions and UN. -/
inductive Cond where
  | eq | ne | lt | le | gt | ge | un
  deriving DecidableEq, Repr

/-- The condition on an order. -/
def Cond.of : Cond → Ordering → Bool
  | .eq, o => o == .eq
  | .ne, o => o != .eq
  | .lt, o => o == .lt
  | .le, o => o != .gt
  | .gt, o => o == .gt
  | .ge, o => o != .lt
  | .un, _ => false

def kCmp (c : Cond) (a b : Nat) : Kernel := fun env l =>
  let m := env.mode
  let t := mType m
  let x := env.value t l a
  let y := env.value t l b
  if isFlt t then
    let f := tyFmt t
    let p := f.decodeZ (mFtz m) x
    let q := f.decodeZ (mFtz m) y
    let un := isNan p || isNan q
    let quiet := c == .eq || c == .ne || c == .un
    { p := if un then c == .ne || c == .un else c.of (cmpV p q)
      flags := if quiet then orF (sigF p) (sigF q) else if un then nvF else 0 }
  else { p := c.of (compare (intVal t x) (intVal t y)) }

/-- The class of an element (R108). -/
def classOf (f : Fmt) (v : Val) : Nat :=
  match v with
  | .nan s => if s then 0 else 1
  | .inf neg => if neg then 2 else 9
  | .fin neg m _ =>
    if m = 0 then (if neg then 5 else 6)
    else if m < 2 ^ f.fb then (if neg then 4 else 7)
    else if neg then 3 else 8

def kClass (a b : Nat) : Kernel := fun env l =>
  let t := mType env.mode
  let f := tyFmt t
  { p := bit (env.v l b).toNat (classOf f (f.decodeZ (mFtz env.mode) (env.value t l a))) }

def execCmpEq (d a b : BitVec 6) : State → Outcome State Fault Refusal := compute (.cmpEq d a b) (kCmp .eq a.toNat b.toNat)
def execCmpNe (d a b : BitVec 6) : State → Outcome State Fault Refusal := compute (.cmpNe d a b) (kCmp .ne a.toNat b.toNat)
def execCmpLt (d a b : BitVec 6) : State → Outcome State Fault Refusal := compute (.cmpLt d a b) (kCmp .lt a.toNat b.toNat)
def execCmpLe (d a b : BitVec 6) : State → Outcome State Fault Refusal := compute (.cmpLe d a b) (kCmp .le a.toNat b.toNat)
def execCmpGt (d a b : BitVec 6) : State → Outcome State Fault Refusal := compute (.cmpGt d a b) (kCmp .gt a.toNat b.toNat)
def execCmpGe (d a b : BitVec 6) : State → Outcome State Fault Refusal := compute (.cmpGe d a b) (kCmp .ge a.toNat b.toNat)
def execCmpUn (d a b : BitVec 6) : State → Outcome State Fault Refusal := compute (.cmpUn d a b) (kCmp .un a.toNat b.toNat)
def execCmpClass (d a b : BitVec 6) : State → Outcome State Fault Refusal := compute (.cmpClass d a b) (kClass a.toNat b.toNat)

/-! ### Selection, moves, conversion (R109 to R112) -/

def kSel (a b c : Nat) : Kernel := fun env l => { val := w64 (env.value (mType env.mode) l (if env.p l c then a else b)) }
def execSel (d a b c : BitVec 6) : State → Outcome State Fault Refusal :=
  compute (.sel d a b c) (kSel a.toNat b.toNat c.toNat)

def kMov (a : Nat) : Kernel := fun env l => { val := w64 (env.value (mType env.mode) l a) }
def execMov (d a : BitVec 6) : State → Outcome State Fault Refusal := compute (.mov d a) (kMov a.toNat)

/-- Element `i` of CVT's source: an integer by its type, or a value; trits of a reserved byte read as NaN with invalid. -/
inductive Src where
  | int (x : Nat)
  | val (v : Val) (f : Flags)
  deriving DecidableEq, Repr

/-- Element `i` of CVT's source register (R111). A trit is a value: to an integer it goes as a floating value does (R58). Log entry 92,
DEDUCED. -/
def cvtSrc (m : W32) (x i : Nat) : Src :=
  let t := mType2 m
  if isInt t then .int (element t i x)
  else if t = 17 then .val (e8m0Val (bits x (8 * i) 8)) 0
  else if t = 16 then
    match tritsOf (bits x (8 * (i / 5)) 8) with
    | some ts => .val (ofInt (((ts[i % 5]?).getD 1 : Int) - 1)) 0
    | none => .val (.nan false) nvF
  else .val ((tyFmt t).decodeZ (mFtz m) (element t i x)) 0

/-- Conv: one element (R111). A ternary source takes the floating-to-integer rule of R58 (log entry 92, DEDUCED). -/
def conv (m : W32) (u : Nat) (x : Src) : Nat × Flags × Bool :=
  let t := mType m
  let r := mRnd m
  match x with
  | .int v =>
    if isInt t then let (b, s) := cvtIntInt t (mType2 m) (mSat m) v; (b, 0, s)
    else
      let v := ofInt (intVal (mType2 m) v)
      let (b, f) := if t = 17 then cvtToE8M0 r u v else if t = 16 then cvtToTrit r u v
        else cvtFloat (tyFmt t) r u (mSat m) (mFtz m) v
      (b, f, false)
  | .val v f =>
    let (b, g) := if isInt t then cvtToInt t r u v else if t = 17 then cvtToE8M0 r u v else if t = 16 then cvtToTrit r u v
      else cvtFloat (tyFmt t) r u (mSat m) (mFtz m) v
    (b, orF f (orF g (sigF v)), false)

/-- The elements of a register of a type as CVT counts them: trits for tern. -/
def cvtElems (t x : Nat) : List Nat :=
  if t = 16 then (List.range 4).flatMap fun j => (tritsOf (bits x (8 * j) 8)).getD [1, 1, 1, 1, 1]
  else (List.range (cvtCount t)).map fun i => element t i x

/-- The register that such elements form. -/
def cvtPack (t : Nat) (es : List Nat) : Nat :=
  if t = 16 then fromBytes ((List.range 4).map fun j => BitVec.ofNat 8 (tritByte ((es.drop (5 * j)).take 5))) else pack t es

def kCvt (k a b : Nat) : Kernel := fun env l =>
  let m := env.mode
  let t := mType m
  let nt := cvtCount t
  let ns := cvtCount (mType2 m)
  let x := env.value (mType2 m) l a
  let rsr := roundsIn .cvt m && mRnd m == 5
  let n := min nt ns
  let off := if ns > nt then k * nt else 0
  let es := (List.range n).map fun i => conv m (if rsr then env.draw l i else 0) (cvtSrc m x (off + i))
  let new := es.map (·.1)
  let all := if nt > ns then
      let old := cvtElems t (env.value t l b)
      old.take (k * ns) ++ new ++ old.drop (k * ns + ns)
    else new
  { val := w64 (cvtPack t all), flags := es.foldl (fun f e => orF f e.2.1) 0, sat := es.any (·.2.2)
    draws := if rsr then n else 0 }

def execCvt (k d a b : BitVec 6) : State → Outcome State Fault Refusal :=
  compute (.cvt k d a b) (kCvt k.toNat a.toNat b.toNat)

/-! ### Uniform registers (R114) -/

def kMovw : Kernel := fun env _ => { val := if is64 (mType env.mode) then env.uni else w64 (env.uni.toNat % 2 ^ 32) }

/-- MOVW reads the uniform register under R24; its only source that can be pending is the guard. -/
def execMovw (d a : BitVec 6) : State → Outcome State Fault Refusal :=
  issue (.movw d a) fun e s =>
    let (x, s) := s.uniRead e.gk (a.toNat + 64 * s.cur.hiA)
    if e.cap then
      let (ent, g) := s.capture { e with g := s.gang e.gk } (.movw d a)
      let vals := (lanesOf e.path).foldl (fun vs l => put (put vs (128 * l + 126) (lo32 x)) (128 * l + 127) (hi32 x)) ent.vals
      let g := { g with work := { g.work with residuals := g.work.residuals ++ [{ ent with vals := vals }] } }
      (s.setGang e.gk g.noteHigh).advance e.gk e.ss
    else s.finish e (.movw d a) (outcomes kMovw (e.env x))

/-- WMOV (R22, R23, R114): the lowest active lane's value; a register of another gang traps with nothing changed. -/
def execWmov (d a : BitVec 6) : State → Outcome State Fault Refusal :=
  issue (.wmov d a) fun e s =>
    if e.act = 0 then s.advance e.gk e.ss
    else
      let t := mType e.mode
      let l := lowest e.act
      let n := d.toNat + 64 * s.cur.hiD
      let x : W64 := if is64 t then e.g.readPair l a.toNat
        else if t = 0 then (e.g.readV l a.toNat).signExtend 64 else (e.g.readV l a.toNat).setWidth 64
      match s.uniWrite e.gk n x with
      | .ok s => s.advance e.gk e.ss
      | .error o =>
        let aux := w64 (n % 32 + (s.gang o).gangid % 32 * 2 ^ 8)
        s.trap e.gk e.ss { code := cUniform, aux := aux, tmask := e.act, tpc := e.pc }

/-! ### Predicate logic (R115) and votes (R117) -/

def kPred (f : Bool → Bool → Bool) (a b : Nat) : Kernel := fun env l => { p := f (env.p l a) (env.p l b) }
def execPand (d a b : BitVec 6) : State → Outcome State Fault Refusal := compute (.pand d a b) (kPred (· && ·) a.toNat b.toNat)
def execPor (d a b : BitVec 6) : State → Outcome State Fault Refusal := compute (.por d a b) (kPred (· || ·) a.toNat b.toNat)
def execPxor (d a b : BitVec 6) : State → Outcome State Fault Refusal := compute (.pxor d a b) (kPred (· != ·) a.toNat b.toNat)
def execPnot (d a : BitVec 6) : State → Outcome State Fault Refusal := compute (.pnot d a) (kPred (fun x _ => !x) a.toNat a.toNat)
def execPmov (d a : BitVec 6) : State → Outcome State Fault Refusal := compute (.pmov d a) (kPred (fun x _ => x) a.toNat a.toNat)

/-- The active lanes whose predicate is 1. -/
def Env.vote (env : Env) (a : Nat) : Mask := maskOf fun l => has env.act l && env.p l a

def kBallot (a : Nat) : Kernel := fun env _ => { val := (env.vote a).setWidth 64 }
def kVany (a : Nat) : Kernel := fun env _ => { p := decide (env.vote a ≠ 0) }
def kVall (a : Nat) : Kernel := fun env _ => { p := decide (env.vote a = env.act) }
def kMatch (a : Nat) : Kernel := fun env _ =>
  let t := mType env.mode
  { p := (lanesOf env.act).all fun l => env.value t l a == env.value t (lowest env.act) a }

def execBallot (d a : BitVec 6) : State → Outcome State Fault Refusal := compute (.ballot d a) (kBallot a.toNat)
def execVany (d a : BitVec 6) : State → Outcome State Fault Refusal := compute (.vany d a) (kVany a.toNat)
def execVall (d a : BitVec 6) : State → Outcome State Fault Refusal := compute (.vall d a) (kVall a.toNat)
def execMatch (d a : BitVec 6) : State → Outcome State Fault Refusal := compute (.match d a) (kMatch a.toNat)

/-! ### Lane exchange (R116) -/

def kShfl (src : (l n : Nat) → Option Nat) (a b : Nat) : Kernel := fun env l =>
  let j := match src l (env.v l b).toNat with
    | some j => if j < 32 ∧ has env.act j then j else l
    | none => l
  { val := w64 (env.value (mType env.mode) j a) }

def execShfl (d a b : BitVec 6) : State → Outcome State Fault Refusal :=
  compute (.shfl d a b) (kShfl (fun _ n => some n) a.toNat b.toNat)
def execShflup (d a b : BitVec 6) : State → Outcome State Fault Refusal :=
  compute (.shflup d a b) (kShfl (fun l n => if n ≤ l then some (l - n) else none) a.toNat b.toNat)
def execShfldn (d a b : BitVec 6) : State → Outcome State Fault Refusal :=
  compute (.shfldn d a b) (kShfl (fun l n => some (l + n)) a.toNat b.toNat)
def execShflx (d a b : BitVec 6) : State → Outcome State Fault Refusal :=
  compute (.shflx d a b) (kShfl (fun l n => some (Nat.xor l n)) a.toNat b.toNat)

/-! ### Random numbers (R118, R119) -/

/-- RNGSPLIT (R118). -/
def execRngsplit (a b : BitVec 6) : State → Outcome State Fault Refusal :=
  issue (.rngsplit a b) fun e s =>
    let (w, s) := s.uniRead e.gk (a.toNat + 64 * s.cur.hiA)
    let g := (lanesOf e.act).foldl (fun g l => g.setXs l (rngSplit w (e.g.readV l b.toNat).toNat l)) (s.gang e.gk)
    (s.setGang e.gk g).advance e.gk e.ss

def kRngnext : Kernel := fun env l => { val := (env.xs l).step.2, draws := 1 }

/-- The binary32 or binary64 pattern of `k · 2^-p` for `k < 2^p` with `p` the precision: exact (R119). -/
def kRngf : Kernel := fun env l =>
  let x := (env.xs l).step.2.toNat
  if mType env.mode = 9 then { val := w64 (fmt64.deliver 0 0 false (exactOf false (x / 2 ^ 11) (-53))).1, draws := 1 }
  else { val := w64 (fmt32.deliver 0 0 false (exactOf false (x / 2 ^ 40) (-24))).1, draws := 1 }

def execRngnext (d : BitVec 6) : State → Outcome State Fault Refusal :=
  issue (.rngnext d) fun e s => s.finish e (.rngnext d) (outcomes kRngnext (e.env 0))
def execRngf (d : BitVec 6) : State → Outcome State Fault Refusal :=
  issue (.rngf d) fun e s => s.finish e (.rngf d) (outcomes kRngf (e.env 0))

/-! ### SRD (R120) -/

/-- sys.dfrstat (01 R37). -/
def Gang.dfrstat (g : Gang) : Nat := min g.residualCount 32 + g.sys.high * 2 ^ 8 + g.sys.parks * 2 ^ 16

/-- What the counter of a core shows (01 R36): at most 8 above the slowest core's, and never less than it showed before.
Log entry 8, DESIGN CHOICE. -/
def State.coreClock (s : State) (c : Nat) : Nat := max (s.core c).clockSeen (s.clock + Config.clockSkew c s.clock % 9)

/-- A read of sys.clock holds the counter to its value. -/
def State.noteClock (s : State) (c n : Nat) : State := if n = 8 then s.setCore c { s.core c with clockSeen := s.coreClock c } else s

/-- A system register as a lane of the gang sees it (01 R36). -/
def State.sysRead (s : State) (g : Gang) (l n : Nat) : Nat :=
  let gr := s.group g.group
  match n with
  | 0 => l
  | 1 => l / 4
  | 2 => g.gangid
  | 3 => gr.groupid
  | 4 => gr.ngangs
  | 5 => g.nslices
  | 6 => g.core
  | 7 => g.core / 4
  | 8 => s.coreClock g.core
  | 9 => g.level
  | 10 => (g.slice (l / 4)).base
  | 16 => g.sys.fpctl.toNat
  | 17 => g.sys.fpflags.toNat
  | 18 => g.sys.gflags.toNat
  | 19 => g.sys.utvec.toNat
  | 20 => (s.part gr.part).stvec.toNat
  | 24 => g.frame.tmask.toNat
  | 25 => g.frame.tpc.toNat
  | 26 => g.frame.tcause.toNat
  | 27 => g.frame.taux.toNat
  | 28 => g.frame.tdone.toNat
  | 29 => g.frame.tmode.toNat
  | 32 => g.sys.rlost.toNat
  | 33 => g.dfrstat
  | 34 => (s.core g.core).backoff
  | 40 => s.worldOf gr.ctx
  | _ => 0

def execSrd (d a : BitVec 6) : State → Outcome State Fault Refusal :=
  issue (.srd d a) fun e s =>
    (s.noteClock e.g.core (a.toNat + 64 * s.cur.hiA)).finish e (.srd d a) ((lanesOf e.act).map fun l => (l, { val := w64 (s.sysRead e.g l (a.toNat + 64 * s.cur.hiA)) }))

end Sys2Proof.Machine
end

