-- ==== Sys2Proof/Machine/Cells.lean ====
section
/-! DEFINITION. The arithmetic of the matrix cells, of the drains and of the consort reduction unit (02 R45 to R50, R57, R58,
R61 to R65; 09 R186, R187, R203). -/

namespace Sys2Proof.Machine

/-! ### Formats that the array multiplies (09 R186, R187) -/

/-- The groups of R186. -/
inductive MGroup where
  | f64 | f32 | h16 | e8 | e4 | int8 | tern | bfp
  deriving DecidableEq, Repr

/-- The group of a reservation format. -/
def mgroup (fmt : Nat) : Option MGroup :=
  match fmt with
  | 9 => some .f64
  | 8 => some .f32
  | 10 | 11 => some .h16
  | 12 | 13 => some .e8
  | 14 => some .e4
  | 6 | 7 => some .int8
  | 16 => some .tern
  | 15 => some .bfp
  | _ => none

/-- The accumulator kind of a group: 0 FP32, 1 FP64, 2 int32. -/
def MGroup.kind : MGroup → Nat
  | .f64 => 1
  | .int8 | .tern => 2
  | _ => 0

/-- The block length of a reservation's lcode (R188). -/
def blockLen (lcode : Nat) : Nat := 16 * 2 ^ lcode

/-- Bytes of `k` BFP elements of width `m` in blocks of `l` (R186). -/
def bfpBytes (l m k : Nat) : Nat := k / l * (1 + l * m / 8)

/-- The slab depth of a B record (R186, R187). -/
def OdRec.depth (o : OdRec) : Nat :=
  match mgroup o.fmt with
  | some .f64 => 64
  | some .f32 => 128
  | some .h16 => 256
  | some .e8 | some .int8 => 512
  | some .e4 => 1024
  | some .tern => 2560
  | some .bfp =>
    64 * ((List.range 64).reverse.find? fun n => decide (bfpBytes (blockLen o.lcode) o.m (64 * n) ≤ 512)).getD 0
  | none => 0

/-- Bytes of one row or column of a slab of `k` elements. -/
def OdRec.slabBytes (o : OdRec) (k : Nat) : Nat := if o.fmt = 15 then bfpBytes (blockLen o.lcode) o.m k else 512

/-! ### Elements -/

/-- A sum or product held exactly. -/
def Exact.val : Exact → Val
  | .nan => .nan false
  | .inf n => .inf n
  | .zero n => .fin n 0 0
  | .mag n m e _ => .fin n m e
  | .open_ n m => .fin n m 0

/-- The list cut into chop of `g`. -/
def chop {α : Type} (g : Nat) : (fuel : Nat) → List α → List (List α)
  | 0, _ => []
  | _, [] => []
  | f + 1, xs => xs.take g :: chop g f (xs.drop g)

/-- An element times its scale, exactly; a signalling NaN stays one, and raises invalid where it is multiplied (R44, R46). -/
def scaledElem (c : Val) : Val → Val
  | .nan s => .nan s
  | v => (mulV v c).1

/-- The floating elements of a row, each with the scale of its 32 where the record is scaled (R46). -/
def OdRec.floats (o : OdRec) (k : Nat) (bs scales : List Byte) : List Val :=
  let f := tyFmt o.fmt
  let raw : List Nat :=
    if o.fmt = 14 then bs.flatMap fun b => [b.toNat % 16, b.toNat / 16]
    else (chop (f.width / 8) k bs).map fromBytes
  let vs := (raw.take k).map f.decode
  if o.scaled then
    ((chop 32 k vs).zip scales).flatMap fun p => p.1.map (scaledElem (e8m0Val p.2.toNat))
  else vs

/-- The integer elements of a row: bytes or trits, a reserved ternary code reading as five zeros (R50). -/
def OdRec.ints (o : OdRec) (bs : List Byte) : List Int :=
  if o.fmt = 16 then bs.flatMap fun b => ((tritsOf b.toNat).getD [1, 1, 1, 1, 1]).map fun (t : Nat) => (t : Int) - 1
  else bs.map fun b => intVal o.fmt b.toNat

/-- A reserved ternary code stands in the bytes of a record that does not read it as zeros (R50). -/
def OdRec.reserved (o : OdRec) (bs : List Byte) : Bool :=
  o.fmt == 16 && !o.zres && bs.any fun b => decide (b.toNat > 242)

/-- One BFP block: its exponent and its mantissas (R47). -/
def bfpBlock (m : Nat) (bs : List Byte) : Nat × List Int :=
  let s := fromBytes (bs.drop 1)
  ((bs.headD 0).toNat, (List.range ((bs.length - 1) * 8 / m)).map fun i => signed m (bits s (m * i) m))

/-- The blocks of a row. -/
def OdRec.blocks (o : OdRec) (bs : List Byte) : List (Nat × List Int) :=
  let n := 1 + blockLen o.lcode * o.m / 8
  (chop n bs.length bs).map (bfpBlock o.m)

/-! ### Cells (R61, R62) -/

/-- acc := Round(acc + Σ products, RNE): the sum is exact and rounds once. Opposite infinities raise invalid where they meet in
ascending k before a NaN makes the sum one (R62). Log entry 80, DESIGN CHOICE. -/
def fpGroup (f : Fmt) (acc : Nat) (ps : List (Val × Val)) : Nat × Flags :=
  let (v, fl) := ps.foldl (fun (r : Val × Flags) p =>
    let (x, g) := mulV p.1 p.2
    let (y, h) := addE false r.1 x
    (y.val, orF r.2 (orF g h))) (f.decode acc, 0)
  let (x, g) := f.deliver 0 0 false (match v with
    | .fin n 0 _ => .zero n
    | v => ofVal v)
  (x, orF fl g)

/-- acc := SatInt32(acc + Σ products), and whether it clamped. -/
def intGroup (acc : Nat) (ps : List (Int × Int)) : Nat × Bool :=
  intFix 0 true (signed 32 acc + ps.foldl (fun s p => s + p.1 * p.2) 0)

/-- One BFP block of a cell: the exact block product, added with one rounding. -/
def bfpGroup (ma mb acc : Nat) (a b : Nat × List Int) : Nat × Flags :=
  if a.1 = 255 ∨ b.1 = 255 then (fmt32.nan, 0)
  else
    let s := (a.2.zip b.2).foldl (fun s p => s + p.1 * p.2) 0
    let e : Int := (a.1 : Int) + b.1 - 254 - ((ma : Int) - 1) - ((mb : Int) - 1)
    fpGroup fmt32 acc [(.fin (decide (s < 0)) s.natAbs e, .fin false 1 0)]

/-- A row or column of a slab, ready for the cells. -/
inductive Strip where
  | fp (groups : List (List Val))
  | int (groups : List (List Int))
  | bfp (m : Nat) (blocks : List (Nat × List Int))
  deriving DecidableEq, Repr

/-- The strip that the bytes of a record hold over `k` elements. -/
def OdRec.strip (o : OdRec) (k : Nat) (bs scales : List Byte) : Strip :=
  match mgroup o.fmt with
  | some .int8 | some .tern => .int (chop 16 k (o.ints bs))
  | some .bfp => .bfp o.m (o.blocks bs)
  | some .h16 => .fp (chop 4 k (o.floats k bs scales))
  | some .e8 | some .e4 => .fp (chop 16 k (o.floats k bs scales))
  | _ => .fp (chop 1 k (o.floats k bs scales))

/-- The cell: an A strip against a B strip, from an accumulator (R61). -/
def cell (kind : Nat) (a b : Strip) (acc : Nat) : Nat × Flags × Bool :=
  match a, b with
  | .int xs, .int ys =>
    (xs.zip ys).foldl (fun r p =>
      let (x, s) := intGroup r.1 (p.1.zip p.2)
      (x, 0, r.2.2 || s)) (acc, 0, false)
  | .bfp ma xs, .bfp mb ys =>
    (xs.zip ys).foldl (fun r p =>
      let (x, f) := bfpGroup ma mb r.1 p.1 p.2
      (x, orF r.2.1 f, false)) (acc, 0, false)
  | .fp xs, .fp ys =>
    let f := if kind = 1 then fmt64 else fmt32
    (xs.zip ys).foldl (fun r p =>
      let (x, g) := fpGroup f r.1 (p.1.zip p.2)
      (x, orF r.2.1 g, false)) (acc, 0, false)
  | _, _ => (acc, 0, false)

/-! ### Drains (R203) -/

/-- The exact value of an accumulator. -/
def accVal (kind x : Nat) : Val := if kind = 2 then ofInt (signed 32 x) else if kind = 1 then fmt64.decode x else fmt32.decode x

/-- A drained element scaled, exactly. -/
def scaledVal (kind : Nat) (scale : Option Nat) (x : Nat) : Val × Flags :=
  match scale with
  | some c => mulV (accVal kind x) (fmt32.decode c)
  | none => (accVal kind x, 0)

/-- Conv of one element to an output type that is not raw and not BFP: bits, flags, isat (R57, R58, R203). The matrix array
ignores MODE.ftz (R54).
Log entry 51, DESIGN CHOICE. -/
def drainElem (ot kind rnd u : Nat) (sat : Bool) (scale : Option Nat) (x : Nat) : Nat × Flags × Bool :=
  let (v, f) := scaledVal kind scale x
  if isInt ot then
    if kind = 2 then
      match v with
      | .fin n m e =>
        let (i, inexact) := roundInt rnd u n m e
        let (y, s) := intFix ot sat i
        (y, orF f (if inexact then nxF else 0), s)
      | _ => (Config.scaledInt ot (scale.getD 0) x % 2 ^ tyWidth ot, f, false)
    else
      let (y, g) := cvtToInt ot rnd u v
      (y, orF f g, false)
  else
    let (y, g) := cvtFloat (tyFmt ot) rnd u sat false v
    (y, orF f (if kind = 2 then Nat.land g (orF ofF (orF nxF nvF)) else g), false)

/-- The BFP block of R48 with one mantissa width over the values of a row; a clamp is always inexact (R55). -/
def bfpForm (m rnd : Nat) (draw : Nat → Nat) (vs : List Val) : List Byte × Flags :=
  let special := vs.any fun v => match v with | .fin _ _ _ => false | _ => true
  if special then (toBytes (1 + vs.length * m / 8) 255, nvF)
  else
    let top (v : Val) : Option Int := match v with
      | .fin _ n e => if n = 0 then none else some ((Nat.log2 n : Int) + e)
      | _ => none
    let big : Option Int := vs.foldl (fun r v => match r, top v with
      | none, x => x
      | some a, some b => some (max a b)
      | some a, none => some a) none
    let e0 : Int := match big with
      | none => 0
      | some t => max 0 (t + 128)
    let e := min e0 254
    let lo : Int := -(2 : Int) ^ (m - 1)
    let hi : Int := (2 : Int) ^ (m - 1) - 1
    let ms := (vs.zipIdx).map fun (v, i) => match v with
      | .fin n k q =>
        let (r, inexact) := roundInt rnd (draw i) n k (q - (e - 127 - ((m : Int) - 1)))
        let c := max lo (min hi r)
        (c, orF (if inexact then nxF else 0) (orF (if c ≠ r then orF ofF nxF else 0) (if k ≠ 0 ∧ r = 0 then ufF else 0)))
      | _ => ((0 : Int), (0 : Flags))
    let s := (ms.zipIdx).foldl (fun s (p, i) => s + wrap m p.1 * 2 ^ (m * i)) 0
    (BitVec.ofNat 8 e.toNat :: toBytes (vs.length * m / 8) s, ms.foldl (fun f p => orF f p.2) (if e0 > 254 then orF ofF nxF else 0))

/-- The bytes of a row of an output type (R202); raw by the kind. -/
def rowBytes (ot m kind : Nat) : Nat :=
  match ot with
  | 15 => 1 + 4 * m
  | 18 => if kind = 1 then 256 else 128
  | _ => 32 * tyWidth ot / 8

/-- The bytes of one drained row, its flags and isat (R203). -/
def drainRow (ot m kind : Nat) (mode : W32) (scale : Option Nat) (draw : Nat → Nat) (acc : Nat → Nat) : List Byte × Flags × Bool :=
  let ns := List.range 32
  if ot = 18 then (ns.flatMap fun n => toBytes (if kind = 1 then 8 else 4) (acc n), 0, false)
  else if ot = 15 then
    let vs := ns.map fun n => scaledVal kind scale (acc n)
    let (bs, f) := bfpForm m (mRnd mode) draw (vs.map (·.1))
    (bs, vs.foldl (fun f p => orF f p.2) f, false)
  else
    let es := ns.map fun n => drainElem ot kind (mRnd mode) (draw n) (mSat mode) scale (acc n)
    (toBytes (rowBytes ot 0 kind) (pack ot (es.map (·.1))), es.foldl (fun f e => orF f e.2.1) 0, es.any (·.2.2))

/-! ### Consort reduction (R65) -/

/-- One step of CRED.ADD. -/
def credSum (x y : Nat) : Nat := (fmt32.deliver 0 0 false (addE false (fmt32.decode x) (fmt32.decode y)).1).1

/-- One step of CRED.MAX and CRED.MIN (R64). -/
def credPick (isMax : Bool) (x y : Nat) : Nat :=
  let a := fmt32.decode x
  let b := fmt32.decode y
  if isNan a || isNan b then fmt32.nan else if below a b != isMax then x else y

/-- Rounded to FP32. -/
def rne32 (e : Exact × Flags) : Nat := (fmt32.deliver 0 0 false e.1).1

/-- x · y + z, fused. -/
def fma32 (x y z : Nat) : Nat := rne32 (fmaE false (fmt32.decode x) (fmt32.decode y) (fmt32.decode z))

/-- exp2(m − M), each step rounded. -/
def smFactor (m M : Nat) : Nat :=
  let d := rne32 (addE false (fmt32.decode m) (negV (fmt32.decode M)))
  rne32 (exp2E 8 d (fmt32.decode d))

/-- One row of SMERGE from the groups' rows of 34 words. -/
def smergeRow (rows : List (List Nat)) : List Nat :=
  let ms := rows.map fun r => nth r 0
  let M := match ms with
    | [] => 0
    | m :: r => r.foldl (credPick true) m
  let fix (n : Nat) (x : Nat) : Nat := if rows.any fun r => isNan (fmt32.decode (nth r n)) then fmt32.nan else x
  let anyNan := ms.any fun m => isNan (fmt32.decode m)
  if anyNan then List.replicate 34 fmt32.nan
  else if M = fmt32.inf true then M :: ((List.range 33).map fun i => fix (i + 1) 0)
  else
    M :: ((List.range 33).map fun i =>
      fix (i + 1) (rows.foldl (fun x r => fma32 (nth r (i + 1)) (smFactor (nth r 0) M) x) 0))

/-- The combined words of a round (op 0 ADD, 1 MAX, 2 MIN, 3 SMERGE), the contributions in group order.
Log entry 53, DEDUCED. -/
def credCombine (op n : Nat) (parts : List (List Nat)) : List Nat :=
  match op with
  | 3 => (List.range n).flatMap fun i => smergeRow (parts.map fun p => (p.drop (34 * i)).take 34)
  | _ =>
    (List.range n).map fun i =>
      match parts.map fun p => nth p i with
      | [] => 0
      | x :: r => r.foldl (if op = 0 then credSum else credPick (op == 1)) (if isNan (fmt32.decode x) then fmt32.nan else x)

end Sys2Proof.Machine
end

