-- ==== Sys2Proof/Machine/Control.lean ====
section
/-! DEFINITION. The control family (chapters 03, 05): branches, rejoin registers, calls, MODE and issue control, traps,
the repeat prefix and WAIT; and the events that complete or time out a wait. -/

namespace Sys2Proof.Machine

open Host (Outcome)

/-! ### Rejoin registers -/

def Gang.rejoinReg (g : Gang) (k : Nat) : Rejoin := get {} g.rejoin k
def Gang.setRejoin (g : Gang) (k : Nat) (r : Rejoin) : Gang := { g with rejoin := put g.rejoin k r }

/-- Slice `i` waits on rejoin register `k`. -/
def Gang.waitsOn (g : Gang) (k i : Nat) : Bool :=
  match (g.slice i).wait with
  | some (.join k' _) => k' == k
  | _ => false

def Gang.sliceList (g : Gang) : List Nat := List.range g.slices.length

/-- Some slice waits on the register. -/
def Gang.anyWaits (g : Gang) (k : Nat) : Bool := g.sliceList.any (g.waitsOn k)

/-- The slices that hold a lane of a mask. -/
def Gang.holders (g : Gang) (m : Mask) : List Nat := g.sliceList.filter fun i => decide (m &&& sliceMask i ≠ 0)

/-- A pending path with lanes of slice `i`, the most recently appended: its position. -/
def Rejoin.latest (r : Rejoin) (i : Nat) : Option Nat :=
  ((List.range r.paths.length).reverse).find? fun j => decide (((r.paths[j]?.getD {}).mask &&& sliceMask i) ≠ 0)

/-- Takes lanes out of a pending path; an empty path is dropped, and the count restarts (05 R129; 10 R222). -/
def Rejoin.take (r : Rejoin) (j : Nat) (m : Mask) : Rejoin :=
  let p := r.paths[j]?.getD {}
  let left := p.mask &&& ~~~m
  { r with paths := if left = 0 then dropAt j r.paths else modAt (fun _ => { p with mask := left, count := 0 }) j r.paths }

/-- Adds a pending path, or its lanes to the entry with its PC. -/
def Rejoin.add (r : Rejoin) (pc : Nat) (m : Mask) (base : Nat) : Rejoin :=
  match r.paths.findIdx? (·.pc == pc) with
  | some j => { r with paths := modAt (fun p => { p with mask := p.mask ||| m }) j r.paths }
  | none => { r with paths := r.paths ++ [{ pc := pc, mask := m, base := base }] }

/-- A slice takes pending path `j` of register `k` and continues there as a cohort of its own (R122). -/
def Gang.takePath (g : Gang) (k j i : Nat) : Gang :=
  let r := g.rejoinReg k
  let p := r.paths[j]?.getD {}
  let m := p.mask &&& sliceMask i
  let c := g.freshCohort
  let g := g.setRejoin k (r.take j m)
  { (g.onSlices [i] fun _ x => { x with pc := pcMake p.pc 0, rep := none, wait := none, stall := none, reexec := none, cohort := c }) with
    path := (g.path &&& ~~~(sliceMask i)) ||| m }

/-- A waiting slice leaves to run a pending path of the register it waits on: its lanes become parked (R129). -/
def Gang.pickup (g : Gang) (k i : Nat) : Gang :=
  match (g.slice i).wait, (g.rejoinReg k).latest i with
  | some (.join k' a), some j =>
    if k' = k then
      let m := g.path &&& sliceMask i
      let r := g.rejoinReg k
      let g := g.setRejoin k { r with parked := r.parked ||| m, parkAt := put r.parkAt i a }
      g.takePath k j i
    else g
  | _, _ => g

/-- The join of register `k` completes: every expected lane arrived, no pending path, every holder waits at one address. -/
def Gang.joinReady (g : Gang) (k : Nat) : Option Nat :=
  let r := g.rejoinReg k
  let hs := g.holders r.expect
  if r.arrived = r.expect ∧ r.paths.isEmpty ∧ r.expect ≠ 0 then
    match hs.map fun i => (g.slice i).wait with
    | some (.join k' a) :: ws => if k' = k ∧ (ws.all fun w => w == some (.join k a)) then some a else none
    | _ => none
  else none

/-- Slices become one cohort with the MODE of the lowest, at an address (R14, R129, R131). -/
def Gang.unite (g : Gang) (ss : List Nat) (addr : Nat) : Gang :=
  let m := (g.slice (ss.headD 0)).mode
  let c := g.freshCohort
  g.onSlices ss fun _ x =>
    { x with mode := m, cohort := c, wait := none, stall := none, rep := none, reexec := none, pc := pcMake addr 0 }

/-- Completes the join at JWAIT address `a` (R129). -/
def Gang.joinDone (g : Gang) (k a : Nat) : Gang :=
  let r := g.rejoinReg k
  let hs := g.holders r.expect
  let g := { g with path := (g.path &&& ~~~(slicesMask hs)) ||| r.expect }
  (g.setRejoin k {}).unite hs (a + 4)

/-- What the gang applies each cycle to register `k`: completion, or the pick-up of pending paths (R129). -/
def Gang.joinStep (g : Gang) (k : Nat) : Gang :=
  match g.joinReady k with
  | some a => g.joinDone k a
  | none => g.sliceList.foldl (fun g i => g.pickup k i) g

/-! ### Branches (R125, R126; 10 R222) -/

/-- The target of a J-form word (03 R71). -/
def jTarget (pc : W64) (o : BitVec 18) : Nat := wrap 56 ((pcAddr pc : Int) + 4 * o.toInt)

/-- The pending path that slice `i` exchanges for its own at a taken backward branch in ageing mode: the one held longest
among those that qualify (10 R222). -/
def Gang.exchange (g : Gang) (i target : Nat) : Option (Nat × Nat) :=
  let all := (List.range 8).flatMap fun k =>
    let r := g.rejoinReg k
    let open_ := !g.anyWaits k && (decide (r.paths.length < 8) || r.paths.any (·.pc == target))
    if open_ then ((List.range r.paths.length).filter fun j =>
        let p := r.paths[j]?.getD {}
        decide (p.mask &&& sliceMask i ≠ 0) && decide (p.count ≥ 4096) && p.base == (g.slice i).base).map fun j => (k, j)
    else []
  all.foldl (fun best kj =>
    let age (x : Nat × Nat) := (((g.rejoinReg x.1).paths[x.2]?).getD {}).count
    match best with
    | none => some kj
    | some b => if age kj > age b then some kj else some b) none

/-- Slice `i` gives its path to the register, and then takes the exchanged entry, to which its own lanes may have been added. -/
def Gang.exchangeAt (g : Gang) (i target : Nat) : Gang :=
  match g.exchange i target with
  | none => g
  | some (k, j) =>
    let m := g.path &&& sliceMask i
    (g.setRejoin k ((g.rejoinReg k).add target m (g.slice i).base)).takePath k j i

/-- A branch of the whole cohort. -/
def State.branch (s : State) (e : Issue) (taken : Bool) (target : Nat) : State :=
  if taken then
    let s := s.jump e.gk e.ss fun _ => target
    if (s.group e.g.group).ageing ∧ target ≤ pcAddr e.pc then
      s.setGang e.gk (e.ss.foldl (fun g i => g.exchangeAt i target) (s.gang e.gk))
    else s
  else s.jump e.gk e.ss fun _ => pcAddr e.pc + 4

def execBr (o : BitVec 18) : State → Outcome State Fault Refusal :=
  issue (.br o) fun e s => s.branch e true (jTarget e.pc o)

/-- The condition of BRA and BRN on a rejoin register: expect nonzero and arrived = expect. -/
def Gang.arrivedAll (g : Gang) (k : Nat) : Bool :=
  let r := g.rejoinReg k
  decide (r.expect ≠ 0) && r.arrived == r.expect

def execBra (c : BitVec 6) (o : BitVec 18) : State → Outcome State Fault Refusal :=
  issue (.bra c o) fun e s =>
    let taken := if c.toNat < 32 then decide (e.act ≠ 0) && decide (e.act &&& e.g.pmask c.toNat = e.act)
      else e.g.arrivedAll (c.toNat - 32)
    s.branch e taken (jTarget e.pc o)

def execBrn (c : BitVec 6) (o : BitVec 18) : State → Outcome State Fault Refusal :=
  issue (.brn c o) fun e s =>
    let taken := if c.toNat < 32 then decide (e.act &&& e.g.pmask c.toNat = 0) else !e.g.arrivedAll (c.toNat - 32)
    s.branch e taken (jTarget e.pc o)

/-- The lanes that take a BRP (R126). -/
def brpLanes (e : Issue) (c : Nat) : Mask :=
  let gm := e.g.pmask (mGuard e.mode)
  let guard := if mNeg e.mode then ~~~gm else gm
  if c = 63 then e.path &&& guard
  else e.path &&& (if mGen e.mode then guard else 0xFFFFFFFF#32) &&& e.g.pmask c

/-- BRP: the only instruction that divides a slice. The guard is a condition of its own here, so the lanes of the ninth-entry
trap are the whole path. Log entry 82, DEDUCED. -/
def execBrp (c : BitVec 6) (o : BitVec 18) : State → Outcome State Fault Refusal :=
  issue (.brp c o) fun e s =>
    let k := mJsel e.mode
    let t := brpLanes e c.toNat
    let n := e.path &&& ~~~t
    let target := jTarget e.pc o
    let fall := (pcAddr e.pc + 4) % 2 ^ 56
    let split := e.ss.filter fun i => decide (t &&& sliceMask i ≠ 0) && decide (n &&& sliceMask i ≠ 0)
    let r := e.g.rejoinReg k
    if ¬ split.isEmpty ∧ r.paths.length ≥ 8 ∧ ¬ r.paths.any (·.pc == fall) then
      s.trap e.gk e.ss { code := cIllOp, aux := opAux 4 (32 + k), tmask := e.act, tpc := e.pc }
    else
      let g := split.foldl (fun g i =>
        let g := g.setRejoin k ((g.rejoinReg k).add fall (n &&& sliceMask i) (g.slice i).base)
        { g with path := g.path &&& ~~~(n &&& sliceMask i) }) (s.gang e.gk)
      let s := (s.setGang e.gk g).jump e.gk e.ss fun i => if t &&& sliceMask i ≠ 0 then target else fall
      if (s.group e.g.group).ageing ∧ target ≤ pcAddr e.pc then
        let tk := e.ss.filter fun i => decide (t &&& sliceMask i ≠ 0)
        s.setGang e.gk (tk.foldl (fun g i => g.exchangeAt i target) (s.gang e.gk))
      else s

/-! ### JSET, JARR, JWAIT, REGANG (R127 to R131) -/

/-- The register is in use: a pending path, a waiting slice, or parked lanes. -/
def Gang.rejoinBusy (g : Gang) (k : Nat) : Bool :=
  !(g.rejoinReg k).paths.isEmpty || g.anyWaits k || decide ((g.rejoinReg k).parked ≠ 0)

/-- A precise illegal-operand of the cohort. -/
def State.badOperand (s : State) (e : Issue) (field num : Nat) : State :=
  s.trap e.gk e.ss { code := cIllOp, aux := opAux field num, tmask := e.act, tpc := e.pc }

/-- Sets expect (R127). -/
def State.jset (s : State) (e : Issue) (k : Nat) (expect : Mask) : State :=
  if e.g.rejoinBusy k then s.badOperand e 0 k
  else
    let r := e.g.rejoinReg k
    (s.setGang e.gk (e.g.setRejoin k { r with expect := expect, arrived := 0, age := 0 })).advance e.gk e.ss

def execJset (d a : BitVec 6) : State → Outcome State Fault Refusal :=
  issue (.jset d a) fun e s => s.jset e d.toNat (e.g.readV (lowest e.path) a.toNat &&& e.g.present)

def execJsetAct (d : BitVec 6) : State → Outcome State Fault Refusal :=
  issue (.jsetAct d) fun e s => s.jset e d.toNat e.path

def execJarr : State → Outcome State Fault Refusal :=
  issue .jarr fun e s =>
    let k := mJsel e.mode
    let r := e.g.rejoinReg k
    if e.path &&& ~~~r.expect ≠ 0 then s.badOperand e 1 k
    else
      let arrived := r.arrived ||| e.path
      let age := if (s.group e.g.group).ageing ∧ arrived ≠ r.arrived then 0 else r.age
      (s.setGang e.gk (e.g.setRejoin k { r with arrived := arrived, age := age })).advance e.gk e.ss

/-- JWAIT: the cohort's slices wait, and those with a pending path pick it up at once. -/
def execJwait : State → Outcome State Fault Refusal :=
  issue .jwait fun e s =>
    let k := mJsel e.mode
    let r := e.g.rejoinReg k
    let bases := (e.g.sliceList.filter (e.g.waitsOn k)).map fun i => (e.g.slice i).base
    let mine := (e.g.slice (e.ss.headD 0)).base
    if e.path &&& ~~~r.expect ≠ 0 ∨ bases.any (· != mine) then s.badOperand e 1 k
    else
      let g := e.g.onSlices e.ss fun _ x => { x with wait := some (.join k (pcAddr e.pc)), reexec := none, stall := none, last := s.clock }
      let g := { g with sched := g.sched.retire }
      s.setGang e.gk (g.sliceList.foldl (fun g i => g.pickup k i) g)

/-- REGANG's slice mask as a list, where it is legal for the cohort. -/
def regangSlices (e : Issue) (m : Nat) : Option (List Nat) :=
  let want := those 8 (bit m)
  if (e.ss.all want.contains) ∧ (want.all fun i => decide (i < e.g.nslices)) then some want else none

/-- The cycle from which slice `i` has waited at a REGANG address with a mask. -/
def Gang.regangWait (g : Gang) (m a i : Nat) : Option Nat :=
  match (g.slice i).wait with
  | some (.regang m' a' t) => if m' = m ∧ a' = a then some t else none
  | _ => none

/-- REGANG (R131). The slices already waiting are those of the mask that wait at this address with this mask.
Log entry 83, DEDUCED. -/
def execRegang (a : BitVec 6) : State → Outcome State Fault Refusal :=
  issue (.regang a) fun e s =>
    let m := (e.g.readV (lowest e.path) a.toNat).toNat % 256
    let mine := (e.g.slice (e.ss.headD 0)).base
    match regangSlices e m with
    | none => s.badOperand e 1 a.toNat
    | some want =>
      let others := want.filter fun i => !e.ss.contains i && (e.g.regangWait m (pcAddr e.pc) i).isSome
      if others.any fun i => (e.g.slice i).base != mine then s.badOperand e 1 a.toNat
      else if want.all e.ss.contains then
        let g := e.g.unite e.ss (pcAddr e.pc + 4)
        s.setGang e.gk { g with sched := g.sched.retire }
      else
        let first := (others.filterMap (e.g.regangWait m (pcAddr e.pc))).foldl min s.clock
        let g := e.g.onSlices e.ss fun _ x =>
          { x with wait := some (.regang m (pcAddr e.pc) first), reexec := none, stall := none, last := s.clock }
        s.setGang e.gk { g with sched := g.sched.retire }

/-! ### Calls and returns (R133, R134; 01 R18) -/

/-- The resident ring N of each lane (01 R17). -/
def Group.ring (g : Group) : Nat := g.stack * 65536 / (128 * g.ngangs) - 16

/-- sys.taux of a window trap. Log entry 28, DEDUCED. -/
def windowAux (sl low : Nat) : W64 := w64 (sl + low * 2 ^ 16)

/-- A call: spill check, return address, slide, jump. -/
def State.call (s : State) (e : Issue) (target : Nat) : State :=
  let n := (s.group e.g.group).ring
  match e.ss.find? fun i => decide ((e.g.slice i).base + 80 > n + (e.g.slice i).low) with
  | some i => s.trap e.gk e.ss { code := cSpill, aux := windowAux i (e.g.slice i).low, tmask := e.path, tpc := e.pc }
  | none =>
    let ret := w64 ((pcAddr e.pc + 4) % 2 ^ 56)
    let g := (s.gang e.gk).writePairs e.path 62 fun _ => ret
    let g := g.onSlices e.ss fun _ x => { x with base := x.base + 32 }
    (s.setGang e.gk g).jump e.gk e.ss fun _ => target

/-- A register target: the pair in the lowest lane of the path; its two low bits must be zero. -/
def Issue.target (e : Issue) (a : Nat) : Nat := bits (e.g.readPair (lowest e.path) a).toNat 0 56

def State.misTarget (s : State) (e : Issue) (t : Nat) : State :=
  s.trap e.gk e.ss { code := cAlign, aux := memAux 0 t, tmask := e.act, tpc := e.pc }

def execCall (o : BitVec 18) : State → Outcome State Fault Refusal :=
  issue (.call o) fun e s => s.call e (jTarget e.pc o)

def execCallr (a : BitVec 6) : State → Outcome State Fault Refusal :=
  issue (.callr a) fun e s => if e.target a.toNat % 4 ≠ 0 then s.misTarget e (e.target a.toNat) else s.call e (e.target a.toNat)

def execJmpr (a : BitVec 6) : State → Outcome State Fault Refusal :=
  issue (.jmpr a) fun e s =>
    if e.target a.toNat % 4 ≠ 0 then s.misTarget e (e.target a.toNat) else s.jump e.gk e.ss fun _ => e.target a.toNat

def execRet : State → Outcome State Fault Refusal :=
  issue .ret fun e s =>
    let b := (e.g.slice (e.ss.headD 0)).base
    if b = 0 then s.trap e.gk e.ss { code := cEmpty, tmask := e.path, tpc := e.pc }
    else
      let t := e.target 30
      if t % 4 ≠ 0 then s.misTarget e t
      else
        let g := (s.gang e.gk).onSlices e.ss fun _ x => { x with base := x.base - 32 }
        let s := (s.setGang e.gk g).jump e.gk e.ss fun _ => t
        match e.ss.find? fun i => decide (b - 32 < (e.g.slice i).low) with
        | some i => s.trap e.gk e.ss { code := cFill, aux := windowAux i (e.g.slice i).low, tdone := e.path, tpc := pcMake t 0 }
        | none => s

/-! ### EXIT (R132, R138) -/

/-- A slice whose path has exited continues by a pending path, or resumes a wait with its parked lanes (R132); where they parked at
several addresses, all wait at the last. Log entry 99, DESIGN CHOICE. -/
def Gang.continueSlice (g : Gang) (i : Nat) : Gang :=
  match (List.range 8).findSome? fun k => ((g.rejoinReg k).latest i).map fun j => (k, j) with
  | some (k, j) => g.takePath k j i
  | none =>
    match (List.range 8).find? fun k => decide ((g.rejoinReg k).parked &&& sliceMask i ≠ 0) with
    | some k =>
      let r := g.rejoinReg k
      let m := r.parked &&& sliceMask i
      let c := g.freshCohort
      let g := g.setRejoin k { r with parked := r.parked &&& ~~~m }
      let a := get 0 r.parkAt i
      { (g.onSlices [i] fun _ x => { x with pc := pcMake a 0, rep := none, wait := some (.join k a), cohort := c, stall := none }) with
        path := (g.path &&& ~~~(sliceMask i)) ||| m }
    | none => g

/-- The path lanes of the slices exit. -/
def Gang.exitLanes (g : Gang) (ss : List Nat) (m : Mask) (clock : Nat) : Gang :=
  let g := { g with
    path := g.path &&& ~~~m, exited := g.exited ||| m
    rejoin := mapVals (fun _ r => { r with expect := r.expect &&& ~~~m, arrived := r.arrived &&& ~~~m }) g.rejoin }
  let g := g.onSlices ss fun _ x => { x with reexec := none, rep := none, stall := none, last := clock }
  let g := ss.foldl Gang.continueSlice g
  { g with sched := g.sched.retire }

def execExit : State → Outcome State Fault Refusal :=
  issue .exit fun e s =>
    if e.g.residualCount ≠ 0 ∨ e.g.work.faulted.isSome then s.stall e.gk e.ss .exitWait
    else s.setGang e.gk (e.g.exitLanes e.ss e.path s.clock)

/-! ### MODE and issue control (R135 to R138) -/

/-- Writes MODE of every slice of the cohort; bit 31 ignores writes. -/
def State.setMode (s : State) (e : Issue) (f : W32 → W32) : State :=
  (s.setGang e.gk ((s.gang e.gk).onSlices e.ss fun _ x => { x with mode := f x.mode &&& 0x7FFFFFFF#32 })).advance e.gk e.ss

def execSetm (v : BitVec 24) : State → Outcome State Fault Refusal :=
  issue (.setm v) fun e s => s.setMode e fun m => (m &&& 0xFF000000#32) ||| v.setWidth 32

def execSetmH (v : BitVec 8) : State → Outcome State Fault Refusal :=
  issue (.setmH v) fun e s => s.setMode e fun m => (m &&& 0x00FFFFFF#32) ||| (v.setWidth 32 <<< 24)

def execSetmv (a : BitVec 6) : State → Outcome State Fault Refusal :=
  issue (.setmv a) fun e s => s.setMode e fun _ => e.g.readV (lowest e.path) a.toNat

/-- GETM delivers the MODE that it runs under (R136). -/
def kGetm : Kernel := fun env _ => { val := (env.mode &&& 0x7FFFFFFF#32).setWidth 64 }
def execGetm (d : BitVec 6) : State → Outcome State Fault Refusal := compute (.getm d) kGetm

def execFanset (d : BitVec 6) (m : BitVec 7) : State → Outcome State Fault Refusal :=
  issue (.fanset d m) fun e s => (s.setGang e.gk { e.g with fan := put e.g.fan d.toNat m.toNat }).advance e.gk e.ss

def execDrain : State → Outcome State Fault Refusal :=
  issue .drain fun e s =>
    if e.g.residualCount ≠ 0 ∨ e.g.work.faulted.isSome ∨ e.g.anyPending then s.stall e.gk e.ss .settle else s.advance e.gk e.ss

def execNop : State → Outcome State Fault Refusal := issue .nop fun e s => s.advance e.gk e.ss

/-- YIELD: the gang leaves the active set and is the youngest of those ready pending (R138; 10 R219, R220). -/
def execYield : State → Outcome State Fault Refusal :=
  issue .yield fun e s =>
    let s := s.advance e.gk e.ss
    let g := s.gang e.gk
    s.setGang e.gk { g with sched := { g.sched with active := false, yielded := true, outside := 0 } }

/-- What a WAIT that ends orders (14 R318, R319): with a limit of 0 for stores they are visible at device scope, with one for copies
or tile operations the gang has observed their writes complete (07 R176), and with any limit of 0 later loads come after what
it waited for. The load cache keeps its lines. -/
def State.waited (s : State) (gk : Nat) (l st c t : Nat) : State :=
  let s := if st = 0 then s.storesSeen gk else s
  let s := s.observes gk fun v => v.gang == gk && ((c == 0 && (v.path == 2 || v.path == 3)) || (t == 0 && v.path == 3))
  if l = 0 ∨ st = 0 ∨ c = 0 ∨ t = 0 then s.refresh gk else s

/-- WAIT (03 R84). -/
def execWait (l st c : BitVec 5) (t : BitVec 3) : State → Outcome State Fault Refusal :=
  issue (.wait l st c t) fun e s =>
    let n := e.g.counts
    if n.loads ≤ l.toNat ∧ n.stores ≤ st.toNat ∧ n.copies ≤ c.toNat ∧ n.tiles ≤ t.toNat then
      (s.waited e.gk l.toNat st.toNat c.toNat t.toNat).advance e.gk e.ss
    else s.stall e.gk e.ss (.counts l.toNat st.toNat c.toNat t.toNat)

/-! ### Traps (R139, R143) -/

/-- TRAP and BKPT complete in the path and then take their cause. -/
def State.softTrap (s : State) (e : Issue) (cause code : Nat) (sup : Bool) : State :=
  let g := s.gang e.gk
  let s := s.setGang e.gk { g with sched := g.sched.retire }
  s.trap e.gk e.ss { code := cause, aux := w64 code, tdone := e.path, tpc := pcNext e.pc, sup := sup }

def execTrap (c : BitVec 18) : State → Outcome State Fault Refusal :=
  issue (.trap c) fun e s => s.softTrap e cTrap c.toNat (decide (c.toNat ≥ 0x3FF00))

def execBkpt (c : BitVec 18) : State → Outcome State Fault Refusal :=
  issue (.bkpt c) fun e s => s.softTrap e cBkpt c.toNat false

/-- TRET: outside a handler at user level illegal-instruction; a gang of a failed context stops in place of returning
from its integrity handler (18 R382). -/
def execTret : State → Outcome State Fault Refusal :=
  issue .tret fun e s =>
    let g := e.g
    let sup := decide (g.level = 1)
    if ¬ sup ∧ ¬ g.userH then
      s.trap e.gk e.ss { code := cIllInstr, aux := w64 s.cur.word.toNat, tmask := e.act, tpc := e.pc }
    else if g.failed then s.setGang e.gk { g with stopped := true }
    else
      let own : Hidden := { path := e.path, slices := e.ss, fromLevel := g.level }
      let g := if sup ∧ g.hidSup.slices.isEmpty then { g with hidSup := own } else g
      let g := g.leave sup
      s.setGang e.gk { g with sched := g.sched.retire }

/-! ### Fetch and the repeat prefix (03 R67, R79 to R83) -/

/-- The word at an address of the gang's context, or the fault of its fetch. -/
def State.fetch (s : State) (gk addr : Nat) : Except Flt W32 :=
  let g := s.gang gk
  match s.xlate g.core (s.ctxOf g) addr 4 false with
  | .ok pa _ =>
    if s.poisoned pa 4 then .error { code := cPoison, aux := memAux 0 addr, va := addr, kind := 2, page := pa }
    else .ok (w32 (s.num pa 4))
  | x => .error ((xlFlt addr 2 x).getD {})

/-- A fetch that fails: a page fault parks the gang, which fetches again; anything else traps, with the record of a consumed
poison mark (20 R416, R420). -/
def State.failFetch (s : State) (gk : Nat) (ss : List Nat) (f : Flt) (lanes : Mask) (pc : W64) : State :=
  if f.code = cPage then s.parkPage gk ss 0 f none true none
  else (if f.code = cPoison then s.logAnywhere 3 gk f.page 0 else s).fail gk ss f lanes 0 pc

/-- The increments that a body may have: those of the fields that it uses as registers. -/
def repFields (i : Instr) : List Role := ((desc i).ops.filter fun o => o.kind != .path).map (·.role)

/-- The body may stand under a REP with these increments (R81). -/
def repLegal (d a b c : Nat) (i : Instr) : Bool :=
  let fs := repFields i
  (desc i).rep && (d == 0 || fs.contains .d) && (a == 0 || fs.contains .a) && (b == 0 || fs.contains .b)
    && (c == 0 || fs.contains .c)

/-- REP starts or resumes its sequence at the index in the program counter; an index of count or more completes it. A page fault
on the body leaves the frame as the fetch of any word does (log entry 25, DEDUCED). Log entry 31, DEDUCED. -/
def execRep (n : BitVec 6) (d a b c : BitVec 3) : State → Outcome State Fault Refusal :=
  issue (.rep n d a b c) fun e s =>
    let count := if n.toNat = 0 then 64 else n.toNat
    match s.fetch e.gk ((pcAddr e.pc + 4) % 2 ^ 56) with
    | .error f => s.failFetch e.gk e.ss f e.act e.pc
    | .ok w =>
      let bad := s.trap e.gk e.ss { code := cIllInstr, aux := join64 w s.cur.word, tmask := e.act, tpc := pcMake (pcAddr e.pc) 0 }
      match decodeWord w with
      | .error _ => bad
      | .ok i =>
        if ¬ repLegal d.toNat a.toNat b.toNat c.toNat i then bad
        else if pcIdx e.pc ≥ count then s.jump e.gk e.ss fun _ => pcAddr e.pc + 8
        else
          let r : RepSeq := { body := w, count := count, dinc := d.toNat, ainc := a.toNat, binc := b.toNat, cinc := c.toNat }
          s.setGang e.gk ((s.gang e.gk).onSlices e.ss fun _ x => { x with rep := some r, stall := none })

/-! ### Repetitions (03 R68, R80) -/

/-- A stepped field of a word: six bits from `lo` on, `i` times an increment added without wrap; the high part counts 64s. -/
def stepField (w lo k : Nat) : Nat × Nat :=
  let v := bits w lo 6 + k
  (w - bits w lo 6 * 2 ^ lo + v % 64 * 2 ^ lo, v / 64)

/-- The places of d, a, b and c in a word's form. -/
def fieldPlaces (w : W32) : Nat × Nat × Nat × Nat := if major w < 0x40 then (12, 6, 0, 32) else (18, 12, 6, 0)

/-- Repetition `i` of a body word, with what d, a, b and c exceed their fields by. -/
def stepWord (r : RepSeq) (i : Nat) : W32 × Nat × Nat × Nat × Nat :=
  let (pd, pa, pb, pc) := fieldPlaces r.body
  let (w, hd) := if r.dinc = 0 then (r.body.toNat, 0) else stepField r.body.toNat pd (i * r.dinc)
  let (w, ha) := if r.ainc = 0 then (w, 0) else stepField w pa (i * r.ainc)
  let (w, hb) := if r.binc = 0 then (w, 0) else stepField w pb (i * r.binc)
  let (w, hc) := if r.cinc = 0 then (w, 0) else stepField w pc (i * r.cinc)
  (w32 w, hd, ha, hb, hc)

/-! ### Events of waits (R129 to R131) -/

/-- The gang's waits stand still: it is stopped, or some slice of a list is held during a handler, in which no lane changes
its place (R121, R145). Log entry 84, DEDUCED. -/
def Gang.waitsHeld (g : Gang) (ss : List Nat) : Bool := g.stopped || ss.any fun i => (g.slice i).held != 0

/-- The slices that wait on a rejoin register. -/
def Gang.waiters (g : Gang) (k : Nat) : List Nat := g.sliceList.filter (g.waitsOn k)

/-- JOIN_COMPLETE: what the gang applies each cycle to rejoin register `m` (R129). -/
def Gang.applyJoin (g : Gang) (m : Nat) : Gang :=
  if g.waitsHeld (g.waiters m) ∨ ¬ g.anyWaits m then g else g.joinStep m

def execJoinComplete (g m : Nat) (s : State) : Outcome State Fault Refusal := .next (s.mapGang g fun x => x.applyJoin m)

/-- The wait on register `k` times out: each waiting slice goes on alone with its waiting and parked lanes (R130). -/
def Gang.joinTimeout (g : Gang) (k : Nat) : Gang :=
  let g := (g.waiters k).foldl (fun g i =>
    let r := g.rejoinReg k
    let m := (g.path ||| r.parked) &&& sliceMask i
    let a := match (g.slice i).wait with | some (.join _ a) => a | _ => 0
    let c := g.freshCohort
    let g := g.setRejoin k { r with expect := r.expect &&& ~~~m, arrived := r.arrived &&& ~~~m, parked := r.parked &&& ~~~m, age := 0 }
    { (g.onSlices [i] fun _ x => { x with wait := none, cohort := c, pc := pcMake (a + 4) 0, rep := none, stall := none }) with
      path := g.path ||| m }) g
  { g with sys := { g.sys with rlost := if g.sys.rlost = 0xFFFFFFFF#32 then g.sys.rlost else g.sys.rlost + 1 } }

/-- REJOIN_TIMEOUT, in ageing mode (R130). -/
def Gang.applyTimeout (g : Gang) (ageing : Bool) (m : Nat) : Gang :=
  if ageing ∧ (g.rejoinReg m).age ≥ 65536 ∧ g.anyWaits m ∧ (g.joinReady m).isNone ∧ ¬ g.waitsHeld (g.waiters m) then g.joinTimeout m
  else g

def execRejoinTimeout (g m : Nat) (s : State) : Outcome State Fault Refusal :=
  .next (s.mapGang g fun x => x.applyTimeout (s.group x.group).ageing m)

/-- The REGANG that slice `i` waits at: its slices, where all of them wait at one address with one mask. -/
def Gang.regangReady (g : Gang) (i : Nat) : Option (List Nat × Nat) :=
  match (g.slice i).wait with
  | some (.regang m a _) =>
    let ss := those 8 (bit m)
    if ss.all fun j => (g.regangWait m a j).isSome then some (ss, a) else none
  | _ => none

/-- REGANG_COMPLETE. -/
def Gang.applyRegang (g : Gang) (sl : Nat) : Gang :=
  match g.regangReady sl with
  | some (ss, a) => if g.waitsHeld ss then g else g.unite ss (a + 4)
  | none => g

def execRegangComplete (g sl : Nat) (s : State) : Outcome State Fault Refusal := .next (s.mapGang g fun x => x.applyRegang sl)

/-- A REGANG that has not completed releases each waiting slice as its own cohort (R131). -/
def Gang.regangTimeout (g : Gang) (m a : Nat) : Gang :=
  let g := (g.sliceList.filter fun i => (g.regangWait m a i).isSome).foldl (fun g i =>
    let c := g.freshCohort
    g.onSlices [i] fun _ x => { x with wait := none, cohort := c, pc := pcMake (a + 4) 0, rep := none, stall := none }) g
  { g with sys := { g.sys with rlost := if g.sys.rlost = 0xFFFFFFFF#32 then g.sys.rlost else g.sys.rlost + 1 } }

/-- REGANG_TIMEOUT, in ageing mode. -/
def Gang.applyRegangTimeout (g : Gang) (ageing : Bool) (clock sl : Nat) : Gang :=
  match (g.slice sl).wait with
  | some (.regang m a t) =>
    if ageing ∧ clock ≥ t + 65536 ∧ (g.regangReady sl).isNone ∧ ¬ g.waitsHeld [sl] then g.regangTimeout m a else g
  | _ => g

def execRegangTimeout (g sl : Nat) (s : State) : Outcome State Fault Refusal :=
  .next (s.mapGang g fun x => x.applyRegangTimeout (s.group x.group).ageing s.clock sl)

/-- What a gang applies to its waits at the end of a cycle: to every rejoin register, the lowest first, and to every REGANG. -/
def Gang.applyWaits (g : Gang) (ageing : Bool) (clock : Nat) : Gang :=
  if g.slices.all fun x => x.wait.isNone then g
  else
    let g := (List.range 8).foldl (fun g m => g.applyTimeout ageing m) ((List.range 8).foldl (fun g m => g.applyJoin m) g)
    g.sliceList.foldl (fun g i => (g.applyRegang i).applyRegangTimeout ageing clock i) g

end Sys2Proof.Machine
end

