-- ==== Sys2Proof/Machine/Engine.lean ====
section
/-! DEFINITION. The stream engines and the bulk engines (11 R254 to R272): the operations of a stream program, BXCOPY, the
blocks of a copy and its completion. -/

namespace Sys2Proof.Machine

open Host (Outcome)

/-! ### What engines read and write -/

/-- A byte range that an engine reads or writes: its places, or the fault of its translation. -/
def State.engPlaces (s : State) (die x va n : Nat) (wr : Bool) : Except (Nat × Xl) (List (Nat × Nat)) :=
  (segments va n).mapM fun (a, k) =>
    match s.engXl die x a k wr with
    | .ok pa _ => .ok (pa, k)
    | r => .error (a, r)

/-- Stores bytes word by word; a partial word over poison is left as it is (07 R161). -/
def State.engStore (s : State) (a : Nat) (bs : List Byte) : State :=
  (protWords a bs.length).foldl (fun s w =>
    let lo := max a w
    let hi := min (a + bs.length) (w + protSize w)
    s.storeAll lo ((bs.drop (lo - a)).take (hi - lo))) s

/-- An agent of a path writes bytes for a gang (07 R176; 14 R315). -/
def State.engWrite (s : State) (p agent gk a : Nat) (bs : List Byte) : State :=
  (s.writingBy p agent gk (if p = 0 then 8 else 1) a bs.length).engStore a bs

/-- The core for whose gangs a stream context and a bulk copy work. -/
def State.streamCore (s : State) (c : StreamCtx) : Nat := (s.group c.group).core
def State.bulkCore (s : State) (x : Bulk) : Nat := (s.group x.group).core

/-- The page fault of an engine posts a kind 2 record and gives its seq (18 R377): agent 0 stream, 1 bulk, 2 launcher,
3 image. -/
def State.postEngineMiss (s : State) (p x va agent : Nat) (malformed : Bool) (r : FaultRec) : State × Nat :=
  (s.postRecord p { r with kind := 2, ctx := x, addr := va, detail := agent + b2n malformed * 8 }, s.nextSeq p)

/-- A provenance refusal of an engine, named in a record, posts that record as kind 3. -/
def State.postEngineDeny (s : State) (p x : Nat) (who : FaultRec) : Xl → State
  | .deny 2 page prov => s.postRecord p { who with kind := 3, ctx := x, addr := page, detail := prov }
  | _ => s

/-! ### Stream contexts -/

/-- The partition and context of a stream context's group, and its die. -/
def State.streamPart (s : State) (c : StreamCtx) : Nat := (s.group c.group).part
def State.streamCtxOf (s : State) (c : StreamCtx) : Nat := (s.group c.group).ctx
def streamDie (h : Nat) : Nat := h / 512

/-- The walker of a stream context: its engine's cache (12 R287). -/
def State.streamWalker (s : State) (h : Nat) (c : StreamCtx) : Walker :=
  let x := s.streamCtxOf c
  { ctx := x, unit := 1024 + h / 16, xl := fun s va => s.engXl (streamDie h) x va 16 false }

/-- Changes a context's registers. -/
def State.setRegs (s : State) (h : Nat) (r : StreamRegs) : State :=
  let c := s.stream h
  s.setStream h { c with regs := r, state := 1, pausing := false, flits := [] }

/-- The registers after the word. -/
def StreamRegs.next (r : StreamRegs) : StreamRegs := { r with pc := (r.pc + 8) % 2 ^ 64 }

/-- The checkpoint is taken as things stand (R268). -/
def State.checkpoint (s : State) (h : Nat) : State :=
  let c := s.stream h
  s.setStream h { c with check := c.regs, arrived := 0, expected := 0 }

/-- A stream context waits for the host on a page fault (R254). -/
def State.streamMiss (s : State) (h va : Nat) (malformed : Bool) : State :=
  let c := s.stream h
  let (s, seq) := s.postEngineMiss (s.streamPart c) (s.streamCtxOf c) va 0 malformed { stream := some h }
  let c := s.stream h
  s.setStream h { c with state := 6, fault := some seq }

/-- What a failed translation does to a stream context: a miss waits, anything else is fault 0x04. -/
def State.streamXl (s : State) (h va : Nat) (r : Xl) : State :=
  match r with
  | .miss m => s.streamMiss h va m
  | r => (s.postEngineDeny (s.streamPart (s.stream h)) (s.streamCtxOf (s.stream h)) { stream := some h } r).streamFault h 0x04

/-- An access of a stream context to some bytes: metered, and where it reaches another chip asked for, once (16 R365; 19 R407, R413). -/
def State.streamAsk (s : State) (c : StreamCtx) (cls n flat : Nat) : State :=
  if ¬ c.flits.isEmpty then s
  else
    let p := s.streamPart c
    ((s.meter p (corePort (s.streamCore c)) n flat).ask p (s.worldOf (s.streamCtxOf c)) cls n [flat]).1

/-- An operation that has sent requests to other chips since a state waits for the answers. -/
def State.awaitFlits (s : State) (h : Nat) (since : State) : Option State :=
  let fs := sentSince since s
  if fs.isEmpty then none else some (s.setStream h { s.stream h with flits := fs })

/-- A stream word is executed for the context that `cur` names. -/
def streamOp (f : Nat → StreamCtx → State → State) (s : State) : Outcome State Fault Refusal :=
  match find s.streams s.cur.ctx with
  | none => .fault .noIssuer
  | some c => .next (f s.cur.ctx c s)

/-- A field is out of its range, or unused bits are not zero. -/
def State.badWord (s : State) (h : Nat) : State := s.streamFault h 0x02

def StreamRegs.er (r : StreamRegs) (n : BitVec 4) : W64 := get 0 r.e n.toNat
def StreamRegs.setE (r : StreamRegs) (n : BitVec 4) (x : W64) : StreamRegs := { r with e := put r.e n.toNat x }

/-- An e register number, and one or "none". -/
def isE (n : BitVec 4) : Bool := decide (n.toNat ≤ 7)
def isE15 (n : BitVec 4) : Bool := isE n || n == 15#4

def sext40 (imm : BitVec 40) : W64 := imm.signExtend 64

/-! ### Control operations (R258, R259) -/

def execSeSet (ra rb rc : BitVec 4) (imm : BitVec 40) : State → Outcome State Fault Refusal :=
  streamOp fun h c s =>
    if isE ra ∧ rb = 0 ∧ rc = 0 then s.setRegs h (c.regs.setE ra (sext40 imm)).next else s.badWord h

def execSeAdd (ra rb rc : BitVec 4) (imm : BitVec 40) : State → Outcome State Fault Refusal :=
  streamOp fun h c s =>
    if isE ra ∧ isE rb ∧ isE15 rc then
      let z := if rc = 15#4 then 0 else c.regs.er rc
      s.setRegs h (c.regs.setE ra (c.regs.er rb + z + sext40 imm)).next
    else s.badWord h

def execSeMul (ra rb rc : BitVec 4) (imm : BitVec 40) : State → Outcome State Fault Refusal :=
  streamOp fun h c s =>
    if isE ra ∧ isE rb ∧ isE15 rc ∧ (rc = 15#4 ∨ imm = 0) then
      let z := if rc = 15#4 then sext40 imm else c.regs.er rc
      s.setRegs h (c.regs.setE ra (c.regs.er rb * z)).next
    else s.badWord h

/-- imm [31:0] with imm [39:32] zero where the immediate is used; all of imm zero where a register is. -/
def immOk (rb : BitVec 4) (imm : BitVec 40) : Bool := if rb = 15#4 then decide (imm.toNat < 2 ^ 32) else imm == 0

def execSeLoop (ra rb rc : BitVec 4) (imm : BitVec 40) : State → Outcome State Fault Refusal :=
  streamOp fun h c s =>
    if decide (ra.toNat ≤ 3) && isE15 rb && rc == 0 && immOk rb imm then
      let n := if rb = 15#4 then imm.toNat % 2 ^ 32 else (c.regs.er rb).toNat % 2 ^ 32
      if n = 0 then s.streamFault h 0x09
      else
        let r := c.regs
        s.setRegs h { r with lc := put r.lc ra.toNat (w32 n), start := put r.start ra.toNat ((r.pc + 8) % 2 ^ 64) }.next
    else s.badWord h

def execSeNext (ra rb rc : BitVec 4) (imm : BitVec 40) : State → Outcome State Fault Refusal :=
  streamOp fun h c s =>
    if decide (ra.toNat ≤ 3) && rb == 0 && rc == 0 && imm == 0 then
      let r := c.regs
      let n := (get 0 r.lc ra.toNat).toNat
      if n = 0 then s.streamFault h 0x09
      else
        let r := { r with lc := put r.lc ra.toNat (w32 (n - 1)) }
        s.setRegs h (if n - 1 ≠ 0 then { r with pc := get 0 r.start ra.toNat } else r.next)
    else s.badWord h

def execSeJmp (ra rb rc : BitVec 4) (imm : BitVec 40) : State → Outcome State Fault Refusal :=
  streamOp fun h c s =>
    if ra == 0 && isE15 rb && rc == 0 then
      let r := c.regs
      s.setRegs h (if rb = 15#4 ∨ r.er rb ≠ 0 then { r with pc := wrap 64 (r.pc + 8 * imm.toInt) } else r.next)
    else s.badWord h

/-- Every earlier write of a stream context is visible at device scope (R265). -/
def State.engineSeen (s : State) (h : Nat) : State := s.reveal fun v => if v.agent = streamAgent h then allSeats else 0

/-- Bytes of the context still await their credit. -/
def State.owed (s : State) (h : Nat) : Bool := s.credits.any fun c => c.stream == some h

/-- The operation that a context stands at waits for its credits. -/
def State.pauseStream (s : State) (h : Nat) : State := s.setStream h { s.stream h with state := 1, pausing := true }

def execSeStop (ra rb rc : BitVec 4) (imm : BitVec 40) : State → Outcome State Fault Refusal :=
  streamOp fun h c s =>
    if ra == 0 && rb == 0 && rc == 0 && imm == 0 then
      if s.owed h then s.pauseStream h
      else (s.engineSeen h).setStream h { c with state := 4, pausing := false }
    else s.badWord h

def execSeCoord (ra rb rc : BitVec 4) (imm : BitVec 40) : State → Outcome State Fault Refusal :=
  streamOp fun h c s =>
    match find c.regs.sd ra.toNat with
    | none => s.badWord h
    | some b =>
      if decide (ra.toNat ≤ 3) && decide (rb.toNat ≤ 5) && isE rc && decide (1 ≤ imm.toNat) && decide (imm.toNat < 2 ^ 32)
        && decide (rb.toNat < (descOf b.desc).rank) then
        let b := { b with origin := b.origin.set rb.toNat ((c.regs.er rc).toNat % 2 ^ 32), extent := b.extent.set rb.toNat imm.toNat }
        s.setRegs h { c.regs with sd := put c.regs.sd ra.toNat b }.next
      else s.badWord h

/-! ### Boxes and elements (R260 to R262, R265) -/

/-- The coordinates of a box in row-major order, from each axis's indices. -/
def boxCoords : List (List Nat) → List (List Nat)
  | [] => [[]]
  | xs :: rest => xs.flatMap fun x => (boxCoords rest).map (x :: ·)

/-- One element: its value (and whether poison made it zero), a fault code, a translation miss, or host memory behind a link that is
down. -/
inductive ERes where
  | val (x : Nat) (poison : Bool)
  | code (c : Nat)
  | xl (va : Nat) (r : Xl)
  | held
  deriving DecidableEq, Repr

/-- Element value at a place. -/
def State.elemAt (s : State) (core flat n nib : Nat) (t : Nat) (spec : Bool) (lost : Nat) : ERes :=
  if s.unreachable flat then .code lost
  else if s.poisoned flat n then (if spec then .val 0 true else .code 0x0B)
  else .val (if t = 14 then s.pathNum 1 core flat 1 / 16 ^ nib % 16 else s.pathNum 1 core flat n) false

/-- Reads the element at some coordinates (R260; 12 R302, R304). -/
def State.element (s : State) (h : Nat) (c : StreamCtx) (D : TDesc) (remote : Bool) (xs : List Nat) : ERes × State :=
  let n := elemBytes D.type
  let (t, s) := s.translateAll (s.streamWalker h c) D remote xs
  let x := s.streamCtxOf c
  match t with
  | .oor _ _ => (.code 0x06, s)
  | .absent _ _ _ => (.code 0x05, s)
  | .flt f => (.xl f.va (if f.code = cPage then .miss f.malformed else .deny (bits f.aux.toNat 56 4) f.page f.prov), s)
  | .ok off spec _ (some (a, ent, o)) =>
    let full := (off + o * nth D.stride a) % 2 ^ 64
    let (byte, nib) := if D.type = 14 then (full / 2, full % 2) else (full, 0)
    match s.blockPlace (s.streamPart c) ent.chip ent.pstart byte n (s.worldOf x) ent.tier false with
    | none => (.code 0x11, s)
    | some flat =>
      if isHost flat ∧ ¬ (s.part (s.streamPart c)).linked then (.held, s)
      else (s.elemAt (s.streamCore c) flat n nib D.type spec 0x11, s.streamAsk c 0 n flat)
  | .ok off spec _ none =>
    let (va, nib) := D.place off
    if va % n ≠ 0 then (.code 0x04, s)
    else match s.engXl (streamDie h) x va n false with
      | .ok pa _ =>
        if isHost pa ∧ ¬ (s.part (s.streamPart c)).linked then (.held, s)
        else (s.elemAt (s.streamCore c) pa n nib D.type spec 0x11, s.streamAsk c 0 n pa)
      | .deny 2 page prov => (if remote ∧ isPeer page then .code 0x11 else .xl va (.deny 2 page prov), s)
      | r => (.xl va r, s)

/-- The bytes that elements pack to. -/
def packElems (t : Nat) (xs : List Nat) : List Byte :=
  if t = 14 then
    (List.range (xs.length / 2)).map fun i => BitVec.ofNat 8 (nth xs (2 * i) + 16 * nth xs (2 * i + 1))
  else xs.flatMap fun x => toBytes (elemBytes t) x

/-- The outcome of reading a box: bytes, or one of the failures that its elements meet, whichever the engine meets first. -/
def State.readBox (s : State) (h : Nat) (c : StreamCtx) (D : TDesc) (remote : Bool) (axes : List (List Nat)) :
    Except ERes (List Byte × Bool) × State :=
  let (rs, t) := (boxCoords axes).foldl (fun (r : List ERes × State) xs =>
    let (e, s) := r.2.element h c D remote xs
    (r.1 ++ [e], s)) ([], s)
  let s := if rs.contains .held then s else t
  let bad := (rs.filter fun e => match e with | .val _ _ => false | _ => true).eraseDups
  let (b, s) := if bad.contains .held then (some .held, s) else s.pick bad
  match b with
  | some e => (.error e, s)
  | none =>
    (.ok (packElems D.type (rs.map fun e => match e with | .val x _ => x | _ => 0),
          rs.any fun e => match e with | .val _ p => p | _ => false), s)

/-- Bytes of a box of a type, or none where they are not whole. -/
def boxSize (t n : Nat) : Option Nat := if t = 14 then (if n % 2 = 0 then some (n / 2) else none) else some (n * elemBytes t)

/-- The axes' index lists of a box. -/
def StreamBox.axes (b : StreamBox) (D : TDesc) : List (List Nat) :=
  (List.range D.rank).map fun a => (List.range (nth b.extent a)).map (nth b.origin a + ·)

/-- The failure of a read stops the context, or makes it wait. -/
def State.elemFail (s : State) (h : Nat) : ERes → State
  | .code c => s.streamFault h c
  | .xl va r => s.streamXl h va r
  | .val _ _ | .held => s

/-- The window that an open fill writes overflows, or none is open. -/
def State.windowFault (s : State) (c : StreamCtx) (size : Nat) : Option Nat :=
  let ent := (s.group c.group).entry c.entry
  if c.regs.cur = none then some 0x08
  else if c.regs.fill + size > ent.wsize * 512 then some 0x07
  else none

/-- An operation of a context that was under way has ended: what CATCLR or SESTOP asked for takes effect (R249, R256). -/
def State.opEnds (s : State) (h : Nat) : State :=
  let c := s.stream h
  if c.clearing then s.streamFault h 0x0C
  else if c.stopping then s.setStream h { c with state := 3, stopping := false }
  else s

/-- The last beat of an operation has been written: fill advances, and the credit is offered to every group written (R261). -/
def State.endBeats (s : State) (h filled : Nat) : State :=
  let c := s.stream h
  let cur := c.regs.cur.getD 0
  let s := if c.touch.isSome then s
    else (s.written c.group c.entry).foldl (fun s grp =>
      let obj := spadBase grp + ((s.group grp).entry c.entry).full
      (s.noteCredit (streamAgent h) obj cur).offerCredit { obj := obj, phase := cur, nbytes := filled - c.regs.fill, stream := some h }) s
  ((s.setStream h { s.stream h with beats := [], reading := none }).setRegs h { c.regs with fill := filled }.next).opEnds h

/-- A beat of at most 128 bytes goes into window cur of every group written (R254, R261; 16 R365). -/
def State.moveBeat (s : State) (h : Nat) : State :=
  let c := s.stream h
  match c.beats with
  | [] => s
  | (off, bs) :: rest =>
    let p := s.streamPart c
    let s := (s.written c.group c.entry).foldl (fun s grp =>
      let ent := (s.group grp).entry c.entry
      let flat := s.windowFlat grp ent (c.regs.cur.getD 0 % ent.cnt) + off
      (s.engWrite 1 (streamAgent h) c.gang flat bs).meter p (corePort (s.streamCore c)) bs.length flat) s
    let s := s.charge p 1 1
    if rest.isEmpty then s.endBeats h (off + bs.length) else s.setStream h { s.stream h with beats := rest }

/-- The beats in which data go into a window from an offset on. -/
def windowBeats (fill : Nat) (data : List Byte) : List (Nat × List Byte) :=
  (List.range (ceilDiv data.length 128)).map fun i => (fill + 128 * i, (data.drop (128 * i)).take 128)

/-- Data go into window cur at offset fill, beat by beat (R261): the first beat at once, but where the act is set aside, so that its
bytes too may still be read anew. -/
def State.writeWindow (s : State) (h : Nat) (data : List Byte) : State :=
  let c := s.stream h
  let s := s.setStream h { c with beats := windowBeats c.regs.fill data, state := 1 }
  if s.aside then s else s.moveBeat h

/-- A fetch notes the box whose bytes it moves: none for a decoded one, whose bytes are the decoder's. -/
def State.noteBox (s : State) (h : Nat) (r : BoxRead) : State := s.setStream h { s.stream h with reading := some r }

/-- Bytes with those of a range of units taken from another reading. -/
def mixBytes (unit k n : Nat) (old new : List Byte) : List Byte :=
  (List.range old.length).map fun i => (if k * unit ≤ i ∧ i < (k + n) * unit then new[i]? else old[i]?).getD 0

/-- sys.gflags.poison of the starting gang (12 R302). -/
def State.flagPoison (s : State) (gk : Nat) (p : Bool) : State := if p then s.gflag gk 2 else s

/-- 128-byte entries of return-port data, the last padded with zeros (R261). -/
def portEntries (bs : List Byte) : List (List W32) :=
  (List.range (ceilDiv bs.length 128)).map fun i => (List.range 32).map fun l => w32 (fromBytes ((bs.drop (128 * i + 4 * l)).take 4))

/-- The gang of a context has exited: its return-port entries are discarded (R261). -/
def State.portGone (s : State) (c : StreamCtx) : Bool := !(s.gang c.gang).live || decide ((s.gang c.gang).unexited = 0)

/-- The next return-port entry, a beat, can be sent: its queue's window has room, or it is discarded. -/
def State.portReady (s : State) (c : StreamCtx) : Bool :=
  s.portGone c || match c.out with
    | (port, _) :: _ => s.windowRoom (portKey c.gang (8 + port)) 1
    | [] => false

/-- The next return-port entry is sent; the last one ends the operation. -/
def State.flushPort (s : State) (h : Nat) : State :=
  let c := s.stream h
  match c.out with
  | [] => s
  | (port, ws) :: rest =>
    let rest := if s.portGone c then [] else rest
    let p := s.streamPart c
    let s := if s.portGone c then s else ((s.sendEntry (portKey c.gang (8 + port)) ws 0xFFFFFFFF#32).charge p 1 1).charge p 4 1
    let s := s.setStream h { s.stream h with out := rest }
    if rest.isEmpty then ((s.setStream h { s.stream h with reading := none }).setRegs h c.regs.next).opEnds h else s

/-- Elements `k` to `k + n - 1` of the box that a fetch reads are read anew, where it still has to write their bytes (14 R311): the
engine reads the elements in no fixed order (R261), each at a moment of its own. -/
def State.boxReread (s : State) (h k n : Nat) : State :=
  let c := s.stream h
  match c.reading with
  | none => s
  | some r =>
    match find c.regs.sd r.slot with
    | none => s
    | some b =>
      let D := descOf b.desc
      match (s.readBox h c D r.remote r.axes).1 with
      | .ok (new, false) =>
        let data := mixBytes (if D.type = 14 then 1 else elemBytes D.type) k n r.data new
        let r := { r with data := data }
        let left {α : Type} (todo all : List α) : List α := all.drop (all.length - todo.length)
        match c.out with
        | (port, _) :: _ =>
          s.setStream h { c with reading := some r, out := left c.out ((portEntries data).map fun ws => (port, ws)) }
        | [] => s.setStream h { c with reading := some r, beats := left c.beats (windowBeats c.regs.fill data) }
      | _ => s

/-- SE.FETCH (R261). -/
def execSeFetch (ra rb rc : BitVec 4) (imm : BitVec 40) : State → Outcome State Fault Refusal :=
  streamOp fun h c s =>
    let v := imm.toNat
    let obytes := bits v 8 24
    let port := bits v 6 2
    let toPort := bit v 5
    let dslot := bits v 3 2
    let dec := bit v 2
    let legal := rb == 0 && rc == 0 && decide (ra.toNat ≤ 3) && decide (v < 2 ^ 32) && v % 4 == 0
      && (if dec then obytes != 0 else obytes == 0 && dslot == 0) && (toPort || port == 0)
    match (if legal then find c.regs.sd ra.toNat else none) with
    | none => s.badWord h
    | some b =>
      let D := descOf b.desc
      let axes := b.axes D
      match boxSize D.type (axes.foldl (fun n xs => n * xs.length) 1) with
      | none => s.badWord h
      | some size =>
        match (if toPort then none else s.windowFault c (if dec then obytes else size)) with
        | some code => s.streamFault h code
        | none =>
          let s0 := s
          let (r, s) := s.readBox h c D false axes
          match r with
          | .error e => s.elemFail h e
          | .ok (src, pois) => (s.awaitFlits h s0).getD <|
            let s := s.flagPoison c.gang pois
            match (if dec then s.decodeWith (s.group c.group).core dslot obytes src else some src) with
            | none => s.streamFault h 0x0A
            | some data =>
              let s := if dec then s else s.noteBox h { slot := ra.toNat, axes := axes, data := data }
              if toPort then s.setStream h { s.stream h with out := (portEntries data).map fun ws => (port, ws), state := 1 }
              else s.writeWindow h data

/-- One index of a list, with its place. -/
def State.listIndex (s : State) (h : Nat) (c : StreamCtx) (a : Nat) : Except ERes (Nat × Nat) :=
  match s.engXl (streamDie h) (s.streamCtxOf c) a 4 false with
  | .ok pa _ =>
    if isHost pa ∧ ¬ (s.part (s.streamPart c)).linked then .error .held
    else if s.unreachable pa then .error (.code 0x11)
    else if s.poisoned pa 4 then .error (.code 0x0B)
    else .ok (s.pathNum 1 (s.streamCore c) pa 4, pa)
  | r => .error (.xl a r)

/-- The index list of SE.GATHER with its places (R262), or a failure. -/
def State.indexList (s : State) (h : Nat) (c : StreamCtx) (va n : Nat) : Except ERes (List (Nat × Nat)) :=
  if va % 4 ≠ 0 then .error (.code 0x04) else (List.range n).mapM fun i => s.listIndex h c (va + 4 * i)

def execSeGather (ra rb rc : BitVec 4) (imm : BitVec 40) : State → Outcome State Fault Refusal :=
  streamOp fun h c s =>
    let n := imm.toNat
    let legal := decide (ra.toNat ≤ 3) && isE rc && decide (1 ≤ n) && decide (n ≤ 65536)
    match (if legal then find c.regs.sd ra.toNat else none) with
    | none => s.badWord h
    | some b =>
      let D := descOf b.desc
      if rb.toNat ≥ D.rank then s.badWord h
      else
        let lens := ((b.axes D).map List.length).set rb.toNat n
        match boxSize D.type (lens.foldl (· * ·) 1) with
        | none => s.badWord h
        | some size =>
          match s.windowFault c size with
          | some code => s.streamFault h code
          | none =>
            match s.indexList h c (c.regs.er rc).toNat n with
            | .error e => s.elemFail h e
            | .ok is =>
              let s0 := s
              let s := is.foldl (fun s p => s.streamAsk c 0 4 p.2) s
              let axes := (b.axes D).set rb.toNat (is.map Prod.fst)
              let (r, s) := s.readBox h c D false axes
              match r with
              | .error e => s.elemFail h e
              | .ok (data, pois) => (s.awaitFlits h s0).getD
                (((s.flagPoison c.gang pois).noteBox h { slot := ra.toNat, axes := axes, data := data }).writeWindow h data)

def execSeKvfetch (ra rb rc : BitVec 4) (imm : BitVec 40) : State → Outcome State Fault Refusal :=
  streamOp fun h c s =>
    let legal := decide (ra.toNat ≤ 3) && rb == 0 && rc == 0 && imm == 0
    match (if legal then find c.regs.sd ra.toNat else none) with
    | none => s.badWord h
    | some b =>
      let D := descOf b.desc
      let axes := b.axes D
      match boxSize D.type (axes.foldl (fun n xs => n * xs.length) 1) with
      | none => s.badWord h
      | some size =>
        match s.windowFault c size with
        | some code => s.streamFault h code
        | none =>
          let s0 := s
          let (r, s) := s.readBox h c D true axes
          match r with
          | .error e => s.elemFail h e
          | .ok (data, pois) => (s.awaitFlits h s0).getD
            (((s.flagPoison c.gang pois).noteBox h { slot := ra.toNat, remote := true, axes := axes, data := data }).writeWindow h data)

/-! ### Windows and phases (R263, R264) -/

/-- The groups written agree on the entry (R263). -/
def State.castAgrees (s : State) (c : StreamCtx) : Bool :=
  let mine := (s.group c.group).entry c.entry
  !mine.mcast || (s.written c.group c.entry).all fun grp =>
    let e := (s.group grp).entry c.entry
    e.valid && !e.touch && e.mcast && e.wsize == mine.wsize && e.cnt == mine.cnt

/-- The wait of a push entry's SE.WAITF is over (R263). -/
def State.mayOpen (s : State) (c : StreamCtx) : Bool :=
  let k := ((s.group c.group).entry c.entry).next
  (s.written c.group c.entry).all fun grp =>
    let e := (s.group grp).entry c.entry
    (decide (k < e.cnt) || (s.bar (spadBase grp + e.free)).complete ((k + 2 ^ 32 - e.cnt) % 2 ^ 32))
      && (s.bar (spadBase grp + e.full)).isOpen k

def execSeWaitf (ra rb rc : BitVec 4) (imm : BitVec 40) : State → Outcome State Fault Refusal :=
  streamOp fun h c s =>
    if ra == 0 && rb == 0 && rc == 0 && imm == 0 then
      match c.touch with
      | some i =>
        if c.regs.cur.isSome then s.streamFault h 0x08
        else s.setRegs h { c.regs with cur := some i, fill := 0 }.next
      | none =>
        if ¬ s.castAgrees c then s.streamFault h 0x0D
        else
          let k := ((s.group c.group).entry c.entry).next
          let grps := s.written c.group c.entry
          if s.mayOpen c then
            let s := grps.foldl (fun s grp =>
              let e := (s.group grp).entry c.entry
              s.setEntry grp c.entry { e with next := (k + 1) % 2 ^ 32 }) s
            (s.setRegs h { c.regs with cur := some k, fill := 0 }.next).checkpoint h
          else s.setStream h { c with state := 2 }
    else s.badWord h

/-- SE.EXPECT (R264). It comes after every credit of the context's earlier writes (15 R346; log entry 76, DESIGN CHOICE). -/
def execSeExpect (ra rb rc : BitVec 4) (imm : BitVec 40) : State → Outcome State Fault Refusal :=
  streamOp fun h c s =>
    if ra == 0 && rc == 0 && isE15 rb && immOk rb imm then
      match (if c.touch.isSome then none else c.regs.cur) with
      | none => s.streamFault h 0x08
      | some k =>
        if s.owed h then s.pauseStream h
        else
          let n := if rb = 15#4 then imm.toNat else (c.regs.er rb).toNat % 2 ^ 32
          let s := (s.written c.group c.entry).foldl (fun s grp =>
            let flat := spadBase grp + ((s.group grp).entry c.entry).full
            let b := s.bar flat
            let i := k % 4
            let b := { b with xbytes := b.xbytes.set i ((nth b.xbytes i + n) % 2 ^ 32) }
            s.setBar flat (match b.arrive k with
              | some b => b
              | none => b.mark i (0x0E + c.entry * 256))) s
          let c := s.stream h
          (s.setStream h { c with arrived := c.arrived + 1, expected := c.expected + n }).setRegs h c.regs.next
    else s.badWord h

/-! ### Signals, fences and marks (R265) -/

def execSeSignal (ra rb rc : BitVec 4) (imm : BitVec 40) : State → Outcome State Fault Refusal :=
  streamOp fun h c s =>
    if ra == 0 && isE15 rb && isE rc && immOk rb imm then
      let va := (c.regs.er rc).toNat
      let x := if rb = 15#4 then imm.toNat else (c.regs.er rb).toNat
      if va % 8 ≠ 0 then s.streamFault h 0x04
      else match s.engXl (streamDie h) (s.streamCtxOf c) va 8 true with
        | .ok pa _ =>
          if isHost pa ∧ ¬ (s.part (s.streamPart c)).linked then s
          else if s.unreachable pa then s.streamFault h 0x11
          else if s.poisoned pa 8 then s.streamFault h 0x0B
          else (let s0 := s; let s := s.streamAsk c 2 8 pa; (s.awaitFlits h s0).getD <|
            ((((s.engineSeen h).shown pa 8).setNum pa 8 ((s.num pa 8 + x) % 2 ^ 64)).setRegs h c.regs.next).checkpoint h)
        | r => s.streamXl h va r
    else s.badWord h

def execSeFence (ra rb rc : BitVec 4) (imm : BitVec 40) : State → Outcome State Fault Refusal :=
  streamOp fun h c s =>
    if ra == 0 && rb == 0 && rc == 0 && imm == 0 then (if s.owed h then s.pauseStream h else (s.engineSeen h).setRegs h c.regs.next)
    else s.badWord h

def execSeMark (ra rb rc : BitVec 4) (imm : BitVec 40) : State → Outcome State Fault Refusal :=
  streamOp fun h c s =>
    if ra == 0 && rb == 0 && rc == 0 && decide (imm.toNat < 2 ^ 32) then
      (s.setRegs h { c.regs with tag := w32 imm.toNat }.next).checkpoint h
    else s.badWord h

/-! ### Bulk copies (R269 to R272; 19 R412) -/

/-- A request's fields. -/
structure BulkReq where
  src : Nat
  dst : Nat
  len : Nat
  ring : Nat
  tag : Nat
  flags : Nat
  csize : Nat
  p0 : Nat
  bar : Nat
  rest : Nat
  deriving DecidableEq, Repr

def bulkReq (bs : List Byte) : BulkReq :=
  { src := le bs 0 8, dst := le bs 8 8, len := le bs 16 8, ring := le bs 24 8, tag := le bs 32 4, flags := le bs 36 4
    csize := le bs 40 4, p0 := le bs 44 4, bar := le bs 48 4, rest := le bs 52 12 }

def BulkReq.dsp (r : BulkReq) : Bool := bit r.flags 0
def BulkReq.chunk (r : BulkReq) : Bool := bit r.flags 1
def BulkReq.imp (r : BulkReq) : Bool := bit r.flags 2

/-- The request lies inside its table (R269, R412). -/
def State.bulkLegal (s : State) (grp : Nat) (r : BulkReq) : Bool :=
  decide (r.src < 2 ^ 56) && decide (r.dst < 2 ^ 56) && decide (1 ≤ r.len) && decide (r.len < 2 ^ 40) && decide (r.ring < 2 ^ 56)
    && r.ring % 64 == 0 && decide (r.flags < 8) && r.rest == 0 && decide (r.bar < 2 ^ 24) && (!r.chunk || r.dsp) && !(r.chunk && r.imp)
    && (if r.chunk then r.csize % 512 == 0 && decide (512 ≤ r.csize) && decide (r.csize ≤ 2 ^ 24)
          && s.catBar grp r.bar
        else r.csize == 0)
    && (!r.dsp || (match s.localRange grp r.dst r.len with | .at_ _ _ _ => true | .bad _ => false))

/-- The length that an accession record gives (R411), or the fault of reading it. -/
def State.recordLen (s : State) (e : Issue) (src : Nat) : Except Flt Nat :=
  match s.xlate e.g.core (s.ctxOf e.g) (src + 8) 8 false with
  | .ok pa _ =>
    if s.poisoned pa 8 ∨ s.unreachable pa then
      .error { code := cPoison, aux := memAux 0 (src + 8), va := src + 8, page := pa }
    else .ok (s.coreNum e.gk pa 8)
  | r => .error ((xlFlt (src + 8) 0 r).getD {})

/-- A read of the record's length is metered. -/
def State.meterRecord (s : State) (e : Issue) (src : Nat) : State :=
  match s.xlate e.g.core (s.ctxOf e.g) (src + 8) 8 false with
  | .ok pa _ => s.meter (s.partOf e.g) (corePort e.g.core) 8 pa
  | _ => s

/-- The record's length lies in host memory behind a link that is down (19 R399). -/
def State.recordHeld (s : State) (e : Issue) (src : Nat) : Bool :=
  match s.xlate e.g.core (s.ctxOf e.g) (src + 8) 8 false with
  | .ok pa _ => isHost pa && !(s.part (s.partOf e.g)).linked
  | _ => false

def execBxcopy (a : BitVec 6) : State → Outcome State Fault Refusal :=
  issue (.bxcopy a) fun e s =>
    if e.act = 0 then s.advance e.gk e.ss
    else match s.localAt e.g.group 64 64 (e.low a) with
      | .error x => s.precise e x
      | .ok flat =>
        let r := bulkReq (s.coreBytes e.gk flat 64)
        if s.olderStore e.gk true [(flat, 64)] then s.stall e.gk e.ss .older
        else if ¬ s.bulkLegal e.g.group r then s.opFormat e 14
        else if r.imp ∧ s.recordHeld e r.src then s.stall e.gk e.ss .link
        else match (if r.imp then s.recordLen e r.src else .ok r.len) with
          | .error x => s.precise e x
          | .ok l =>
            let s := if r.imp then s.meterRecord e r.src else s
            if l ≠ r.len then s.opFormat e 14
            else
              let b : Bulk :=
                { gang := e.gk, group := e.g.group, part := s.partOf e.g, die := e.g.core / 64, ctx := s.ctxOf e.g, src := r.src, dst := r.dst, len := r.len, ring := r.ring
                  tag := w32 r.tag, dsp := r.dsp, imp := r.imp, todo := List.range (ceilDiv r.len 128)
                  chunk := if r.chunk then some (r.csize, r.p0, spadBase e.g.group + r.bar) else none }
              let s := { s with bulks := put s.bulks (fresh s.bulks) b }
              (s.count e.gk 3 (· + 1)).advance e.gk e.ss

def State.bulk (s : State) (b : Nat) : Bulk := get {} s.bulks b
def State.setBulk (s : State) (b : Nat) (x : Bulk) : State := { s with bulks := put s.bulks b x }

/-- A copy ends with a code; the phase of its failing chunk is marked (R272). -/
def State.bulkEnd (s : State) (b blk code va : Nat) : State :=
  let x := s.bulk b
  let s := s.setBulk b { x with ended := some (1, code, va % 2 ^ 56), todo := [] }
  match x.chunk with
  | some (cs, p0, bar) => s.offerCredit { obj := bar, phase := (p0 + blk * 128 / cs) % 2 ^ 32, mark := some (code + 2 ^ 13) }
  | none => s

/-- What a failed translation does to a copy. -/
def State.bulkXl (s : State) (b blk va : Nat) (r : Xl) : State :=
  let x := s.bulk b
  let p := x.part
  match r with
  | .miss m =>
    let (s, seq) := s.postEngineMiss p x.ctx va 1 m { bulk := some b }
    s.setBulk b { x with fault := some seq }
  | r => (s.postEngineDeny p x.ctx { bulk := some b } r).bulkEnd b blk 0x04 va

/-- The check of an import before it copies: signature, signer and binding (R412). It gives the record's data digest; none where the
record lies in host memory behind a link that is down. -/
def State.importOk (s : State) (x : Bulk) : Except (Nat × Xl) (Option (Bool × Nat)) :=
  (s.engPlaces x.die x.ctx x.src 4096 false).map fun ps =>
    if ¬ (s.part x.part).linked ∧ ps.any fun p => isHost p.1 then none
    else
    let bs := ps.flatMap fun p => s.pathBytes 2 (s.bulkCore x) p.1 p.2
    let signer := le bs 0x78 2
    let body := bs.take 0x100
    let sig := (List.range 3309).all fun i => bs[0x100 + i]? == some (Config.signature signer body i)
    let known := signer == s.chip.number || s.chip.admitted.any fun a => a.1 == signer
    some (sig && known && (s.ctx x.ctx).binding == some ((bs.drop 0x10).take 64), le bs 0x50 32)

/-- The beats that a copy may move next: any that is still to copy; once its context stops, those of the 512-byte blocks that it
has begun (18 R383). -/
def Bulk.due (x : Bulk) : CtxState → List Nat
  | .resident => x.todo
  | .stopping => x.todo.filter fun j =>
    (List.range 4).any fun i => decide (512 * (j / 4) + 128 * i < x.len) && !x.todo.contains (4 * (j / 4) + i)
  | _ => []

/-- One beat of a copy (R270; 16 R365). -/
def State.bulkStep (s : State) (b : Nat) : State :=
  match find s.bulks b with
  | none => s
  | some x =>
    let p := x.part
    let due := x.due (s.ctx x.ctx).state
    if x.ended.isSome ∨ x.fault.isSome ∨ due.isEmpty ∨ ¬ s.mayStart p 2 ∨ ¬ s.mayStart p 4 then s
    else match (if x.imp ∧ x.ddig.isNone then s.importOk x else .ok (some (true, x.ddig.getD 0))) with
    | .error (va, r) => s.bulkXl b 0 va r
    | .ok none => s
    | .ok (some (false, _)) => s.setBulk b { x with ended := some (2, 0, 0), todo := [] }
    | .ok (some (true, d)) =>
      let x := if x.imp then { x with ddig := some d } else x
      let (j, s) := match x.asked with
        | some (j, _) => (some j, s)
        | none => s.pick due
      let j := j.getD 0
      let n := min 128 (x.len - 128 * j)
      let src := x.src + (if x.imp then 4096 else 0) + 128 * j
      match s.engPlaces x.die x.ctx src n false with
      | .error (va, r) => s.bulkXl b j va r
      | .ok ps =>
        match (if x.dsp then .ok [(s.localFlat x.group (x.dst + 128 * j), n)]
               else s.engPlaces x.die x.ctx (x.dst + 128 * j) n true) with
        | .error (va, r) => s.bulkXl b j va r
        | .ok ds =>
          if ¬ (s.part p).linked ∧ ((ps ++ ds).any fun q => isHost q.1) then s
          else if ps.any fun q => s.unreachable q.1 then s.bulkEnd b j 0x11 src
          else if ds.any fun q => s.unreachable q.1 then s.bulkEnd b j 0x11 (x.dst + 128 * j)
          else match s.asking p (s.worldOf x.ctx) 1 n (x.asked.elim [] Prod.snd) ((ps ++ ds).map Prod.fst) with
          | .wait s fs => s.setBulk b { x with asked := some (j, fs) }
          | .go =>
            let data := ps.flatMap fun q => s.pathBytes 2 (s.bulkCore x) q.1 q.2
            let pois := ps.flatMap fun q =>
              let each := (List.range q.2).map fun i => s.poisoned (q.1 + i) 1
              if isHost q.1 then each.map fun _ => each.any id else each
            let (s, _) := ds.foldl (fun (r : State × Nat) q =>
              let s := r.1.engWrite 2 (bulkAgent b) x.gang q.1 ((data.drop r.2).take q.2)
              let s := (List.range q.2).foldl (fun s i =>
                let bad := if isHost q.1 then ((pois.drop r.2).take q.2).any id else (pois[r.2 + i]?).getD false
                if bad then s.markPoison (protAt (q.1 + i)) true else s) s
              (s, r.2 + q.2)) (s, 0)
            let s := (ps ++ ds).foldl (fun s q => s.meter p (corePort (s.bulkCore x)) q.2 q.1) (s.charge p 2 1)
            let s := s.setBulk b { x with
              todo := x.todo.filter (· ≠ j), got := x.got + n, seen := if x.imp then put x.seen j data else x.seen
              wrote := if x.imp then x.wrote ++ ds else x.wrote, asked := none }
            match x.chunk with
            | some (cs, p0, bar) =>
              let ph := (p0 + j * 128 / cs) % 2 ^ 32
              (s.noteCredit (bulkAgent b) bar ph).offerCredit { obj := bar, phase := ph, nbytes := n }
            | none => s

/-- A plain copy has nothing to check; an import's data agree with the digest of the record verified, or every byte written becomes
zero (R412). -/
def State.importEnd (s : State) (b : Nat) (x : Bulk) : State × Bool :=
  if ¬ x.imp ∨ x.ended.isSome then (s, x.ended.map (·.1) == some 2)
  else
    if some (Config.shake256 (x.seen.flatMap Prod.snd)) = x.ddig then (s, false)
    else (x.wrote.foldl (fun s q => s.engWrite 2 (bulkAgent b) x.gang q.1 (List.replicate q.2 0)) s, true)

/-- The completion record (R271). -/
def bulkRecord (x : Bulk) (refused : Bool) : List Byte :=
  let (st, code, va) := if refused then (2, 0, 0) else x.ended.getD (0, 0, 0)
  toBytes 4 st ++ toBytes 4 code ++ toBytes 8 (if refused then 0 else x.got) ++ toBytes 4 x.tag.toNat ++ toBytes 4 0 ++ toBytes 8 va

/-- BULK_COPY_COMPLETE: the engine claims a slot, writes the record and the count falls. A ring that cannot be written
leaves no record, and a kind 3 or kind 2 record tells the host, for whose room the copy waits. Log entry 45, DEDUCED. -/
def execBulkCopyComplete (b : Nat) (s : State) : Outcome State Fault Refusal :=
  match find s.bulks b with
  | none => .next s
  | some x =>
    if ¬ x.todo.isEmpty ∨ x.fault.isSome ∨ (s.ctx x.ctx).state ≠ .resident ∨ s.bulkParked x.part b then .next s
    else
      let p := x.part
      let die := x.die
      let gone (s : State) : State :=
        { (s.mapGang x.gang fun g => { g with counts := g.counts.bump 3 (· - 1) }) with bulks := del s.bulks b }
      let noRing (s : State) (r : Xl) : Outcome State Fault Refusal :=
        let s := (s.importEnd b x).1
        let s := match r with
          | .deny 2 _ _ => s.postEngineDeny p x.ctx { bulk := some b } r
          | _ => (s.postEngineMiss p x.ctx x.ring 1 false { bulk := some b }).1
        .next (if s.bulkParked p b then s.setBulk b { x with noRec := true } else gone s)
      if x.noRec then .next (gone s)
      else match s.engXl die x.ctx x.ring 64 true with
      | .miss m => .next (s.bulkXl b 0 x.ring (.miss m))
      | .deny n pg pv => noRing s (.deny n pg pv)
      | .ok h _ =>
        if isHost h ∧ ¬ (s.part p).linked then .next s
        else
          let ls := s.num (h + 4) 4
          let i := s.num h 4
          let slot := x.ring + 0x40 + 32 * (i % 2 ^ ls)
          if ls < 1 ∨ ls > 16 then noRing s (.miss false)
          else match s.engXl die x.ctx slot 32 true with
            | .miss m => .next (s.bulkXl b 0 slot (.miss m))
            | .deny n pg pv => noRing s (.deny n pg pv)
            | .ok r _ =>
              if isHost r ∧ ¬ (s.part p).linked then .next s
              else
              let s := [(h, 8), (r, 32)].foldl (fun s q => s.meter p (corePort (s.bulkCore x)) q.2 q.1) s
              let (s, refused) := s.importEnd b x
              let s := (s.noteVeils (fun v => v.agent == bulkAgent b) fun v => { v with records := [r] }).shown h 4
              let s := (s.setNum h 4 ((i + 1) % 2 ^ 32)).shown r 32
              .next (gone (s.storeAll r (bulkRecord x refused)))

end Sys2Proof.Machine
end

