-- ==== Sys2Proof/Machine/Matrix.lean ====
section
/-! DEFINITION. The matrix family (chapter 09): reservations, the array queue and its commands, bands, drains, parking and
consort reduction; and the events that carry the accepted commands out. -/

namespace Sys2Proof.Machine

open Host (Outcome)

/-! ### The array queue (R183) -/

/-- The entries that a command takes: a pass one for each of its requests. -/
def ArrayCmd.entries : ArrayCmd → Nat
  | .pass _ _ rs => rs.length
  | _ => 1

/-- The entries of a core's array queue in use. -/
def Core.arrayUsed (c : Core) : Nat := c.array.foldl (fun n q => n + q.cmd.entries) 0

/-- The queue of a gang's core takes `n` more commands, and the partition has array balance (R183; 16 R365). -/
def State.arrayFits (s : State) (gk n : Nat) : Bool :=
  decide ((s.core (s.gang gk).core).arrayUsed + n ≤ 16) && s.mayStart (s.partOf (s.gang gk)) 3

/-- The queue of the issuing gang's core takes `n` more commands. -/
def State.arrayRoom (s : State) (e : Issue) (n : Nat) : Bool := s.arrayFits e.gk n

def State.setBands (s : State) (core : Nat) (bs : List Band) : State :=
  let c := s.core core
  s.setCore core { c with bands := bs }

def State.onBand (s : State) (core b : Nat) (f : Band → Band) : State :=
  let c := s.core core
  s.setCore core { c with bands := modAt f b c.bands }

def Core.band (c : Core) (b : Nat) : Band := c.bands[b]?.getD {}
def Core.plane (c : Core) (p : Nat) : Plane := c.planes[p]?.getD {}

/-- The data effect of MZERO on a band (R195). -/
def Band.zeroed (b : Band) : Band := { b with acc := [], faulted := false, dirty := true }

/-- Executes the MZERO and MSWAP commands at the head of the queue, which take effect once those before them are done. -/
def runZeros : (fuel : Nat) → Core → Core
  | 0, c => c
  | f + 1, c =>
    match c.array with
    | q :: rest =>
      match q.cmd with
      | .mzero bs => runZeros f { c with array := rest, bands := bs.foldl (fun l b => modAt Band.zeroed b l) c.bands }
      | .mswap _ => runZeros f { c with array := rest, active := 1 - c.active }
      | _ => c
    | [] => c

/-- Charges array cycles of a command to its group's partition (16 R365; R201). -/
def State.chargeArray (s : State) (grp n : Nat) : State := s.charge (s.group grp).part 3 n

/-- No pass of a core reads anew once a further command is accepted or carried out there. -/
def State.coreReadsOver (s : State) (core : Nat) : State := { s with rereads := s.rereads.filter fun r => r.core != core }

/-- Accepts commands of the issuing gang. -/
def State.accept (s : State) (e : Issue) (cmds : List ArrayCmd) : State :=
  let c := s.core e.g.core
  let qs : List QCmd := cmds.map fun x => { gang := e.gk, group := e.g.group, addr := w64 (pcAddr e.pc), at_ := s.clock, cmd := x }
  (s.coreReadsOver e.g.core).setCore e.g.core (runZeros 16 { c with array := c.array ++ qs })

/-- A band's dirty flag once a command has been carried out (R196). -/
def ArrayCmd.dirties (b : Nat) (dirty : Bool) : ArrayCmd → Bool
  | .pass _ _ rs => dirty || rs.any fun r => r.band == b
  | .drain r => dirty || (r.band == b && bit r.ctl 6)
  | .mzero bs => dirty || bs.contains b
  | .unpark _ bs _ => dirty && !bs.any fun x => x.1 == b
  | _ => dirty

/-- Band `b` as the accepted commands will leave its dirty flag (R207). -/
def Core.bandAhead (c : Core) (b : Nat) : Band :=
  let x := c.bands[b]?.getD {}
  { x with dirty := c.array.foldl (fun d q => q.cmd.dirties b d) x.dirty }

/-- The byte of a band in the state word of a gang (R205). -/
def Band.byte (b : Band) (gk : Nat) : Nat :=
  if b.owner = some gk then
    1 + b.kind * 2 + b2n b.dirty * 8 + (b.bind.getD 0) * 16 + b2n b.bind.isSome * 64 + b2n b.faulted * 128
  else 0

/-- The state word of a gang. -/
def Core.bandWord (c : Core) (gk : Nat) : Nat := (List.range 4).foldl (fun w b => w + (c.bandAhead b).byte gk * 2 ^ (8 * b)) 0

/-- The band state word of a gang, as at the acceptance of its latest command (R207). -/
def State.noteWord (s : State) (e : Issue) : State :=
  let c := s.core e.g.core
  s.setCore e.g.core { c with words := put c.words e.gk (c.bandWord e.gk) }

/-- The head command has been executed: it leaves. Log entry 75, DEDUCED. -/
def State.popArray (s : State) (core : Nat) : State :=
  let c := s.core core
  (s.coreReadsOver core).setCore core (runZeros 16 { c with array := c.array.drop 1 })

/-- A fault found while a command runs is posted to its gang (R192): 7 a reserved code, 0 poison, with the record of
poison consumed. -/
def State.arrayFault (s : State) (q : QCmd) (poison : Bool) (pa : Nat) : State :=
  if poison then (s.logAnywhere 3 q.gang pa 0).post q.gang { code := cPoison, aux := w64 (pcAddr q.addr) }
  else s.post q.gang { code := cFormat, aux := w64 (pcAddr q.addr + 7 * 2 ^ 56) }

/-- The quarters of the cohort with an active lane, and a quarter's lowest active lane (R182). -/
def Issue.quarters (e : Issue) : List Nat := those 4 fun q => decide (e.act &&& quarterMask q ≠ 0)
def Issue.qlow (e : Issue) (q : Nat) (a : BitVec 6) : Nat := (e.g.readV (lowest (e.act &&& quarterMask q)) a.toNat).toNat

/-- The record that a command names, or the reason that refuses it (R189). -/
def State.record (s : State) (e : Issue) (a : BitVec 6) : Option OdRec := find (s.group e.g.group).od a.toNat

/-! ### Reservations (R188 to R190) -/

/-- A record's fields from its two pairs, or none where one is outside its values (R188). -/
def obRecord (g f : Nat) : Option OdRec :=
  let kext := bits g 40 16
  let pitch := bits g 24 16
  let len := if bits g 12 12 = 0 then 4096 else bits g 12 12
  let base := bits g 0 12
  let fmt := bits f 0 5
  let m := bits f 8 4
  let lcode := bits f 6 2
  let scaled := bit f 12
  if bits g 56 8 = 0 ∧ 32 ≤ kext ∧ kext ≤ 65504 ∧ kext % 32 = 0 ∧ 1 ≤ pitch ∧ base * 64 + len * 64 ≤ 262144
    ∧ bits f 50 14 = 0 ∧ bits f 15 17 = 0 ∧ (mgroup fmt).isSome
    ∧ (scaled = false ∨ (12 ≤ fmt ∧ fmt ≤ 14))
    ∧ (if fmt = 15 then 2 ≤ m ∧ m ≤ 8 ∧ lcode ≠ 3 else m = 0 ∧ lcode = 0) then
    some { base := base, len := len, pitch := pitch, kext := kext, fmt := fmt, layout := b2n (bit f 5), lcode := lcode, m := m
           scaled := scaled, zres := bit f 13, skip := bit f 14, soff := bits f 32 18 }
  else none

def State.setRecord (s : State) (grp n : Nat) (o : Option OdRec) : State :=
  let g := s.group grp
  s.setGroup grp { g with od := match o with
    | some o => put g.od n o
    | none => del g.od n }

def execObres (d a b : BitVec 6) : State → Outcome State Fault Refusal :=
  issue (.obres d a b) fun e s =>
    if e.act = 0 then s.advance e.gk e.ss
    else
      let l := lowest e.act
      match obRecord (e.g.readPair l a.toNat).toNat (e.g.readPair l b.toNat).toNat with
      | none => s.opFormat e 2
      | some o => (s.setRecord e.g.group d.toNat (some o)).advance e.gk e.ss

def execObrel (a : BitVec 6) : State → Outcome State Fault Refusal :=
  issue (.obrel a) fun e s =>
    (if e.act = 0 then s else s.setRecord e.g.group a.toNat none).advance e.gk e.ss

def State.obld (s : State) (i : Nat) : Obld := get {} s.oblds i

/-- OBLD: every page of the source is translated at issue (R190). -/
def execObld (d a : BitVec 6) (i : BitVec 12) : State → Outcome State Fault Refusal :=
  issue (.obld d a i) fun e s =>
    if e.act = 0 then s.advance e.gk e.ss
    else match s.record e d with
      | none => s.opFormat e 1
      | some o =>
        let n := if i.toNat = 0 then o.len else i.toNat
        let va := (e.g.readPair (lowest e.act) a.toNat).toNat
        if n > o.len then s.opFormat e 6
        else if va % 64 ≠ 0 then s.precise e (alignFlt va)
        else
          let ps := (segments va (64 * n)).mapM fun (p : Nat × Nat) =>
            match s.xlate e.g.core (s.ctxOf e.g) p.1 p.2 false with
            | .ok pa _ => Except.ok (pa, p.2)
            | r => Except.error ((xlFlt p.1 0 r).getD {})
          match ps with
          | .error f => s.precise e f
          | .ok ps =>
            let x : Obld := { gang := e.gk, core := e.g.core, base := o.base * 64, src := ps }
            (({ s with oblds := put s.oblds (fresh s.oblds) x }).count e.gk 3 (· + 1)).advance e.gk e.ss

/-- OBLD_COPY: the copy lands; poisoned source words are written poisoned (16 R365 for the balance that it waits for). -/
def execObldCopy (i : Nat) (s : State) : Outcome State Fault Refusal :=
  match find s.oblds i with
  | none => .next s
  | some x =>
    let host := x.src.any fun p => isHost p.1
    let pn := s.partOf (s.gang x.gang)
    if (host ∧ ¬ (s.part pn).linked) ∨ ¬ s.mayStart pn 4 then .next s
    else match s.asking pn (s.worldOf (s.ctxOf (s.gang x.gang))) 0 64 x.flits (x.src.map Prod.fst) with
    | .wait s fs => .next { s with oblds := put s.oblds i { x with flits := fs } }
    | .go =>
      let s := x.src.foldl (fun s p => s.meter pn (corePort x.core) p.2 p.1) s
      let (s, _) := x.src.foldl (fun (r : State × Nat) p =>
        let s := r.1
        let bs := s.pathBytes 3 x.core p.1 p.2
        let to_ := bufBase x.core + x.base + r.2
        let bad := (List.range (p.2 / 8)).filter fun w =>
          s.poisoned (p.1 + 8 * w) 8 || s.unreachable p.1 || (isHost p.1 && s.poisoned p.1 p.2)
        let s := (s.writingBy 3 0 x.gang 1 to_ p.2).storeAll to_ bs
        (bad.foldl (fun s w => s.markPoison (to_ + 8 * w) true) s, r.2 + p.2)) (s, 0)
      .next ({ s with oblds := del s.oblds i }.count x.gang 3 (· - 1))

/-! ### Planes (R193, R194) -/

/-- Offset in the operand buffer of the slab bytes of row or column `t` of a record. -/
def OdRec.rowAt (o : OdRec) (t slab k : Nat) : Nat := o.base * 64 + t * o.pitch + slab * o.slabBytes k

/-- Offset and number of its scale bytes. -/
def OdRec.scaleAt (o : OdRec) (t slab k : Nat) : Nat := o.soff + t * (o.kext / 32) + slab * (k / 32)
def OdRec.scaleCount (o : OdRec) (k : Nat) : Nat := if o.scaled then k / 32 else 0

/-- Rows 0 to `t` of the record hold slab `j` of `k` elements (R193, R197). -/
def OdRec.holds (o : OdRec) (t j k : Nat) : Bool :=
  decide ((j + 1) * k ≤ o.kext) && decide (t * o.pitch + (j + 1) * o.slabBytes k ≤ o.len * 64)
    && (!o.scaled || decide (o.scaleAt t j k + k / 32 ≤ 0x40000))

def execMlds (a b : BitVec 6) : State → Outcome State Fault Refusal :=
  issue (.mlds a b) fun e s =>
    if e.act = 0 then s.advance e.gk e.ss
    else if ¬ s.arrayRoom e 1 then s.stall e.gk e.ss (.array 1)
    else match s.record e a with
      | none => s.opFormat e 1
      | some o =>
        let j := e.low b
        if j ≥ 65536 then s.opFormat e 11
        else if o.layout ≠ 1 then s.opFormat e 3
        else if ¬ o.holds 31 j o.depth then s.opFormat e 6
        else
          let p := 1 - (s.core e.g.core).nextActive
          let s := s.accept e [.mlds o j p]
          let c := s.core e.g.core
          let s := s.setCore e.g.core { c with slabs := modAt (fun _ => some o) p c.slabs }
          ((s.noteWord e).count e.gk 4 (· + 1)).advance e.gk e.ss

/-- A plane loaded by a command (R193). -/
def State.loadPlane (s : State) (core : Nat) (q : QCmd) (o : OdRec) (j p : Nat) : State :=
  let k := o.depth
  let base := bufBase core
  let col (n : Nat) : Nat := base + o.rowAt n j k
  let sc (n : Nat) : Nat := base + o.scaleAt n j k
  let bytes := (List.range 32).map fun n => s.pathBytes 3 core (col n) (o.slabBytes k)
  let scales := (List.range 32).map fun n => s.pathBytes 3 core (sc n) (o.scaleCount k)
  let pois := (List.range 32).find? fun n => s.poisoned (col n) (o.slabBytes k) || s.poisoned (sc n) (o.scaleCount k)
  let bad := pois.isSome || bytes.any o.reserved
  let c := s.core core
  let pl : Plane := { loaded := true, faulted := bad, slab := j, od := o, kslab := k, bytes := bytes, scales := scales }
  let s := s.setCore core { c with planes := modAt (fun _ => pl) p c.planes }
  match pois with
  | some n => s.arrayFault q true (col n)
  | none => if bad then s.arrayFault q false 0 else s

/-- SLAB_LOAD: the MLDS at the head of the queue is carried out. -/
def execSlabLoad (c : Nat) (s : State) : Outcome State Fault Refusal :=
  match (s.core c).array with
  | q :: _ =>
    match q.cmd with
    | .mlds o j p => .next ((((s.loadPlane c q o j p).chargeArray q.group 32).popArray c).count q.gang 4 (· - 1))
    | _ => .next s
  | [] => .next s

/-- An MSWAP stands in the queue. -/
def Core.swapQueued (c : Core) (ticket : Nat) : Bool := c.array.any fun q => q.cmd == .mswap ticket

/-- The MSWAP that the cohort has had accepted at this address. -/
def Issue.swapOf (e : Issue) : Option Nat :=
  (e.g.swaps.find? fun x => x.1 == e.ss.headD 0 && x.2.1 == e.pc).map fun x => x.2.2

/-- The gang waits for its accepted MSWAP, and goes on once it has taken effect. -/
def State.awaitSwap (s : State) (e : Issue) (ticket : Nat) : State :=
  if (s.core e.g.core).swapQueued ticket then s.stall e.gk e.ss (.swap ticket)
  else
    let g := s.gang e.gk
    (s.setGang e.gk { g with swaps := g.swaps.filter fun x => x.2.2 != ticket }).advance e.gk e.ss

/-- MSWAP takes its place in the queue, from which on commands name the new roles, and stalls until it has taken effect (R183,
R194). -/
def execMswap : State → Outcome State Fault Refusal :=
  issue .mswap fun e s =>
    if e.act = 0 then s.advance e.gk e.ss
    else match e.swapOf with
      | some t => s.awaitSwap e t
      | none =>
        if ¬ s.arrayRoom e 1 then s.stall e.gk e.ss (.array 1)
        else
          let t := s.free
          let s := s.tick1.accept e [.mswap t]
          let c := s.core e.g.core
          let s := (s.setCore e.g.core { c with nextActive := 1 - c.nextActive }).noteWord e
          let s := s.mapGang e.gk fun g => { g with swaps := g.swaps ++ [(e.ss.headD 0, e.pc, t)] }
          s.awaitSwap e t

/-! ### Bands (R195, R196) -/

/-- The bands are free for a gang. -/
def Core.bandsFree (c : Core) (gk : Nat) (bs : List Nat) : Bool :=
  bs.all fun b => (c.band b).owner == none || (c.band b).owner == some gk

/-- How long the slice has waited for bands. -/
def Slice.bandWait (x : Slice) : Option (List Nat × Nat) :=
  match x.stall with
  | some (.matrix bs t) => some (bs, t)
  | _ => none

/-- A cohort of the core that has waited longer could take its bands now: it comes first (R195). -/
def State.olderClaim (s : State) (core since : Nat) : Bool :=
  let c := s.core core
  s.gangs.any fun (k, g) => g.live && g.core == core && !g.stopped && g.slices.any fun x =>
    match x.bandWait with
    | some (ws, t) => x.held == 0 && decide (t < since) && c.bandsFree k ws
    | none => false

/-- A MZERO or MUNPARK claims its bands once they are free, no older claim comes first, and the queue takes it; otherwise the
instruction waits at issue, from when it first did. -/
def State.claimBands (s : State) (e : Issue) (bs : List Nat) (f : State → State) : State :=
  let since := ((e.g.slice (e.ss.headD 0)).bandWait.map (·.2)).getD s.clock
  if (s.core e.g.core).bandsFree e.gk bs ∧ ¬ s.olderClaim e.g.core since ∧ s.arrayRoom e 1 then f s
  else s.stall e.gk e.ss (.matrix bs since)

/-- A gang's quarter loses its binding. -/
def unbind (gk q : Nat) (b : Band) : Band := if b.owner = some gk ∧ b.bind = some q then { b with bind := none } else b

/-- The band is claimed for a quarter. -/
def claim (gk q kind : Nat) (b : Band) : Band :=
  { b with owner := some gk, bind := some q, kind := kind, inUse := true, dirty := true, faulted := false }

/-- The band is released (R196). -/
def Band.release (b : Band) : Band := { b with owner := none, bind := none, inUse := false }

def execMzero (a : BitVec 6) : State → Outcome State Fault Refusal :=
  issue (.mzero a) fun e s =>
    let qs := e.quarters.map fun q => (q, e.qlow q a)
    let bs := qs.map fun p => p.2 % 4
    if e.act = 0 then s.advance e.gk e.ss
    else if (qs.any fun p => decide (p.2 ≥ 64) || bits p.2 2 2 != 0 || bits p.2 4 2 == 3) || bs.eraseDups.length != bs.length then
      s.opFormat e 11
    else s.claimBands e bs fun s =>
      let bands := qs.foldl (fun l p => modAt (claim e.gk p.1 (bits p.2 4 2)) (p.2 % 4) (l.map (unbind e.gk p.1))) (s.core e.g.core).bands
      ((((s.setBands e.g.core bands).accept e [.mzero bs]).noteWord e).chargeArray e.g.group 1).advance e.gk e.ss

/-- The band that a quarter of the gang is bound to. -/
def Core.bound (c : Core) (gk q : Nat) : Option Nat :=
  firstOf 4 fun b => (c.band b).owner == some gk && (c.band b).bind == some q

/-! ### Passes (R197 to R200) -/

/-- The A rows of a record meet a plane: one group, and one block length (R186). -/
def sameGroup (a b : OdRec) : Bool := mgroup a.fmt == mgroup b.fmt && (a.fmt != 15 || a.lcode == b.lcode)

/-- The reason that refuses a quarter's request, if any, the first of R197's table; a port request is not checked for row, slab and
length. Log entry 98, DEDUCED. -/
def State.passReason (s : State) (e : Issue) (o : OdRec) (port : Bool) (q row slab : Nat) : Option Nat :=
  let c := s.core e.g.core
  match c.bound e.gk q with
  | none => some 9
  | some b =>
    let top := ((lanesOf (e.act &&& quarterMask q)).getLast?.getD 0) % 8
    match c.slabs[c.nextActive]?.getD none with
    | none => some 10
    | some p =>
      if o.layout ≠ 0 then some 3
      else if ¬ sameGroup o p then some 4
      else if some (c.band b).kind ≠ (mgroup o.fmt).map MGroup.kind then some 5
      else if ¬ port ∧ ¬ o.holds (row + top) slab p.depth then some 6
      else none

/-- The instruction's requests join the pass at the tail of the queue where R199 lets them, or form a new one. -/
def State.requestPass (s : State) (e : Issue) (odn : Nat) (rs : List QReq) : State :=
  let c := s.core e.g.core
  let merged : Option (List QCmd) := match c.array.getLast? with
    | some q => match q.cmd with
      | .pass odn' plane old =>
        if q.gang = e.gk ∧ odn' = odn ∧ plane = c.nextActive ∧ s.clock ≤ q.at_ + 4 then
          some (c.array.dropLast ++ [{ q with cmd := .pass odn plane (old ++ rs) }])
        else none
      | _ => none
    | none => none
  match merged with
  | some qs => s.setCore e.g.core { c with array := qs }
  | none => s.accept e [.pass odn c.nextActive rs]

/-- A pass instruction at issue: of several conditions that fail, the lowest quarter's first in the order of R197's table is reported.
Log entry 98, DEDUCED. -/
def State.passIssue (s : State) (e : Issue) (port : Bool) (a : BitVec 6) (word : Nat → Nat) : State :=
  if e.act = 0 then s.advance e.gk e.ss
  else if ¬ s.arrayRoom e e.quarters.length then s.stall e.gk e.ss (.array e.quarters.length)
  else match s.record e a with
    | none => s.opFormat e 1
    | some o =>
      if port ∧ (o.fmt = 15 ∨ o.scaled) then s.opFormat e 8
      else match e.quarters.findSome? fun q => s.passReason e o port q (word q % 65536) (word q / 65536) with
        | some r => s.opFormat e r
        | none =>
          let c := s.core e.g.core
          let t := s.free
          let rs : List QReq := e.quarters.map fun q =>
            let b := (c.bound e.gk q).getD 0
            { port := port, q := q, band := b, kind := (c.band b).kind, lanes := e.act &&& quarterMask q, od := o
              row := word q % 65536, slab := word q / 65536, ticket := t }
          let s := s.tick1.requestPass e a.toNat rs
          ((s.noteWord e).count e.gk 4 (· + 1)).advance e.gk e.ss

def execMstr (a b : BitVec 6) : State → Outcome State Fault Refusal :=
  issue (.mstr a b) fun e s => s.passIssue e false a fun q => e.qlow q b

def execMstrP (a : BitVec 6) : State → Outcome State Fault Refusal :=
  issue (.mstrP a) fun e s => s.passIssue e true a fun _ => 0

/-- The present lanes of the quarters that a pass serves from their ports. -/
def portLanes (g : Gang) (rs : List QReq) : List Nat :=
  lanesOf (g.present &&& maskOf fun l => rs.any fun r => r.port && r.q == l / 8)

/-- The first 512 bytes of the port row of a lane. -/
def Gang.portRow (g : Gang) (l : Nat) : List W32 := get [] g.rows (8 * (l / 8) + l % 8)

/-- The pass at the head waits for no further request (R199) and, at ports, for no word (R200). -/
def State.passReady (s : State) (core : Nat) (q : QCmd) (rs : List QReq) : Bool :=
  let g := s.gang q.gang
  let closed := decide (s.clock > q.at_ + 4) || decide ((s.core core).array.length > 1)
    || (List.range 4).all fun k => g.present &&& quarterMask k == 0 || rs.any fun r => r.q == k
  closed && (portLanes g rs).all fun l => decide ((g.portRow l).length ≥ 128)

/-- What a request's row of a lane gives: its bytes, its scales and the place of poison, if any. -/
def State.passRow (s : State) (core : Nat) (g : Gang) (p : Plane) (r : QReq) (l : Nat) :
    List Byte × List Byte × Option Nat :=
  if r.port then (((g.portRow l).take 128).flatMap fun w => toBytes 4 w.toNat, [], none)
  else
    let t := r.row + l % 8
    let a := bufBase core + r.od.rowAt t r.slab p.kslab
    let sa := bufBase core + r.od.scaleAt t r.slab p.kslab
    let n := r.od.slabBytes p.kslab
    let m := r.od.scaleCount p.kslab
    (s.pathBytes 3 core a n, s.pathBytes 3 core sa m, if s.poisoned a n || s.poisoned sa m then some a else none)

/-- A row of a pass: the request, the row of its band, the bytes and scales that meet the plane there, and the place of poison
among them. -/
structure PassRow where
  req : QReq
  i : Nat
  bytes : List Byte
  scales : List Byte
  poison : Option Nat

/-- Every row of a pass (R198). -/
def State.passRows (s : State) (core : Nat) (g : Gang) (p : Plane) (r : QReq) : List PassRow :=
  (List.range 8).filterMap fun i =>
    let l := 8 * r.q + i
    if has r.lanes l then
      let (bs, sc, po) := s.passRow core g p r l
      some ⟨r, i, bs, sc, po⟩
    else if has g.present l then none
    else
      let z : Byte := if r.od.fmt = 16 then 121 else 0
      some ⟨r, i, List.replicate (r.od.slabBytes p.kslab) z, List.replicate (r.od.scaleCount p.kslab) 127, none⟩

/-- A row of accumulators after its strip met the plane. -/
def passCells (kind : Nat) (a : Strip) (cols : List Strip) (row : Nat) (acc : Store Nat) : Store Nat × Flags × Bool :=
  (cols.zipIdx).foldl (fun r (b, n) =>
    let (x, f, s) := cell kind a b (get 0 r.1 (32 * row + n))
    (set 0 r.1 (32 * row + n) x, orF r.2.1 f, r.2.2 || s)) (acc, 0, false)

/-- The cycles T of a pass (R186). -/
def passCycles (b : OdRec) (rs : List QReq) : Nat :=
  match mgroup b.fmt with
  | some .f64 | some .f32 => 64
  | some .tern => 40
  | some .bfp => ceilDiv (b.depth * rs.foldl (fun m r => max m r.od.m) b.m) 128
  | _ => 32

/-- The pass marks its bands faulted and writes no accumulator (R192). -/
def State.faultBands (s : State) (core : Nat) (rs : List QReq) : State :=
  rs.foldl (fun s r => s.onBand core r.band fun b => { b with faulted := true }) s

/-- The accumulators of a pass, each computed with the kind that its band had at acceptance; the rows that it writes make their
bands dirty (R196). -/
def State.passRun (s : State) (core : Nat) (q : QCmd) (plane : Nat) (rs : List QReq) : State :=
  let g := s.gang q.gang
  let p := (s.core core).plane plane
  let rows := rs.flatMap fun r => s.passRows core g p r
  let pois := rows.findSome? (·.poison)
  if p.faulted then s.faultBands core rs
  else if pois.isSome then (s.faultBands core rs).arrayFault q true (pois.getD 0)
  else if rows.any fun x => x.req.od.reserved x.bytes then (s.faultBands core rs).arrayFault q false 0
  else
    let cols := (p.bytes.zip p.scales).map fun c => p.od.strip p.kslab c.1 c.2
    rows.foldl (fun s x =>
      let b := x.req.band
      let (acc, f, sat) := passCells x.req.kind (x.req.od.strip p.kslab x.bytes x.scales) cols x.i ((s.core core).band b).acc
      (s.onBand core b fun y => { y with acc := acc, dirty := true }).raise q.gang f sat) s

/-- The rows that a pass takes from the ports. -/
def Gang.takeRows (g : Gang) (rs : List QReq) : Gang :=
  (portLanes g rs).foldl (fun g l => { g with rows := put g.rows (8 * (l / 8) + l % 8) ((g.portRow l).drop 128) }) g

/-- The tile operations of a pass have ended. -/
def State.passCounted (s : State) (gk : Nat) (rs : List QReq) : State :=
  ((rs.map (·.ticket)).eraseDups).foldl (fun s t => s.tileDone gk t) s

/-- The accumulators of the bands that requests name. -/
def State.accsOf (s : State) (core : Nat) (rs : List QReq) : List (Nat × Store Nat) :=
  ((rs.map (·.band)).eraseDups).map fun b => (b, ((s.core core).band b).acc)

/-- A pass that was carried out faultlessly as `t`, set aside, and raised no flag that its gang did not have, may read anew until its
reads are over. Log entry 76, DESIGN CHOICE. -/
def State.noteReread (s t : State) (core : Nat) (q : QCmd) (plane : Nat) (rs : List QReq) : State :=
  if s.aside ∧ (t.gang q.gang).sys = (s.gang q.gang).sys ∧ (t.gang q.gang).work.posted = (s.gang q.gang).work.posted
      ∧ ¬ ((s.core core).plane plane).faulted ∧ portLanes (s.gang q.gang) rs = [] then
    { t with rereads := t.rereads ++ [{ core := core, gang := q.gang, plane := plane, reqs := rs, accs := s.accsOf core rs }] }
  else t

/-- MATRIX_PASS: the pass at the head of the queue is carried out. -/
def execMatrixPass (c : Nat) (s : State) : Outcome State Fault Refusal :=
  match (s.core c).array with
  | q :: _ =>
    match q.cmd with
    | .pass _ plane rs =>
      if ¬ s.passReady c q rs then .next s
      else
        let t := (s.passRun c q plane rs).mapGang q.gang fun g => g.takeRows rs
        let t := (t.chargeArray q.group (passCycles ((t.core c).plane plane).od rs)).popArray c
        .next ((s.noteReread t c q plane rs).passCounted q.gang rs)
    | _ => .next s
  | [] => .next s

/-- The latest pass of a core reads once more and leaves what it computes now: its end orders its accumulators and not its reads,
which XFENCE orders (07 R176; 14 R315). It does so only where that raises no further flag and no fault, so that nothing that has
been observed changes. Log entry 76, DESIGN CHOICE. -/
def State.passReread (s : State) (c : Nat) : State :=
  match s.rereads.find? fun r => r.core == c with
  | none => s
  | some r =>
    let s0 := r.accs.foldl (fun s p => s.onBand c p.1 fun b => { b with acc := p.2 }) s
    let t := s0.passRun c { gang := r.gang, cmd := .pass 0 r.plane r.reqs } r.plane r.reqs
    let x := s.gang r.gang
    let y := t.gang r.gang
    if x.live ∧ ¬ s.still r.gang ∧ y.sys = x.sys ∧ y.work.posted = x.work.posted then t else s

/-! ### Drains (R202 to R204) -/

/-- The output types of R202. -/
def drainTypes : List Nat := [9, 8, 0, 10, 11, 12, 13, 6, 14, 15, 18]

/-- The control word, and with it the word in c, are legal for a band of a kind; `cfield` is the number in the c field,
`fan` the set that the word names. Log entry 50, DEDUCED. -/
def drainLegal (ctl cw cfield kind : Nat) (fan : Nat → Nat) : Bool :=
  let ot := bits ctl 0 5
  let m := bits ctl 10 4
  let scl := bit ctl 5
  let dest := bit ctl 8
  let bar := bit ctl 9
  let pitch := bits ctl 16 16
  bits ctl 14 2 == 0 && drainTypes.contains ot && !(bar && dest) && !(ot == 18 && scl)
    && (if ot = 15 then !dest && decide (2 ≤ m) && decide (m ≤ 8) else m == 0)
    && pitch % 16 == 0 && decide (pitch ≥ rowBytes ot m kind)
    && (bar || dest || cfield == 0)
    && (!bar || cw / 2 ^ 26 == 0)
    && (!dest || (cw / 8 == 0 && !bit (fan (cw % 8)) 0))

/-- What MDRN reads for a quarter: control word, the word in c, the address. -/
structure DWord where
  q : Nat
  ctl : Nat
  cw : Nat
  sa : Nat
  band : Nat
  kind : Nat
  deriving DecidableEq, Repr

/-- The first row of a quarter whose bytes cannot be written, or a bad barrier address (R204): rows before the barrier, a row's
alignment before its place, a barrier's place before its alignment, and bits [22:21] as R151 has them. Log entry 98, DEDUCED. -/
def State.drainFault (s : State) (e : Issue) (w : DWord) : Option Flt :=
  let rb := rowBytes (bits w.ctl 0 5) (bits w.ctl 10 4) w.kind
  let rows := (lanesOf (e.act &&& quarterMask w.q)).map (· % 8)
  let data : Option Flt :=
    if bit w.ctl 8 then none
    else if w.sa % 16 ≠ 0 then some (alignFlt w.sa)
    else rows.findSome? fun i =>
      match s.localRange e.g.group (w.sa + i * bits w.ctl 16 16) rb with
      | .at_ _ _ _ => none
      | .bad r => some (scratchFlt w.sa r)
  match data with
  | some f => some f
  | none =>
    if ¬ bit w.ctl 9 then none
    else
      let ba := w.cw % 2 ^ 24
      if bit ba 23 then some (scratchFlt ba 5)
      else match s.barAt e.g.group ba with
        | .ok _ => none
        | .error f => some f

/-- The 32 draws of each drained row's lane (R203). -/
def drainDraws (g : Gang) (m : Mask) : Store Nat :=
  (lanesOf m).flatMap fun l => (List.range 32).map fun n =>
    (32 * l + n, (((g.xsOf l).steps n).step.2.toNat) % 2 ^ 32)

/-- The command of a quarter, as MDRN is accepted. -/
def State.drainReq (s : State) (e : Issue) (b : BitVec 6) (t : Nat) (w : DWord) : DReq :=
  let m := e.act &&& quarterMask w.q
  let obj := spadBase e.g.group + w.cw % 2 ^ 24
  { q := w.q, band := w.band, kind := w.kind, lanes := m, addr := w.sa, ctl := w.ctl
    scale := (lanesOf m).map fun l => (l, (e.g.readV l b.toNat).toNat)
    draws := if mRnd e.mode = 5 then drainDraws e.g m else []
    phase := if bit w.ctl 9 then some (obj, ((s.bar obj).gen + bits w.cw 24 2) % 2 ^ 32) else none
    fan := if bit w.ctl 8 then e.g.fanSet (w.cw % 8) else 0, mode := e.mode, ticket := t }

/-- MDRN: its quarters drain in ascending band order (R201). It waits for room in the array first; the owners of its own fan-out set are
checked after every reason of the operand format and before the addresses (03 R75; log entry 50, DEDUCED). -/
def execMdrn (d a b c : BitVec 6) : State → Outcome State Fault Refusal :=
  issue (.mdrn d a b c) fun e s =>
    let core := s.core e.g.core
    let ws : List DWord := e.quarters.map fun q =>
      let k := core.bound e.gk q
      { q := q, ctl := e.qlow q a, cw := e.qlow q c, sa := e.qlow q d, band := k.getD 4, kind := (core.band (k.getD 4)).kind }
    let reason : Option Nat := ws.findSome? fun w =>
      if w.band = 4 then some 9
      else if ¬ drainLegal w.ctl w.cw c.toNat w.kind e.g.fanSet then some 11
      else none
    let link : Option Nat := ws.findSome? fun w =>
      if bit w.ctl 8 then (those 4 fun q => bit (e.g.fanSet (w.cw % 8)) (q + 1)).find? fun q => !s.ownsEnd e.gk q else none
    if e.act = 0 then s.advance e.gk e.ss
    else if ¬ s.arrayRoom e ws.length then s.stall e.gk e.ss (.array ws.length)
    else match reason with
      | some r => s.opFormat e r
      | none =>
        match link with
        | some q => s.trap e.gk e.ss { code := cQueue, aux := w64 q, tmask := e.act, tpc := e.pc }
        | none =>
          match ws.findSome? fun w => s.drainFault e w with
            | some f => s.precise e f
            | none =>
              let t := s.free
              let rs := (List.range 4).filterMap fun k => (ws.find? fun w => w.band == k).map fun w => s.drainReq e b t w
              let g := if mRnd e.mode = 5 then (lanesOf e.act).foldl (fun g l => g.setXs l ((g.xsOf l).steps 32)) (s.gang e.gk)
                else s.gang e.gk
              let s := s.tick1.setGang e.gk g
              let s := s.accept e (rs.map ArrayCmd.drain)
              let s := ws.foldl (fun s w =>
                if bit w.ctl 7 then s.onBand e.g.core w.band Band.release else s) s
              ((s.noteWord e).count e.gk 4 (· + 1)).advance e.gk e.ss

/-- The words of a row as fan-out entries: 32 words an entry, word `n` in lane `n`. Log entry 52, DEDUCED. -/
def rowEntries (bs : List Byte) : List (List W32 × Mask) :=
  (chop 128 bs.length bs).map fun p =>
    let ws := (chop 4 128 p).map fun w => w32 (fromBytes w)
    (ws, maskOf fun l => decide (l < ws.length))

/-- Every queue that a drain to a fan-out set enters has room for its rows (R78). -/
def State.drainRoom (s : State) (q : QCmd) (r : DReq) : Bool :=
  let g := s.gang q.gang
  let rows := (lanesOf r.lanes).length
  let n := rows * ceilDiv (rowBytes (bits r.ctl 0 5) (bits r.ctl 10 4) r.kind) 128
  ((List.range 4).all fun k => !bit r.fan (k + 1) || s.windowRoom (linkKey (g.core / 4) k) n)
    && (!bit r.fan 5 || s.windowRoom (portKey q.gang r.q) rows)
    && (!bit r.fan 6 || s.windowRoom (cruKey q.group) n)

/-- One row to the consumers of the set (R204). -/
def State.drainSend (s : State) (q : QCmd) (r : DReq) (i : Nat) (bs : List Byte) : State :=
  let g := s.gang q.gang
  let es := rowEntries bs
  let s := (List.range 4).foldl (fun s k =>
    if bit r.fan (k + 1) then es.foldl (fun s e => s.sendEntry (linkKey (g.core / 4) k) e.1 e.2) s else s) s
  let s := if bit r.fan 5 then
      s.sendEntry (portKey q.gang r.q) (es.flatMap (·.1)) (maskOf fun l => l == 8 * r.q + i)
    else s
  if bit r.fan 6 then es.foldl (fun s e => s.sendEntry (cruKey q.group) e.1 e.2) s else s

/-- A quarter's rows, in ascending order. -/
def State.drainRun (s : State) (core : Nat) (q : QCmd) (r : DReq) : State :=
  let bd := (s.core core).band r.band
  let ot := bits r.ctl 0 5
  let (s, n) := (lanesOf r.lanes).foldl (fun (x : State × Nat) l =>
    let i := l % 8
    let scale := if bit r.ctl 5 then some (get 0 r.scale l) else none
    let (bs, f, sat) := drainRow ot (bits r.ctl 10 4) r.kind r.mode scale (fun n => get 0 r.draws (32 * l + n))
      (fun n => get 0 bd.acc (32 * i + n))
    let s := x.1.raise q.gang f sat
    let s := if bit r.ctl 8 then s.drainSend q r i bs
      else s.engWrite 3 (drainAgent r.ticket) q.gang (s.localFlat q.group (r.addr + i * bits r.ctl 16 16)) bs
    let s := if bit r.ctl 6 then s.onBand core r.band fun b =>
        { b with acc := (List.range 32).foldl (fun m n => del m (32 * i + n)) b.acc, dirty := true }
      else s
    (s, x.2 + bs.length)) (s, 0)
  match r.phase with
  | some (obj, ph) => (s.noteCredit (drainAgent r.ticket) obj ph).offerCredit { obj := obj, phase := ph, nbytes := n, tile := some (q.gang, r.ticket) }
  | none => s

/-- The cycles of a quarter's drain (R201). -/
def drainCycles (r : DReq) : Nat :=
  (lanesOf r.lanes).length * (if bits r.ctl 0 5 = 9 ∨ (bits r.ctl 0 5 = 18 ∧ r.kind = 1) then 2 else 1)

/-- BAND_DRAIN: the MDRN at the head of the queue is carried out. -/
def execBandDrain (c : Nat) (s : State) : Outcome State Fault Refusal :=
  match (s.core c).array with
  | q :: _ =>
    match q.cmd with
    | .drain r =>
      if bit r.ctl 8 ∧ ¬ s.drainRoom q r then .next s
      else .next ((((s.drainRun c q r).chargeArray q.group (drainCycles r)).popArray c).tileDone q.gang r.ticket)
    | _ => .next s
  | [] => .next s

/-! ### Parking and status (R205 to R207) -/

/-- The stride of an image of bands of some kinds, and whether it lies in the parking share (R206). -/
def parkStride (kinds : List Nat) : Nat := if kinds.contains 1 then 2048 else 1024
def State.parkLegal (s : State) (grp off stride : Nat) : Bool :=
  off % 1024 == 0 && decide (off + 4 * stride ≤ (s.group grp).parkShare * 65536)

/-- An offset outside the share (R206). -/
def parkFlt (off : Nat) : Flt := { code := cAccess, aux := memAux 4 (off % 2 ^ 32), va := off }

def execMpark (d a : BitVec 6) : State → Outcome State Fault Refusal :=
  issue (.mpark d a) fun e s =>
    let c := s.core e.g.core
    let mine := those 4 fun b => (c.band b).owner == some e.gk
    let stride := parkStride (mine.map fun b => (c.band b).kind)
    let off := e.low a
    if e.act = 0 then s.advance e.gk e.ss
    else if ¬ s.arrayRoom e 1 then s.stall e.gk e.ss (.array 1)
    else if ¬ s.parkLegal e.g.group off stride then s.precise e (parkFlt off)
    else
      let s := s.writeAll e d.toNat (w32 (c.bandWord e.gk))
      let s := s.accept e [.park off (mine.map fun b => (b, (c.band b).kind)) stride]
      let s := mine.foldl (fun s b => s.onBand e.g.core b Band.release) s
      ((s.noteWord e).count e.gk 4 (· + 1)).advance e.gk e.ss

/-- The byte of band `b` in a state word. -/
def stateByte (w b : Nat) : Nat := bits w (8 * b) 8

def execMunpark (a b : BitVec 6) : State → Outcome State Fault Refusal :=
  issue (.munpark a b) fun e s =>
    let w := e.low b
    let off := e.low a
    let want := those 4 fun k => bit (stateByte w k) 0
    let stride := parkStride (want.map fun k => bits (stateByte w k) 1 2)
    let bad := (List.range 4).any fun k =>
      let y := stateByte w k
      if bit y 0 then bits y 1 2 == 3 else y != 0
    if e.act = 0 then s.advance e.gk e.ss
    else if bad then s.opFormat e 11
    else if ¬ s.parkLegal e.g.group off stride then s.precise e (parkFlt off)
    else s.claimBands e want fun s =>
      let take (l : List Band) (k : Nat) : List Band :=
        let y := stateByte w k
        let bind := if bit y 6 then some (bits y 4 2) else none
        let l := match bind with
          | some q => l.map (unbind e.gk q)
          | none => l
        modAt (fun x => { x with owner := some e.gk, bind := bind, kind := bits y 1 2, inUse := true, dirty := false
                                 faulted := bit y 7, home := off + k * stride }) k l
      let s := s.setBands e.g.core (want.foldl take (s.core e.g.core).bands)
      let s := s.accept e [.unpark off (want.map fun k => (k, bits (stateByte w k) 1 2, bit (stateByte w k) 7)) stride]
      ((s.noteWord e).count e.gk 4 (· + 1)).advance e.gk e.ss

/-- The image of a band's accumulators in logical row order, and the accumulators of an image (R206). -/
def bandImage (kind : Nat) (acc : Store Nat) : List Byte :=
  (List.range 256).flatMap fun i => toBytes (if kind = 1 then 8 else 4) (get 0 acc i)
def bandOf (kind : Nat) (bs : List Byte) : Store Nat :=
  let n := if kind = 1 then 8 else 4
  ((chop n 256 bs).zipIdx).foldl (fun m (x, i) => if fromBytes x = 0 then m else m ++ [(i, fromBytes x)]) []

/-- The bytes of a band's image. -/
def imageBytes (kind : Nat) : Nat := if kind = 1 then 2048 else 1024

/-- BAND_PARK: the MPARK or MUNPARK at the head of the queue is carried out. A poisoned slot leaves its band faulted.
Log entry 54, DEDUCED. -/
def execBandPark (c : Nat) (s : State) : Outcome State Fault Refusal :=
  match (s.core c).array with
  | q :: _ =>
    match q.cmd with
    | .park off bs stride =>
      let s := bs.foldl (fun s (b, k) =>
        s.engWrite 3 0 q.gang (parkBase q.group + off + b * stride) (bandImage k ((s.core c).band b).acc)) s
      .next (((s.chargeArray q.group (stride / 32)).popArray c).count q.gang 4 (· - 1))
    | .unpark off bs stride =>
      let s := bs.foldl (fun (s : State) (x : Nat × Nat × Bool) =>
        let a := parkBase q.group + off + x.1 * stride
        let pois := s.poisoned a (imageBytes x.2.1)
        let acc := bandOf x.2.1 (s.bytes a (imageBytes x.2.1))
        let s := s.onBand c x.1 fun y => { y with acc := acc, dirty := false, faulted := x.2.2 || pois }
        if pois then s.arrayFault q true a else s) s
      .next (((s.chargeArray q.group (stride / 32)).popArray c).count q.gang 4 (· - 1))
    | _ => .next s
  | [] => .next s

/-- The word of selector 1 (R207): format and slab index are 0 while the active plane is empty (log entry 86, DESIGN CHOICE). -/
def Core.matrixWord (c : Core) (gk : Nat) : Nat :=
  let act := c.plane c.active
  let sh := c.plane (1 - c.active)
  let others := (those 4 fun b => (c.band b).owner.isSome && (c.band b).owner != some gk).foldl (fun m b => m + 2 ^ b) 0
  let busy := c.array.any fun q => match q.cmd with
    | .mlds _ _ _ => true
    | _ => false
  others + b2n act.loaded * 16 + b2n act.faulted * 32 + b2n sh.loaded * 64 + b2n busy * 128
    + (if act.loaded then act.od.fmt * 256 + act.slab % 65536 * 65536 else 0)

def execMstat (d : BitVec 6) (i : BitVec 12) : State → Outcome State Fault Refusal :=
  issue (.mstat d i) fun e s =>
    let c := s.core e.g.core
    (s.writeAll e d.toNat (w32 (if i.toNat = 0 then get 0 c.words e.gk else c.matrixWord e.gk))).advance e.gk e.ss

/-! ### Consort reduction (R209, R210) -/

/-- The groups that take part in a group's rounds, in ascending index. -/
def State.participants (s : State) (grp : Nat) : List Nat :=
  let g := s.group grp
  if g.peers.isEmpty then [grp] else g.peers

/-- Under what a consort's rounds stand: its group of lowest index. -/
def State.roundHome (s : State) (grp : Nat) : Nat := (s.participants grp).headD grp

/-- Words that a contribution holds. -/
def credWords (op n : Nat) : Nat := if op = 3 then 34 * n else n

/-- A CRED of an operation at issue. -/
def State.cred (s : State) (e : Issue) (op : Nat) (d a : BitVec 6) : State :=
  let grp := e.g.group
  let n := e.low a
  let k := credWords op n
  if e.act = 0 then s.advance e.gk e.ss
  else if n < 1 ∨ n > (if op = 3 then 32 else 1088) then s.opFormat e 6
  else match s.localAt grp 4 (4 * k) (e.low d) with
    | .error f => s.precise e f
    | .ok dst =>
      let g := s.group grp
      let home := s.roundHome grp
      let open_ := get [] s.rounds home
      let r := g.cruRound
      let cur := open_.find? fun x => x.number == r
      if (cur.map fun x => x.op != op || x.n != n) = some true then s.opFormat e 12
      else if g.cru.length < k then s.stall e.gk e.ss (.credit k)
      else
        let part : Contrib := { gang := e.gk, group := grp, dst := dst, words := (g.cru.take k).map (·.toNat) }
        let s := s.setGroup grp { g with cru := g.cru.drop k, cruRound := r + 1 }
        let rounds := match cur with
          | some _ => open_.map fun x => if x.number = r then { x with parts := put x.parts g.pos part } else x
          | none => open_ ++ [{ number := r, op := op, n := n, size := (s.participants grp).length, parts := [(g.pos, part)] }]
        ({ s with rounds := put s.rounds home rounds } : State).advance e.gk e.ss

def execCredAdd (d a : BitVec 6) : State → Outcome State Fault Refusal := issue (.credAdd d a) fun e s => s.cred e 0 d a
def execCredMax (d a : BitVec 6) : State → Outcome State Fault Refusal := issue (.credMax d a) fun e s => s.cred e 1 d a
def execCredMin (d a : BitVec 6) : State → Outcome State Fault Refusal := issue (.credMin d a) fun e s => s.cred e 2 d a
def execCredSmerge (d a : BitVec 6) : State → Outcome State Fault Refusal := issue (.credSmerge d a) fun e s => s.cred e 3 d a

/-- CRU_ROUND_COMPLETE: the oldest round of unit `u`'s groups to which every participant has contributed is combined; its
words are written in every participant that is still resident, and the completion word enters the replay window towards q12 of each
issuing gang, in which there has to be room first (10 R232). -/
def execCruRoundComplete (u : Nat) (s : State) : Outcome State Fault Refusal :=
  let ready := s.rounds.findSome? fun (k, rs) =>
    (rs.find? fun r => r.parts.length == r.size && r.parts.any fun p => (s.gang p.2.gang).core / 4 == u).map fun r => (k, r)
  match ready with
  | none => .next s
  | some (home, r) =>
    let parts := (r.parts.map (·.2)).filter fun p => (s.group p.group).live
    if parts.any fun p => !s.windowRoom (portKey p.gang 12) 1 then .next s
    else
      let out := credCombine r.op r.n (r.parts.map fun p => p.2.words)
      let bs := out.flatMap fun w => toBytes 4 w
      let word := w32 (r.op * 2 ^ 30 + r.n * 2 ^ 16 + r.number % 65536)
      let s := parts.foldl (fun s p => s.engWrite 5 0 p.gang p.dst bs) s
      let s := ((parts.map (·.gang)).eraseDups).foldl (fun s gk => s.sendEntry (portKey gk 12) [word] 0xFFFFFFFF#32) s
      .next { s with rounds := set [] s.rounds home ((get [] s.rounds home).filter fun x => x.number != r.number) }

end Sys2Proof.Machine
end

