-- ==== Sys2Proof/Machine/Layout.lean ====
section
/-! DEFINITION. The bytes of a context image (18 R385 to R389): what each segment holds, the image of what has been saved, and
what an image gives back when it is read. -/

namespace Sys2Proof.Machine

/-! ### Blocks and fields -/

/-- Bytes filled up with zeros to whole 4 KiB units. -/
def padUnits (bs : List Byte) : List Byte := bs ++ List.replicate (ceilDiv bs.length 4096 * 4096 - bs.length) 0

/-- A block of `n` bytes that holds some contents, of a kind whose contents the manual lists without a place for each byte: 1 the
metadata of a core, 2 of a group, 4 a stream context, 5 a bulk copy, 6 and 7 a residual entry and its lanes, 8 and 9 a
store-queue entry and its lanes. Log entry 91, DESIGN CHOICE. -/
def scatter (kind n : Nat) (content : List Byte) : List Byte :=
  (List.range n).map fun o => (content[Config.imageIndex kind o]?).getD 0

/-- The contents that a block holds; a byte that has no place in it stays as it was. -/
def gather (kind : Nat) (old block : List Byte) : List Byte :=
  old.zipIdx.map fun (b, k) => match block.zipIdx.find? fun p => Config.imageIndex kind p.2 == k with
    | some (x, _) => x
    | none => b

/-- Bytes cut into fields of the lengths of some others. -/
def splitAs : (like : List (List Byte)) → List Byte → List (List Byte)
  | [], _ => []
  | f :: fs, bs => bs.take f.length :: splitAs fs (bs.drop f.length)

/-- What field `i` gives: what stood there, where its bytes have not changed. -/
def fieldOr {α : Type} (old new : List (List Byte)) (i : Nat) (a : α) (f : List Byte → α) : α :=
  let x := (old[i]?).getD []
  let y := (new[i]?).getD []
  if x = y then a else f y

/-- Numbers of `w` bytes each. -/
def numBytes (w : Nat) (xs : List Nat) : List Byte := xs.flatMap (toBytes w)

/-- The `i`-th number of `w` bytes. -/
def numAt (w : Nat) (bs : List Byte) (i : Nat) : Nat := le bs (w * i) w

/-! ### Gangs (R387) -/

/-- The place of a lane (05 R121): path, parked in, pending in, or exited. -/
def Gang.placeByte (g : Gang) (l : Nat) : Nat :=
  let regs := List.range 8
  if has g.path l then 0
  else match regs.find? fun k => has (get {} g.rejoin k).parked l with
    | some k => 1 + 16 * k
    | none => match regs.find? fun k => (get {} g.rejoin k).paths.any fun p => has p.mask l with
      | some k => 2 + 16 * k
      | none => 3

/-- The waiting bits of a slice. -/
def Slice.waitBits (x : Slice) (cohort : Nat) : Nat :=
  cohort % 8 + match x.wait with
    | none => 0
    | some (.join k _) => 8 + k % 8 * 256
    | some (.regang m _ _) => 8 + 16 + m % 256 * 65536

/-- The wait that the bits give to a slice that stands at an address. -/
def waitOf (b addr since : Nat) : Option Wait :=
  if ¬ bit b 3 then none
  else if bit b 4 then some (.regang (bits b 16 8) addr since)
  else some (.join (bits b 8 3) addr)

/-- Cohorts numbered by their lowest slice. -/
def Gang.cohortOf (g : Gang) (i : Nat) : Nat := (g.sliceList.find? fun j => (g.slice j).cohort == (g.slice i).cohort).getD i

/-- The 48 bytes of a frame: the visible registers where this level's handler runs, and the level's hidden part. -/
def frameBytes (f : Frame) (shown : Bool) (h : Hidden) : List Byte :=
  (if shown then toBytes 8 f.tpc.toNat ++ toBytes 8 f.taux.toNat ++ toBytes 4 f.tcause.toNat ++ toBytes 4 f.tmask.toNat
      ++ toBytes 4 f.tdone.toNat ++ toBytes 4 f.tmode.toNat
   else toBytes 32 0) ++ toBytes 4 h.path.toNat ++ toBytes 4 0 ++ toBytes 8 h.resume.toNat

/-- The frame registers that 48 bytes give, and the hidden part. -/
def frameOf (bs : List Byte) : Frame :=
  { tpc := w64 (le bs 0 8), taux := w64 (le bs 8 8), tcause := w32 (le bs 16 4), tmask := w32 (le bs 20 4)
    tdone := w32 (le bs 24 4), tmode := w32 (le bs 28 4) }
def Hidden.read (h : Hidden) (bs : List Byte) : Hidden := { h with path := w32 (le bs 32 4), resume := w64 (le bs 40 8) }

/-- The 144 bytes of a rejoin register. -/
def rejoinBytes (r : Rejoin) : List Byte :=
  toBytes 4 r.expect.toNat ++ toBytes 4 r.arrived.toNat ++ toBytes 4 (r.paths.length % 16 + r.age % 2 ^ 17 * 16) ++ toBytes 4 0
    ++ (List.range 8).flatMap fun i =>
      let p := r.paths[i]?.getD {}
      toBytes 8 p.pc ++ toBytes 4 p.mask.toNat ++ toBytes 4 (p.base % 65536 + p.count % 65536 * 65536)

/-- The rejoin register that 144 bytes give; the lanes parked in it are given elsewhere. -/
def Rejoin.read (r : Rejoin) (bs : List Byte) : Rejoin :=
  { r with
    expect := w32 (le bs 0 4), arrived := w32 (le bs 4 4), age := bits (le bs 8 4) 4 17
    paths := (List.range (bits (le bs 8 4) 0 4)).map fun i =>
      { pc := le bs (16 + 16 * i) 8, mask := w32 (le bs (24 + 16 * i) 4), base := le bs (28 + 16 * i) 2, count := le bs (30 + 16 * i) 2 } }

/-- The present lanes. -/
def Gang.lanes (g : Gang) : List Nat := lanesOf g.present

/-- The keys of a lane's saved registers: v0–v15, then the resident slots. -/
def Gang.savedRegs (g : Gang) (l : Nat) : List Nat :=
  let x := g.slice (l / 4)
  (List.range 16).map (slotKey l) ++ (List.range (x.base + 48 - x.low)).map fun i => slotKey l (16 + x.low + i)

/-- The register area: the saved registers, and the shadow registers of a gang at supervisor level. -/
def Gang.regBytes (g : Gang) : List Byte := g.lanes.flatMap fun l => (g.savedRegs l).flatMap fun k => toBytes 4 (get 0 g.regs.vec k).toNat
def Gang.shadowBytes (g : Gang) : List Byte :=
  if g.level = 1 then g.lanes.flatMap fun l => (List.range 8).flatMap fun n => toBytes 4 (g.regs.shadow.read l n).toNat else []

/-- An entry before the first of a list with a greater number. -/
def byId (e : Entry) : List Entry → List Entry
  | [] => [e]
  | f :: fs => if e.id < f.id then e :: f :: fs else f :: byId e fs

/-- The residual entries that an image holds, the faulted one first: those of the queue, unsettled captured stores, what waits to
be taken as a fault or for the host, and deliveries that wait for a window or a queue. -/
def Gang.savedEntries (g : Gang) : List Entry :=
  let rest := g.work.residuals ++ (g.work.stores.filter fun q => !q.entry.waits.isEmpty).map (·.entry)
    ++ g.work.posted.filterMap (·.entry) ++ (g.page.bind (·.entry)).toList ++ g.work.flight.filterMap (·.entry)
  (g.work.faulted.map fun f => f.1).toList ++ rest.foldr byId []

/-- The registers of each source operand of an entry, in the order of the fields; a source has up to four. -/
def Entry.sources (e : Entry) : List (List Nat) :=
  let D := e.descOf
  let ns := ((desc e.instr).ops.filter fun o => o.reads || o.role == .b).map fun o =>
    kindNames e.mode (fun _ => e.dest.length == 2) (fun _ => D.rank) o.kind o.num
  (ns.filter fun n => !n.isEmpty).take 4

/-- The older destination, where the entry delivers it again and it is no source already (10 R224). -/
def Entry.older (e : Entry) : List Nat :=
  if e.keep = 0 then [] else (e.dest.map fun d => valName d.1).filter fun n => !e.sources.flatten.contains n

/-- How an entry waits on a register: [7] waiting, [6] on the shadow register of that name, [5:0] the tag. -/
def Entry.waitByte (e : Entry) (n : Nat) : Nat :=
  match e.waits.find? fun w => valName w.1 == n with
  | some w => 128 + b2n (decide (96 ≤ w.1)) * 64 + w.2 % 64
  | none => 0

/-- The waits that such bytes give for registers. -/
def waitsIn (names : List Nat) (bs : List Byte) : List (Nat × Nat) :=
  (names.zipIdx).filterMap fun (n, i) =>
    let b := numAt 1 bs i
    if bit b 7 then some (if bit b 6 then 96 + n else n, b % 64) else none

/-- Four bytes of the registers of one operand. -/
def Entry.waitBytes (e : Entry) (ns : List Nat) : List Byte :=
  (List.range 4).flatMap fun i => toBytes 1 (((ns[i]?).map e.waitByte).getD 0)

/-- What the 64 bytes at the head of a residual entry hold: the word, the lane mask, the address, the MODE snapshot, the guard
(its pending flag, its wait, its bits), the destination's name and tags, the older destination's waits and lanes, and the
descriptors of four sources. -/
def Entry.headFields (e : Entry) : List (List Byte) :=
  [toBytes 4 e.word.toNat, toBytes 4 e.lanes.toNat, toBytes 8 e.addr.toNat, toBytes 4 e.mode.toNat,
   toBytes 1 (b2n e.guardPend) ++ (if e.guardPend then
      toBytes 1 (e.waitByte (64 + mGuard e.mode)) ++ toBytes 4 (maskOf fun l => e.readP l (mGuard e.mode)).toNat
    else toBytes 5 0),
   toBytes 1 ((e.dest.map Prod.fst).headD 0)
    ++ (List.range 4).flatMap fun i => toBytes 1 (((e.dest[i]?).map fun d => 128 + d.2 % 64).getD 0),
   e.waitBytes e.older ++ toBytes 4 e.keep.toNat,
   (List.range 4).flatMap fun i =>
    let ns := (e.sources[i]?).getD []
    toBytes 1 (ns.headD 0) ++ e.waitBytes ns]

/-- The registers whose words a lane's 32 bytes hold. -/
def Entry.laneNames (e : Entry) : List Nat := (e.sources.flatten ++ e.older).take 8

/-- The operand values of a lane. -/
def Entry.laneWords (e : Entry) (l : Nat) : List Byte := e.laneNames.flatMap fun n => toBytes 4 (get 0 e.vals (128 * l + n)).toNat

/-- The 1,088 bytes of a residual entry. -/
def Entry.image (e : Entry) : List Byte :=
  scatter 6 64 e.headFields.flatten ++ (List.range 32).flatMap fun l => scatter 7 32 (e.laneWords l)

/-- An entry with the instruction that a word encodes, where it encodes one. -/
def Entry.withWord (e : Entry) (w : W32) : Entry :=
  if w = e.word then e
  else match decodeWord w with
    | .ok i => { e with word := w, instr := i }
    | .error _ => e

/-- The entry that 1,088 bytes give. A register it newly waits on is to come in all its lanes. -/
def Entry.read (e : Entry) (bs : List Byte) : Entry :=
  let old := e.headFields
  let new := splitAs old (gather 6 old.flatten (bs.take 64))
  let x := e.withWord (fieldOr old new 0 e.word fun b => w32 (fromBytes b))
  let x : Entry := { x with
    lanes := fieldOr old new 1 e.lanes fun b => w32 (fromBytes b), addr := fieldOr old new 2 e.addr fun b => w64 (fromBytes b)
    mode := fieldOr old new 3 e.mode fun b => w32 (fromBytes b), guardPend := fieldOr old new 4 e.guardPend fun b => bit (fromBytes b) 0
    dest := fieldOr old new 5 e.dest fun b =>
      (List.range 4).filterMap fun i => if bit (numAt 1 b (1 + i)) 7 then some (numAt 1 b 0 + i, numAt 1 b (1 + i) % 64) else none
    keep := fieldOr old new 6 e.keep fun b => w32 (le b 4 4) }
  let waits := if (old.drop 4) = (new.drop 4) then e.waits else
    let field (i : Nat) : List Byte := (new[i]?).getD []
    ((if x.guardPend then waitsIn [64 + mGuard x.mode] ((field 4).drop 1) else []) ++ waitsIn x.older (field 6)
      ++ (x.sources.zipIdx).flatMap fun (ns, i) => waitsIn ns ((field 7).drop (5 * i + 1))).eraseDups
  let guard (vs : Store W32) : Store W32 := fieldOr old new 4 vs fun b => if x.guardPend then
      (lanesOf x.lanes).foldl (fun vs l => put vs (128 * l + 64 + mGuard x.mode) (w32 (b2n (bit (le b 2 4) l)))) vs
    else vs
  let vals := (List.range 32).foldl (fun vs l =>
    let was := e.laneWords l
    let now := gather 7 was ((bs.drop (64 + 32 * l)).take 32)
    if now = was then vs
    else (x.laneNames.zipIdx).foldl (fun vs p => put vs (128 * l + p.1) (w32 (numAt 4 now p.2))) vs) (guard e.vals)
  { x with
    waits := waits, vals := vals
    late := waits.foldl (fun m w => if e.waits.contains w then m else put m w.1 x.lanes) e.late }

/-- What the 32 bytes at the head of a store-queue entry hold; `i` is the index of its residual entry. -/
def SqEntry.headFields (q : SqEntry) (i : Nat) : List (List Byte) :=
  [toBytes 4 q.entry.word.toNat, toBytes 4 q.entry.mode.toNat, toBytes 4 q.entry.lanes.toNat,
   toBytes 1 (if q.entry.waits.isEmpty then 0 else i)]

/-- A lane's address and data. -/
def SqEntry.laneFields (q : SqEntry) (l : Nat) : List (List Byte) :=
  match accessOf q.entry.mode q.entry.instr with
  | some x => [toBytes 8 (x.addr (q.entry.readV l)), x.data (q.entry.readV l)]
  | none => [toBytes 8 0, []]

/-- The 1,056 bytes of a store-queue entry. -/
def SqEntry.image (q : SqEntry) (i : Nat) : List Byte :=
  scatter 8 32 ((q.headFields i).flatten) ++ (List.range 32).flatMap fun l => scatter 9 32 ((q.laneFields l).flatten)

/-- Puts a lane's address and data into the words of a store's registers: the address registers move by what the address does. -/
def Entry.putLane (e : Entry) (x : Access) (l addr : Nat) (data : List Byte) : Entry :=
  let w := if x.spad then 32 else 64
  let by_ := addr + 2 ^ w - x.addr (e.readV l) % 2 ^ w
  let a := x.aregs.headD 0
  let base := ((if x.spad then (e.readV l a).toNat else (join64 (e.readV l a) (e.readV l (a + 1))).toNat) + by_) % 2 ^ w
  let vals := put e.vals (128 * l + a) (w32 base)
  let vals := if x.spad then vals else put vals (128 * l + a + 1) (w32 (base / 2 ^ 32))
  { e with vals := (x.regs.zipIdx).foldl (fun vs p => put vs (128 * l + p.1) (w32 (numAt 4 data p.2))) vals }

/-- The store-queue entry that 1,056 bytes give, its residual entry being one of some. -/
def SqEntry.read (q : SqEntry) (i : Nat) (es : List Entry) (bs : List Byte) : SqEntry :=
  let old := q.headFields i
  let new := splitAs old (gather 8 old.flatten (bs.take 32))
  let e := fieldOr old new 3 q.entry fun b => (es[fromBytes b]?).getD q.entry
  let e := e.withWord (fieldOr old new 0 e.word fun b => w32 (fromBytes b))
  let e := { e with
    mode := fieldOr old new 1 e.mode fun b => w32 (fromBytes b), lanes := fieldOr old new 2 e.lanes fun b => w32 (fromBytes b) }
  match accessOf e.mode e.instr with
  | none => { q with entry := e }
  | some x =>
    { q with entry := (List.range 32).foldl (fun e l =>
        let was := (q.laneFields l).flatten
        let now := gather 9 was ((bs.drop (32 + 32 * l)).take 32)
        if now = was then e else e.putLane x l (le now 0 8) (now.drop 8)) e }

/-- The index of a store's residual entry. -/
def Gang.residualIndex (g : Gang) (id : Nat) : Nat := (g.savedEntries.findIdx? fun e => e.id == id).getD 0

/-- The residual and store-queue entries. -/
def Gang.entryBytes (g : Gang) : List Byte :=
  g.savedEntries.flatMap Entry.image ++ g.work.stores.flatMap fun q => q.image (g.residualIndex q.entry.id)

/-- What follows the first unit. -/
def Gang.area (g : Gang) : List Byte := g.regBytes ++ g.shadowBytes ++ g.entryBytes
def Gang.areaUnits (g : Gang) : Nat :=
  ceilDiv (g.regBytes.length + g.shadowBytes.length + 1088 * g.savedEntries.length + 1056 * g.work.stores.length) 4096

/-- The gang runs at supervisor level outside any handler too: it is one of a runtime context (01 R39). -/
def Gang.ofRuntime (g : Gang) : Bool := decide (g.level = 1) && (!g.supH || decide (g.hidSup.fromLevel = 1))

/-- The fields of a gang segment's first unit, in the order of R387's table; rejoin register `k` is field `12 + k`. -/
def Gang.fields (g : Gang) : List (List Byte) :=
  let redo := g.page.isSome || g.slices.any fun x => x.reexec.isSome
  [toBytes 4 (g.nslices % 16 + g.gangid % 32 * 256 + g.level % 2 * 2 ^ 16 + b2n (g.userH || (g.supH && g.ofRuntime)) * 2 ^ 17
    + b2n redo * 2 ^ 18),
   toBytes 4 g.sys.rlost.toNat,
   (List.range 8).flatMap fun i => toBytes 8 (g.slice i).pc.toNat,
   (List.range 8).flatMap fun i => toBytes 4 (g.slice i).mode.toNat,
   (List.range 8).flatMap fun i => toBytes 4 ((g.slice i).base % 65536 + (g.slice i).low % 65536 * 65536),
   (List.range 8).flatMap fun i => toBytes 4 (if i < g.nslices then (g.slice i).waitBits (g.cohortOf i) else 0),
   (List.range 32).flatMap fun l => toBytes 1 (g.placeByte l),
   (List.range 8).flatMap fun f => toBytes 1 (g.fanSet f),
   toBytes 4 g.sys.fpflags.toNat ++ toBytes 4 g.sys.gflags.toNat ++ toBytes 4 g.dfrstat ++ toBytes 4 g.sys.fpctl.toNat,
   toBytes 8 g.sys.utvec.toNat,
   frameBytes g.frame (!g.supH) g.hidUser,
   frameBytes g.frame g.supH g.hidSup]
  ++ ((List.range 8).map fun k => rejoinBytes (get {} g.rejoin k))
  ++ [(List.range 96).flatMap fun n => toBytes 1 ((g.pend n).tag % 64 + b2n (g.pend n).on * 128),
      toBytes 4 g.savedEntries.length ++ toBytes 4 g.work.stores.length ++ toBytes 4 g.areaUnits ++ toBytes 12 0,
      (List.range 32).flatMap fun l =>
        toBytes 4 ((List.range 32).foldl (fun m n => m + b2n (g.readP l n) * 2 ^ n) 0) ++ toBytes 8 (g.xsOf l).s0.toNat
          ++ toBytes 8 (g.xsOf l).s1.toNat]

/-- The bytes of a gang segment. -/
def Gang.segment (g : Gang) : List Byte := padUnits g.fields.flatten ++ padUnits g.area

/-- The slices as the first unit gives them; cohorts and waits are read anew only where their field has changed. -/
def Gang.readSlices (g : Gang) (old new : List (List Byte)) : List Slice :=
  g.slices.mapIdx fun i x =>
    let x : Slice := { x with
      pc := fieldOr old new 2 x.pc fun b => pcLegal (w64 (numAt 8 b i)), mode := fieldOr old new 3 x.mode fun b => w32 (numAt 4 b i)
      base := fieldOr old new 4 x.base fun b => numAt 2 b (2 * i), low := fieldOr old new 4 x.low fun b => numAt 2 b (2 * i + 1) }
    fieldOr old new 5 x fun b =>
      let since := match x.wait with
        | some (.regang _ _ t) => t
        | _ => 0
      { x with cohort := numAt 4 b i % 8, wait := waitOf (numAt 4 b i) (pcAddr x.pc) since }

/-- The lanes whose place byte passes a test. -/
def placed (b : List Byte) (present : Mask) (f : Nat → Bool) : Mask := present &&& maskOf fun l => f (numAt 1 b l)

/-- The level and the handlers that run: the handler-active bit is the user handler's at either level (05 R142), but for a gang
of a runtime context. -/
def Gang.readLevel (g : Gang) (old new : List (List Byte)) : Gang :=
  fieldOr old new 0 g fun b =>
    let lvl := bits (fromBytes b) 16 1
    let h := bit (fromBytes b) 17
    { g with
      level := lvl, supH := decide (lvl = 1) && (!g.ofRuntime || h), userH := if g.ofRuntime then g.userH else h
      slices := if bit (fromBytes b) 18 then g.slices.mapIdx fun i x =>
          if g.frame.tmask &&& sliceMask i ≠ 0 ∧ x.reexec.isNone then { x with reexec := some g.frame.tmask } else x
        else g.slices.map fun x => { x with reexec := none } }

/-- Registers of the lanes: one word after the other under the keys. -/
def loadRegs (vec : Store W32) : List Nat → List Byte → Store W32
  | [], _ => vec
  | k :: ks, bs => loadRegs (set 0 vec k (w32 (le bs 0 4))) ks (bs.drop 4)

/-- The registers that the first unit and the register area give. -/
def Gang.readRegs (g : Gang) (old new : List (List Byte)) (area : List Byte) : Gang :=
  let pred := fieldOr old new 22 g.regs.pred fun b => (List.range 32).foldl (fun m n =>
    set 0 m n (maskOf fun l => if has g.present l then bit (le b (20 * l) 4) n else has (g.pmask n) l)) g.regs.pred
  let xs := fieldOr old new 22 g.regs.xs fun b => g.lanes.foldl (fun m l =>
    let x : Xs := { s0 := w64 (le b (20 * l + 4) 8), s1 := w64 (le b (20 * l + 12) 8) }
    if x = g.xsOf l then m else put m l x) g.regs.xs
  let pend := fieldOr old new 20 g.regs.pend fun b => (List.range 96).foldl (fun m n =>
    let p := g.pend n
    let q : Pend := { p with on := bit (numAt 1 b n) 7, tag := numAt 1 b n % 64 }
    if q = p then m else put m n q) g.regs.pend
  let sh := (area.drop g.regBytes.length).take g.shadowBytes.length
  let shadow : Shadow := if sh = g.shadowBytes then g.regs.shadow else
    { g.regs.shadow with kept := (g.lanes.zipIdx).foldl (fun m p =>
        (List.range 8).foldl (fun m n => put m (8 * p.1 + n) (w32 (numAt 4 sh (8 * p.2 + n)))) m) g.regs.shadow.kept }
  { g with regs := { g.regs with
      pred := pred, xs := xs, pend := pend, shadow := shadow
      vec := if area.take g.regBytes.length = g.regBytes then g.regs.vec else loadRegs g.regs.vec (g.lanes.flatMap g.savedRegs) area } }

/-- Every captured entry changed. -/
def Gang.onEntries (g : Gang) (f : Entry → Entry) : Gang :=
  { g with
    page := g.page.map fun p => { p with entry := p.entry.map f }
    work := { g.work with
      residuals := g.work.residuals.map f, faulted := g.work.faulted.map fun x => (f x.1, x.2)
      stores := g.work.stores.map fun q => { q with entry := f q.entry }
      posted := g.work.posted.map fun p => { p with entry := p.entry.map f }
      flight := g.work.flight.map fun d => { d with entry := d.entry.map f } } }

/-- The residual and store-queue entries that an area gives. -/
def Gang.readEntries (g : Gang) (area : List Byte) : Gang :=
  let o := g.regBytes.length + g.shadowBytes.length
  let es := g.savedEntries
  let at_ (i : Nat) : List Byte := (area.drop (o + 1088 * i)).take 1088
  let g1 := g.onEntries fun e => match es.findIdx? fun x => x.id == e.id with
    | some i => e.read (at_ i)
    | none => e
  let store (i : Nat) (q : SqEntry) : SqEntry :=
    q.read (g.residualIndex q.entry.id) g1.savedEntries ((area.drop (o + 1088 * es.length + 1056 * i)).take 1056)
  { g1 with work := { g1.work with stores := g1.work.stores.mapIdx store } }

/-- The gang that a segment gives. Log entry 21, DEDUCED. -/
def Gang.read (g : Gang) (bs : List Byte) : Gang :=
  let old := g.fields
  let new := splitAs old (bs.take 4096)
  let area := bs.drop 4096
  let sys := { g.sys with
    rlost := fieldOr old new 1 g.sys.rlost fun b => w32 (fromBytes b)
    fpflags := fieldOr old new 8 g.sys.fpflags fun b => w32 (numAt 4 b 0 % 32)
    gflags := fieldOr old new 8 g.sys.gflags fun b => w32 (numAt 4 b 1 % 8)
    parks := fieldOr old new 8 g.sys.parks fun b => bits (numAt 4 b 2) 16 16
    high := fieldOr old new 8 g.sys.high fun b => bits (numAt 4 b 2) 8 6
    fpctl := fieldOr old new 8 g.sys.fpctl fun b => w32 (numAt 4 b 3 % 32)
    utvec := fieldOr old new 9 g.sys.utvec fun b => w64 (fromBytes b) }
  let rejoin := (List.range 8).foldl (fun m k =>
    let r : Rejoin := get {} g.rejoin k
    let r := fieldOr old new (12 + k) r r.read
    let r : Rejoin := fieldOr old new 6 r fun b => { r with parked := placed b g.present fun p => p % 4 == 1 && p / 16 == k }
    if r = get {} g.rejoin k then m else put m k r) g.rejoin
  let g1 : Gang := { g with
    slices := g.readSlices old new, sys := sys, rejoin := rejoin
    path := fieldOr old new 6 g.path fun b => placed b g.present fun p => p % 4 == 0
    exited := fieldOr old new 6 g.exited fun b => placed b g.present fun p => p % 4 == 3
    fan := fieldOr old new 7 g.fan fun b => (List.range 7).foldl (fun m i => put m (i + 1) (numAt 1 b (i + 1) % 128)) g.fan
    frame := fieldOr old new (if g.supH then 11 else 10) g.frame frameOf
    hidUser := fieldOr old new 10 g.hidUser g.hidUser.read, hidSup := fieldOr old new 11 g.hidSup g.hidSup.read }
  ((g1.readLevel old new).readRegs old new area).readEntries area

/-! ### Groups (R386) -/

/-- A record of OBRES as its two pairs give it (09 R188). -/
def OdRec.pairs (o : OdRec) : Nat × Nat :=
  (o.base + o.len % 4096 * 2 ^ 12 + o.pitch * 2 ^ 24 + o.kext * 2 ^ 40,
   o.fmt + o.layout * 2 ^ 5 + o.lcode * 2 ^ 6 + o.m * 2 ^ 8 + b2n o.scaled * 2 ^ 12 + b2n o.zres * 2 ^ 13 + b2n o.skip * 2 ^ 14
    + o.soff * 2 ^ 32)
def OdRec.bytes (o : OdRec) : List Byte := toBytes 8 o.pairs.1 ++ toBytes 8 o.pairs.2
def odOf (bs : List Byte) : OdRec := (obRecord (le bs 0 8) (le bs 8 8)).getD {}

/-- The 32 bytes of a catalogue record (11 R246). -/
def CatEntry.record (c : CatEntry) : List Byte :=
  numBytes 4 [c.rbase, c.wsize % 65536 + (c.cnt - 1) % 16 * 2 ^ 16 + b2n c.touch * 2 ^ 20 + b2n c.mcast * 2 ^ 21, c.full, c.free]
    ++ toBytes 8 c.prog ++ toBytes 4 ((List.range 4).foldl (fun m j => m + nth c.tdmap j % 8 * 2 ^ (4 * j)) 0) ++ toBytes 4 0

def WState.num : WState → Nat
  | .absent => 0
  | .filling => 1
  | .present => 2
  | .faulted => 3
def winState (n : Nat) : WState := if n = 1 then .filling else if n = 2 then .present else if n = 3 then .faulted else .absent

/-- The bytes of a catalogue entry: its record, valid, next, the handle or none, its windows' states and fcode. -/
def CatEntry.bytes (c : CatEntry) : List Byte :=
  c.record ++ toBytes 1 (b2n c.valid) ++ toBytes 4 c.next ++ toBytes 4 ((c.ctx.map (· + 1)).getD 0)
    ++ toBytes 4 ((List.range 16).foldl (fun m i => m + (c.win i).num * 4 ^ i) 0) ++ toBytes 1 c.fcode

def CatEntry.read (c : CatEntry) (bs : List Byte) : CatEntry :=
  let r := catRecord (bs.take 32)
  { r with
    valid := bit (le bs 32 1) 0, next := le bs 33 4, ctx := if le bs 37 4 = 0 then none else some (le bs 37 4 - 1)
    wstate := (List.range 16).foldl (fun m i => set .absent m i (winState (bits (le bs 41 4) (2 * i) 2))) []
    wfill := c.wfill, fcode := le bs 45 1 }

/-- One bit for each 4 KiB page of a range of `n` bytes that the pages of an image hold. -/
def pageMap (pages : Store (List Byte)) (a n : Nat) : Nat :=
  pages.foldl (fun m p => if a ≤ p.1 ∧ p.1 < a + n then m + 2 ^ ((p.1 - a) / 4096) else m) 0

/-- The pages of a range of `n` bytes that a map names. -/
def mappedPages (m a n : Nat) : List Nat := (those (n / 4096) (bit m)).map fun i => a + 4096 * i

/-- The pages of an image in a range. -/
def pagesIn (pages : Store (List Byte)) (a n : Nat) : List (List Byte) :=
  (pages.filter fun p => decide (a ≤ p.1) && decide (p.1 < a + n)).map Prod.snd

/-- The owner of a uniform register by its gang number, plus one. -/
def Saved.ownerByte (v : Saved) (g : Group) (n : Nat) : Nat := ((find g.owner n).map fun gk => (get {} v.gangs gk).gangid + 1).getD 0

/-- The gang of a group with a number. -/
def Saved.gangNamed (v : Saved) (grp id : Nat) : Option Nat :=
  (v.gangs.find? fun p => p.2.group == grp && p.2.gangid == id).map Prod.fst

/-- The contents of a group's metadata. -/
def Saved.groupFields (v : Saved) (grp : Nat) : List (List Byte) :=
  let g : Group := get {} v.groups grp
  [toBytes 4 (g.stack + g.spad * 2 ^ 8 + g.parkShare * 2 ^ 16), toBytes 1 g.pos ++ toBytes 1 g.csize, toBytes 4 g.groupid,
   (List.range 32).flatMap fun n => toBytes 1 (v.ownerByte g n),
   (List.range 32).flatMap fun n => toBytes 8 (get 0 g.wreg n).toNat,
   (List.range 8).flatMap fun t => match find g.td t with
    | some d => toBytes 1 1 ++ (d ++ List.replicate 128 0).take 128
    | none => toBytes 129 0,
   (List.range 16).flatMap fun o => match find g.od o with
    | some r => toBytes 1 1 ++ r.bytes
    | none => toBytes 17 0,
   (List.range 32).flatMap fun e => (get {} g.cat e).bytes,
   toBytes 64 (pageMap v.pages (spadBase grp) 0x200000),
   toBytes 64 (pageMap v.pages (parkBase grp) 0x200000),
   g.handles.flatMap fun h => toBytes 2 h.1 ++ toBytes 2 h.2,
   g.cru.flatMap fun w => toBytes 4 w.toNat]

/-- The group that metadata gives. -/
def Saved.readGroup (v : Saved) (grp : Nat) (new : List (List Byte)) : Group :=
  let g : Group := get {} v.groups grp
  let old := v.groupFields grp
  { g with
    stack := fieldOr old new 0 g.stack fun b => numAt 1 b 0, spad := fieldOr old new 0 g.spad fun b => numAt 1 b 1
    parkShare := fieldOr old new 0 g.parkShare fun b => numAt 1 b 2
    pos := fieldOr old new 1 g.pos fun b => numAt 1 b 0, csize := fieldOr old new 1 g.csize fun b => numAt 1 b 1
    groupid := fieldOr old new 2 g.groupid fromBytes
    owner := fieldOr old new 3 g.owner fun b => (List.range 32).filterMap fun n =>
      if numAt 1 b n = 0 then none else (v.gangNamed grp (numAt 1 b n - 1)).map fun k => (n, k)
    wreg := fieldOr old new 4 g.wreg fun b => (List.range 32).foldl (fun m n => set 0 m n (w64 (numAt 8 b n))) []
    td := fieldOr old new 5 g.td fun b => (List.range 8).filterMap fun t =>
      if le b (129 * t) 1 = 0 then none
      else some (t, (b.drop (129 * t + 1)).take (((find g.td t).map List.length).getD 128))
    od := fieldOr old new 6 g.od fun b => (List.range 16).filterMap fun o =>
      if le b (17 * o) 1 = 0 then none else some (o, odOf (b.drop (17 * o + 1)))
    cat := fieldOr old new 7 g.cat fun b => (List.range 32).foldl (fun m e =>
      let was : CatEntry := get {} g.cat e
      let bs := (b.drop (46 * e)).take 46
      if bs = was.bytes then m else put m e (was.read bs)) g.cat
    handles := fieldOr old new 10 g.handles fun b => (List.range g.handles.length).foldl (fun m i => put m (numAt 2 b (2 * i)) (numAt 2 b (2 * i + 1))) []
    cru := fieldOr old new 11 g.cru fun b => (List.range g.cru.length).map fun i => w32 (numAt 4 b i) }

/-! ### Cores (R386, R388) -/

/-- One plane: 16 KiB when loaded, column after column. -/
def Plane.image (p : Plane) : List Byte :=
  if p.loaded then (p.bytes.flatten ++ List.replicate 16384 0).take 16384 else []

def Plane.readImage (p : Plane) (bs : List Byte) : Plane := { p with bytes := splitAs p.bytes bs }

/-- The bands that an image holds: in use, and dirty unless the image is protected (R388). -/
def Band.saved (b : Band) (prot : Bool) : Bool := b.inUse && (prot || b.dirty)
def Core.savedBands (k : Core) (prot : Bool) : List Band := k.bands.filter fun b => b.saved prot
def Core.bandStride (k : Core) (prot : Bool) : Nat := parkStride ((k.savedBands prot).map (·.kind))

/-- The bytes of a plane's state and format. -/
def planeBytes (p : Plane) : List Byte :=
  toBytes 1 (b2n p.loaded + b2n p.faulted * 2) ++ toBytes 2 p.slab ++ toBytes 2 p.kslab ++ p.od.bytes

/-- The bytes of a band's row of the table: state byte, group, gangid and home. -/
def Saved.bandBytes (v : Saved) (b : Band) : List Byte :=
  let g : Gang := get {} v.gangs (b.owner.getD 0)
  toBytes 1 (b.byte (b.owner.getD 0)) ++ toBytes 4 (if b.owner.isSome then (v.groups.findIdx? fun p => p.1 == g.group).getD 0 else 0xFFFFFFFF)
    ++ toBytes 1 g.gangid ++ toBytes 4 b.home ++ toBytes 6 (b2n b.inUse)

/-- The bytes of a decoder slot, in the layout of 11 R273. -/
def CodeTable.bytes (t : CodeTable) : List Byte := toBytes 1 0 ++ numBytes 1 t.count ++ t.symbols

/-- The bytes of a waiting pass. -/
def QReq.bytes (r : QReq) : List Byte :=
  numBytes 1 [b2n r.port, r.q, r.band, r.kind] ++ numBytes 4 [r.lanes.toNat, r.row, r.slab] ++ r.od.bytes
def QReq.read (r : QReq) (bs : List Byte) : QReq :=
  { r with
    port := bit (le bs 0 1) 0, q := le bs 1 1, band := le bs 2 1, kind := le bs 3 1, lanes := w32 (le bs 4 4), row := le bs 8 4
    slab := le bs 12 4, od := odOf (bs.drop 16) }
def QCmd.reqs (q : QCmd) : List QReq :=
  match q.cmd with
  | .pass _ _ rs => rs
  | _ => []
def QCmd.withReqs (q : QCmd) (rs : List QReq) : QCmd :=
  match q.cmd with
  | .pass o p _ => { q with cmd := .pass o p rs }
  | _ => q

/-- The rounds of the groups that stand on a core, in order, and the queues of the link ends that position 0 of a consort saves. -/
def Saved.coreRounds (v : Saved) (c : Nat) : List (Nat × List Round) :=
  v.rounds.filter fun r => (get ({} : Group) v.groups r.1).core == c
def Saved.coreRecvs (v : Saved) (c : Nat) : List (Nat × List (List W32 × Mask)) :=
  v.recvs.filter fun r => match qkey r.1 with
    | .link n _ => c == 4 * n
    | _ => false

def roundBytes (r : Round) : List Byte :=
  toBytes 1 r.op ++ toBytes 4 r.n ++ toBytes 1 (r.parts.foldl (fun m p => m + 2 ^ p.1) 0)
def recvBytes (q : List W32 × Mask) : List Byte := (q.1.flatMap fun w => toBytes 4 w.toNat) ++ toBytes 4 q.2.toNat

/-- The contents of a core's metadata. -/
def Saved.coreFields (v : Saved) (c : Nat) : List (List Byte) :=
  let k : Core := get {} v.cores c
  [k.bands.flatMap v.bandBytes,
   planeBytes (k.plane k.active) ++ planeBytes (k.plane (1 - k.active)),
   toBytes 8 (pageMap v.pages (bufBase c) 0x40000),
   (List.range 4).flatMap fun i => ((find k.dec i).map CodeTable.bytes).getD [],
   k.array.flatMap fun q => q.reqs.flatMap QReq.bytes,
   (v.coreRounds c).flatMap fun r => r.2.flatMap roundBytes,
   (v.coreRecvs c).flatMap fun r => r.2.flatMap recvBytes]

/-- A contribution's two units, and what they give. -/
def contribBytes (p : Contrib) : List Byte := (p.words.flatMap (toBytes 4) ++ List.replicate 8192 0).take 8192

/-- What follows a core's pages: its planes, the active one first, its saved bands and the contributions taken. -/
def Saved.coreTail (v : Saved) (c : Nat) : List (List Byte) :=
  let k : Core := get {} v.cores c
  let prot := decide (v.world ≠ 0)
  let stride := k.bandStride prot
  let bands := (k.savedBands prot).flatMap fun b => (bandImage b.kind b.acc ++ List.replicate stride 0).take stride
  [(k.plane k.active).image, (k.plane (1 - k.active)).image, padUnits bands]
    ++ (v.coreRounds c).flatMap fun r => r.2.flatMap fun r => r.parts.map fun p => contribBytes p.2

/-- The core that metadata and tail give. -/
def Saved.readCore (v : Saved) (c : Nat) (new : List (List Byte)) : Core :=
  let k : Core := get {} v.cores c
  let old := v.coreFields c
  let plane (i o : Nat) (p : Plane) : Plane :=
    fieldOr old new 1 p fun b =>
      let b := b.drop o
      if b.take 21 = planeBytes p then p
      else { p with loaded := bit (le b 0 1) 0, faulted := bit (le b 0 1) 1, slab := le b 1 2, kslab := le b 3 2, od := odOf (b.drop (5 + 0 * i)) }
  { k with
    bands := k.bands.mapIdx fun i x => fieldOr old new 0 x fun b =>
      let b := (b.drop (16 * i)).take 16
      if b = v.bandBytes x then x
      else
        let y := le b 0 1
        let grp := (v.groups[le b 1 4]?).map Prod.fst
        { x with
          owner := if bit y 0 then grp.bind fun g => v.gangNamed g (le b 5 1) else none
          bind := if bit y 6 then some (bits y 4 2) else none, kind := bits y 1 2, dirty := bit y 3, faulted := bit y 7
          home := le b 6 4, inUse := bit (le b 10 1) 0 }
    planes := k.planes.mapIdx fun i p => if i = k.active then plane i 0 p else plane i 21 p
    dec := (List.range 4).foldl (fun m i => match find k.dec i with
      | some t =>
        let o := (List.range i).foldl (fun o j => o + (((find k.dec j).map fun t => t.bytes.length).getD 0)) 0
        fieldOr old new 3 m fun b => put m i
          { count := (List.range 15).map fun j => le b (o + 1 + j) 1, symbols := (b.drop (o + 16)).take t.symbols.length }
      | none => m) k.dec
    array := (k.array.foldl (fun (r : List QCmd × Nat) q =>
      (r.1 ++ [fieldOr old new 4 q fun b => q.withReqs (q.reqs.mapIdx fun i x => x.read ((b.drop (32 * (r.2 + i))).take 32))],
       r.2 + q.reqs.length)) ([], 0)).1 }

/-- A core with its planes and saved bands as the tail of a segment gives them. -/
def Saved.readTail (v : Saved) (c : Nat) (bs : List Byte) : Core :=
  let k : Core := get {} v.cores c
  let prot := decide (v.world ≠ 0)
  let old := v.coreTail c
  let new := splitAs old bs
  let stride := k.bandStride prot
  let plane (f : Nat) (p : Plane) : Plane := fieldOr old new f p p.readImage
  { k with
    planes := k.planes.mapIdx fun i p => plane (if i = k.active then 0 else 1) p
    bands := fieldOr old new 2 k.bands fun b => (k.bands.foldl (fun (r : List Band × Nat) x =>
      if x.saved prot then (r.1 ++ [{ x with acc := bandOf x.kind ((b.drop (stride * r.2)).take stride) }], r.2 + 1)
      else (r.1 ++ [x], r.2)) ([], 0)).1 }

/-- The rounds as a core's metadata and tail give them. -/
def Saved.readRounds (v : Saved) (c : Nat) (new tail : List (List Byte)) : Store (List Round) :=
  let old := v.coreFields c
  let was := (v.coreTail c).drop 3
  let ofRound (b : List Byte) (i : Nat) (r : Round) : Round := { r with op := le b (6 * i) 1, n := le b (6 * i + 1) 4 }
  let mine := (v.coreRounds c).map Prod.fst
  (v.rounds.foldl (fun (a : Store (List Round) × Nat × Nat) p =>
    if mine.contains p.1 then
      let (rs, i, j) := p.2.foldl (fun (x : List Round × Nat × Nat) r =>
        let r := fieldOr old new 5 r fun b => ofRound b x.2.1 r
        let parts := r.parts.mapIdx fun n q => (q.1, fieldOr was (tail.drop 3) (x.2.2 + n) q.2 fun b =>
          { q.2 with words := (List.range q.2.words.length).map (numAt 4 b) })
        (x.1 ++ [{ r with parts := parts }], x.2.1 + 1, x.2.2 + r.parts.length)) ([], a.2.1, a.2.2)
      (a.1 ++ [(p.1, rs)], i, j)
    else (a.1 ++ [p], a.2.1, a.2.2)) ([], 0, 0)).1

/-- The landed queue entries as a core's metadata gives them. -/
def Saved.readRecvs (v : Saved) (c : Nat) (new : List (List Byte)) : List (Nat × List (List W32 × Mask)) :=
  let old := v.coreFields c
  let mine := (v.coreRecvs c).map Prod.fst
  fieldOr old new 6 v.recvs fun b =>
    (v.recvs.foldl (fun (a : List (Nat × List (List W32 × Mask)) × List Byte) r =>
      if mine.contains r.1 then
        let (qs, rest) := r.2.foldl (fun (x : List (List W32 × Mask) × List Byte) q =>
          let n := 4 * q.1.length
          (x.1 ++ [((List.range q.1.length).map (fun i => w32 (numAt 4 x.2 i)), w32 (le x.2 n 4))], x.2.drop (n + 4))) ([], a.2)
        (a.1 ++ [(r.1, qs)], rest)
      else (a.1 ++ [r], a.2)) ([], b)).1

/-! ### Stream contexts and copies (R386) -/

def boxBytes (b : StreamBox) : List Byte :=
  (b.desc ++ List.replicate 128 0).take 128 ++ (List.range 6).flatMap fun i => toBytes 4 (nth b.origin i) ++ toBytes 4 (nth b.extent i)

/-- The contents of a stream context: its checkpoint and its four box copies. -/
def StreamCtx.fields (c : StreamCtx) : List (List Byte) :=
  let r := c.check
  [(List.range 8).flatMap fun n => toBytes 8 (get 0 r.e n).toNat, (List.range 4).flatMap fun n => toBytes 4 (get 0 r.lc n).toNat,
   (List.range 4).flatMap fun n => toBytes 8 (get 0 r.start n), toBytes 8 r.pc, toBytes 5 ((r.cur.map (· + 1)).getD 0), toBytes 8 r.fill,
   toBytes 4 r.tag.toNat]
  ++ (List.range 4).map fun n => boxBytes (get {} r.sd n)

/-- The context that a block gives, at its checkpoint. -/
def StreamCtx.read (c : StreamCtx) (block : List Byte) : StreamCtx :=
  let old := c.fields
  let new := splitAs old (gather 4 old.flatten block)
  let r := c.check
  let r : StreamRegs := { r with
    e := fieldOr old new 0 r.e fun b => (List.range 8).foldl (fun m n => put m n (w64 (numAt 8 b n))) []
    lc := fieldOr old new 1 r.lc fun b => (List.range 4).foldl (fun m n => put m n (w32 (numAt 4 b n))) []
    start := fieldOr old new 2 r.start fun b => (List.range 4).foldl (fun m n => put m n (numAt 8 b n)) []
    pc := fieldOr old new 3 r.pc fromBytes, cur := fieldOr old new 4 r.cur fun b => if fromBytes b = 0 then none else some (fromBytes b - 1)
    fill := fieldOr old new 5 r.fill fromBytes, tag := fieldOr old new 6 r.tag fun b => w32 (fromBytes b)
    sd := (List.range 4).foldl (fun m n => fieldOr old new (7 + n) m fun b => put m n
      { desc := b.take (get ({} : StreamBox) r.sd n).desc.length, origin := (List.range 6).map fun i => le b (128 + 8 * i) 4
        extent := (List.range 6).map fun i => le b (132 + 8 * i) 4 }) r.sd }
  { c with check := r, regs := r }

/-- The request of a copy (11 R269), and the bytes done. -/
def Bulk.fields (b : Bulk) : List (List Byte) :=
  let (cs, p0, bar) := b.chunk.getD (0, 0, 0)
  [numBytes 8 [b.src, b.dst, b.len, b.ring], toBytes 4 b.tag.toNat,
   toBytes 4 (b2n b.dsp + b2n b.chunk.isSome * 2 + b2n b.imp * 4) ++ toBytes 4 cs ++ toBytes 4 p0
    ++ toBytes 4 (bar % 2 ^ 24) ++ toBytes 12 0, toBytes 8 b.got]

/-- The copy that a block gives. -/
def Bulk.read (x : Bulk) (block : List Byte) : Bulk :=
  let old := x.fields
  let new := splitAs old (gather 5 old.flatten block)
  let x : Bulk := fieldOr old new 0 x fun b =>
    let len := numAt 8 b 2
    { x with src := numAt 8 b 0, dst := numAt 8 b 1, len := len, ring := numAt 8 b 3, todo := List.range (ceilDiv len 128) }
  let x : Bulk := { x with tag := fieldOr old new 1 x.tag fun b => w32 (fromBytes b) }
  let x : Bulk := fieldOr old new 2 x fun b =>
    { x with
      dsp := bit (le b 0 4) 0, imp := bit (le b 0 4) 2
      chunk := if bit (le b 0 4) 1 then some (le b 4 4, le b 8 4, spadBase x.group + le b 12 4) else none }
  fieldOr old new 3 x fun b => { x with got := fromBytes b, todo := (List.range (ceilDiv x.len 128)).filter fun j => fromBytes b ≤ 128 * j }

/-! ### The image (R385) -/

/-- What a segment is of. -/
inductive SegOf where
  | core (c : Nat) | group (k : Nat) | gang (k : Nat) | stream (h : Nat) | bulk (b : Nat)
  deriving DecidableEq, Repr

/-- A directory entry: what it is of, its kind, index and parent. -/
structure Seg where
  of : SegOf
  kind : Nat
  index : Nat
  parent : Nat := 0xFFFFFFFF
  deriving DecidableEq, Repr

/-- The segments in directory order: each core, then its groups, each with its gangs, stream contexts and copies. -/
def Saved.segs (v : Saved) : List Seg :=
  (v.cores.foldl (fun (r : List Seg × Nat) k =>
    let at_ := r.1.length
    (v.groups.filter fun p => p.2.core == k.1).foldl (fun (r : List Seg × Nat) g =>
      let me := r.1.length
      let gangs : List Seg := (v.gangs.filter fun p => p.2.group == g.1).map fun p =>
        { of := .gang p.1, kind := 3, index := p.2.gangid, parent := me }
      let streams : List Seg := (v.streams.filter fun p => p.2.group == g.1).map fun p =>
        { of := .stream p.1, kind := 4, index := p.1, parent := me }
      let bulks : List Seg := (v.bulks.filter fun p => p.2.group == g.1).map fun p =>
        { of := .bulk p.1, kind := 5, index := p.1, parent := me }
      (r.1 ++ [{ of := .group g.1, kind := 2, index := r.2, parent := at_ }] ++ gangs ++ streams ++ bulks, r.2 + 1))
      (r.1 ++ [{ of := .core k.1, kind := 1, index := k.1 }], r.2)) ([], 0)).1

/-- The bytes of a segment. -/
def Saved.segBytes (v : Saved) : SegOf → List Byte
  | .core c =>
    scatter 1 8192 ((v.coreFields c).flatten) ++ (pagesIn v.pages (bufBase c) 0x40000).flatten ++ (v.coreTail c).flatten
  | .group k =>
    scatter 2 8192 ((v.groupFields k).flatten) ++ (pagesIn v.pages (spadBase k) 0x400000).flatten
  | .gang k => (get ({} : Gang) v.gangs k).segment
  | .stream h => scatter 4 4096 ((get ({} : StreamCtx) v.streams h).fields.flatten)
  | .bulk b => scatter 5 4096 ((get ({} : Bulk) v.bulks b).fields.flatten)

/-- The units of a segment. -/
def Saved.segUnits (v : Saved) (g : Seg) : Nat := ceilDiv (v.segBytes g.of).length 4096

/-- The first unit of each segment. -/
def Saved.firstUnits (v : Saved) : List Seg → Nat → List Nat
  | [], _ => []
  | g :: gs, u => u :: v.firstUnits gs (u + v.segUnits g)

/-- Units in front of the segments: header and directory. -/
def frontUnits (n : Nat) : Nat := 1 + ceilDiv (16 * n) 4096

/-- Units without, and with, the tag units. -/
def Saved.plainUnits (v : Saved) : Nat := frontUnits v.segs.length + (v.segs.map v.segUnits).sum
def tagUnits (prot : Bool) (n : Nat) : Nat := if prot then ceilDiv (16 * n) 4096 else 0
def Saved.units (v : Saved) : Nat := v.plainUnits + tagUnits (decide (v.world ≠ 0)) v.plainUnits

/-- The header. -/
def Saved.header (v : Saved) : List Byte :=
  let prot := decide (v.world ≠ 0)
  let segs := v.segs
  padUnits (toBytes 4 1 ++ toBytes 4 (b2n prot) ++ toBytes 8 v.counter ++ toBytes 4 (v.ctx % 64 + v.world % 64 * 65536)
    ++ toBytes 4 v.units ++ toBytes 4 segs.length ++ toBytes 4 (tagUnits prot v.plainUnits)
    ++ toBytes 4 (segs.filter fun g => g.kind == 2).length ++ toBytes 220 0
    ++ (List.range 64).flatMap fun q => toBytes 8 ((v.queues[q]?).getD 0xFFFFFFFF))

/-- The directory. -/
def Saved.directory (v : Saved) : List Byte :=
  let segs := v.segs
  padUnits ((segs.zip (v.firstUnits segs (frontUnits segs.length))).flatMap fun (g, u) =>
    toBytes 4 (g.kind + g.index % 65536 * 65536) ++ toBytes 4 (v.segUnits g) ++ toBytes 4 u ++ toBytes 4 g.parent)

/-- The image of what has been saved, in clear. -/
def Saved.image (v : Saved) : List Byte := v.header ++ v.directory ++ v.segs.flatMap fun g => v.segBytes g.of

/-- A list cut into 4 KiB units. -/
def cutUnits : (n : Nat) → List Byte → List (List Byte)
  | 0, _ => []
  | n + 1, bs => bs.take 4096 :: cutUnits n (bs.drop 4096)

/-- A sealed image (R389): the header in clear, every other unit encrypted, and the tags. `n` numbers the sealing. -/
def sealImage (n key counter : Nat) (plain : List Byte) : List Byte :=
  let us := cutUnits (ceilDiv plain.length 4096) plain
  let body := us.zipIdx.flatMap fun (u, i) => if i = 0 then u else (List.range 4096).map (Config.sealed (n * 2 ^ 32 + i) u)
  let tags := us.zipIdx.flatMap fun (u, i) => toBytes 16 (Config.gcmTag key (counter * 2 ^ 32 + i) u)
  body ++ padUnits tags

/-! ### Reading an image -/

/-- The pages that stand in a block from an offset on, at the places of a list. -/
def pagesFrom (bs : List Byte) (o : Nat) (ps : List Nat) : Store (List Byte) :=
  ps.zipIdx.map fun (a, i) => (a, (bs.drop (o + 4096 * i)).take 4096)

/-- The pages of an image with those of a range replaced. -/
def replacePages (pages : Store (List Byte)) (a n : Nat) (new : Store (List Byte)) : Store (List Byte) :=
  new.foldl (fun m p => put m p.1 p.2) (pages.filter fun p => !(decide (a ≤ p.1) && decide (p.1 < a + n)))

/-- What a segment's bytes give. -/
def Saved.readSeg (v : Saved) (bs : List Byte) : SegOf → Saved
  | .core c =>
    let old := v.coreFields c
    let new := splitAs old (gather 1 old.flatten (bs.take 8192))
    let ps := mappedPages (fieldOr old new 2 (fromBytes ((old[2]?).getD [])) fromBytes) (bufBase c) 0x40000
    let v1 := { v with
      cores := put v.cores c (v.readCore c new), recvs := v.readRecvs c new
      pages := replacePages v.pages (bufBase c) 0x40000 (pagesFrom bs 8192 ps) }
    let tail := bs.drop (8192 + 4096 * ps.length)
    { v1 with
      cores := put v1.cores c (v1.readTail c tail), rounds := v.readRounds c new (splitAs (v1.coreTail c) tail) }
  | .group k =>
    let old := v.groupFields k
    let new := splitAs old (gather 2 old.flatten (bs.take 8192))
    let map (i : Nat) : Nat := fieldOr old new i (fromBytes ((old[i]?).getD [])) fromBytes
    let ps := mappedPages (map 8) (spadBase k) 0x200000 ++ mappedPages (map 9) (parkBase k) 0x200000
    { v with
      groups := put v.groups k (v.readGroup k new), pages := replacePages v.pages (spadBase k) 0x400000 (pagesFrom bs 8192 ps) }
  | .gang k => { v with gangs := put v.gangs k ((get ({} : Gang) v.gangs k).read bs) }
  | .stream h => { v with streams := put v.streams h ((get ({} : StreamCtx) v.streams h).read (bs.take 4096)) }
  | .bulk b => { v with bulks := put v.bulks b ((get ({} : Bulk) v.bulks b).read (bs.take 4096)) }

/-- What an image gives that lists the segments of one taken before: each segment stands where the directory says. -/
def Saved.read (v : Saved) (bs : List Byte) : Saved :=
  let v := { v with queues := (List.range 64).map fun q => le bs (0x100 + 8 * q) 8 }
  (v.segs.zipIdx).foldl (fun w (g, i) => w.readSeg (bs.drop (4096 * le bs (4096 + 16 * i + 8) 4)) g.of) v

/-- The contents of an ordinary image that is not malformed, read against one taken of the context: it is the image of what it
gives. Log entry 21, DEDUCED. -/
def Saved.open_ (v : Saved) (bs : List Byte) : Option Saved :=
  let w := v.read bs
  if w.image = bs then some w else none

end Sys2Proof.Machine
end

