-- ==== Sys2Proof/Machine/Deferred.lean ====
section
/-! DEFINITION. Deferred work (10 R224 to R231; 05 R438, R439): deliveries under a register and tag, residuals that run, and
posted faults that are taken. -/

namespace Sys2Proof.Machine

open Host (Outcome)

/-- What a captured instruction computes; none for a load, a prefetch, and what is never captured. -/
def kernelOf : Instr → Option Kernel
  | .add _ a b => some (kAdd a.toNat b.toNat)
  | .sub _ a b => some (kSub a.toNat b.toNat)
  | .mul _ a b => some (kMul a.toNat b.toNat)
  | .mulh _ a b => some (kMulh a.toNat b.toNat)
  | .min _ a b => some (kMinMax false a.toNat b.toNat)
  | .max _ a b => some (kMinMax true a.toNat b.toNat)
  | .div _ a b => some (kDiv a.toNat b.toNat)
  | .rem _ a b => some (kRem a.toNat b.toNat)
  | .abs _ a => some (kSign false a.toNat)
  | .neg _ a => some (kSign true a.toNat)
  | .sqrt _ a => some (kFun (fun _ _ => sqrtE) a.toNat)
  | .rcp _ a => some (kFun (fun _ _ => rcpE) a.toNat)
  | .rsq _ a => some (kFun (fun _ _ => rsqE) a.toNat)
  | .exp2 _ a => some (kFun exp2E a.toNat)
  | .log2 _ a => some (kFun log2E a.toNat)
  | .sin _ a => some (kFun sinE a.toNat)
  | .cos _ a => some (kFun cosE a.toNat)
  | .mad _ a b c => some (kMad a.toNat b.toNat c.toNat)
  | .and _ a b => some (kBits (· &&& ·) a.toNat b.toNat)
  | .or _ a b => some (kBits (· ||| ·) a.toNat b.toNat)
  | .xor _ a b => some (kBits (· ^^^ ·) a.toNat b.toNat)
  | .andn _ a b => some (kBits (fun x y => x &&& ~~~y) a.toNat b.toNat)
  | .not _ a => some (kBits (fun x _ => ~~~x) a.toNat a.toNat)
  | .shl _ a b => some (kShift shl a.toNat b.toNat)
  | .shr _ a b => some (kShift shr a.toNat b.toNat)
  | .sar _ a b => some (kShift sar a.toNat b.toNat)
  | .rot _ a b => some (kShift rot a.toNat b.toNat)
  | .popc _ a => some (kCount popCount a.toNat)
  | .clz _ a => some (kCount (fun w x => w - bitLength w x) a.toNat)
  | .brev _ a => some (kCount bitReverse a.toNat)
  | .bfx _ a b c => some (kBfx a.toNat b.toNat c.toNat)
  | .bfi d a b c => some (kBfi d.toNat a.toNat b.toNat c.toNat)
  | .lea _ a b c => some (kLea a.toNat b.toNat c.toNat)
  | .addi _ a i => some (kAddi a.toNat i)
  | .andi _ a i => some (kLogicI (· &&& ·) a.toNat i)
  | .ori _ a i => some (kLogicI (· ||| ·) a.toNat i)
  | .xori _ a i => some (kLogicI (· ^^^ ·) a.toNat i)
  | .shli _ a i => some (kShiftI shl a.toNat i.toNat)
  | .shri _ a i => some (kShiftI shr a.toNat i.toNat)
  | .sari _ a i => some (kShiftI sar a.toNat i.toNat)
  | .ldi _ i => some (kLdi i)
  | .ldih d i => some (kLdih d.toNat i)
  | .cmpEq _ a b => some (kCmp .eq a.toNat b.toNat)
  | .cmpNe _ a b => some (kCmp .ne a.toNat b.toNat)
  | .cmpLt _ a b => some (kCmp .lt a.toNat b.toNat)
  | .cmpLe _ a b => some (kCmp .le a.toNat b.toNat)
  | .cmpGt _ a b => some (kCmp .gt a.toNat b.toNat)
  | .cmpGe _ a b => some (kCmp .ge a.toNat b.toNat)
  | .cmpUn _ a b => some (kCmp .un a.toNat b.toNat)
  | .cmpClass _ a b => some (kClass a.toNat b.toNat)
  | .sel _ a b c => some (kSel a.toNat b.toNat c.toNat)
  | .mov _ a => some (kMov a.toNat)
  | .cvt k _ a b => some (kCvt k.toNat a.toNat b.toNat)
  | .pand _ a b => some (kPred (· && ·) a.toNat b.toNat)
  | .por _ a b => some (kPred (· || ·) a.toNat b.toNat)
  | .pxor _ a b => some (kPred (· != ·) a.toNat b.toNat)
  | .pnot _ a => some (kPred (fun x _ => !x) a.toNat a.toNat)
  | .pmov _ a => some (kPred (fun x _ => x) a.toNat a.toNat)
  | .ballot _ a => some (kBallot a.toNat)
  | .vany _ a => some (kVany a.toNat)
  | .vall _ a => some (kVall a.toNat)
  | .match _ a => some (kMatch a.toNat)
  | .shfl _ a b => some (kShfl (fun _ n => some n) a.toNat b.toNat)
  | .shflup _ a b => some (kShfl (fun l n => if n ≤ l then some (l - n) else none) a.toNat b.toNat)
  | .shfldn _ a b => some (kShfl (fun l n => some (l + n)) a.toNat b.toNat)
  | .shflx _ a b => some (kShfl (fun l n => some (Nat.xor l n)) a.toNat b.toNat)
  | .movw _ _ => some kMovw
  | .getm _ => some kGetm
  | _ => none

/-! ### Delivering to the destinations of an entry -/

/-- Delivers to each pending destination, the `j`-th of which gets `f j`; `fin` closes the destinations (R226). -/
def Gang.deliverAll (g : Gang) (dest : List (Nat × Nat)) (lanes : Mask) (fin : Bool) (f : (j lane : Nat) → W32) : Gang :=
  (dest.zipIdx).foldl (fun g (d, j) => g.deliver d.1 d.2 lanes fin (f j)) g

/-- What an entry delivers in a lane: its result in a lane that it performed, the older value again elsewhere (R224). -/
def Entry.result (e : Entry) (done : Mask) (f : (j lane : Nat) → W32) (j l : Nat) : W32 :=
  if has done l then f j l else get 0 e.vals (128 * l + valName ((e.dest[j]?.getD (0, 0)).1))

/-- The lanes to which an entry delivers when its lanes `done` are performed; at its end also those it kept. -/
def Entry.landing (e : Entry) (done : Mask) (fin : Bool) : Mask := if fin then done ||| (e.keep &&& ~~~done) else done

/-- The entry delivers its performed lanes. -/
def State.deliverEntry (s : State) (gk : Nat) (e : Entry) (done : Mask) (fin : Bool) (f : (j lane : Nat) → W32) : State :=
  s.setGang gk ((s.gang gk).deliverAll e.dest (e.landing done fin) fin (e.result done f))

/-- The kept lanes of an entry that has delivered to some lanes are those that it has not reached yet. -/
def Entry.rest (e : Entry) (done left : Mask) : Entry :=
  { e with lanes := left, keep := e.keep &&& ~~~done, guardPend := false, flits := [] }

/-! ### Running a captured instruction (R227) -/

/-- How an attempt to run an entry ended: it waits (the state may have touched a window), it completed, or it failed in
some lanes. -/
inductive RunRes where
  | waits (s : State)
  | ok (s : State)
  | bad (s : State) (p : Posted)

/-- The words of a result. -/
def outWord (o : Out) (isP : Bool) (j : Nat) : W32 := if isP then w32 (b2n o.p) else if j = 0 then lo32 o.val else hi32 o.val

/-- A captured computation runs. -/
def State.runKernel (s : State) (gk : Nat) (e : Entry) (k : Kernel) (outside : Bool) : RunRes :=
  let g := s.gang gk
  let m := e.active
  let l0 := lowest m
  let env : Env := { e.env m with uni := join64 (e.readV l0 126) (e.readV l0 127) }
  let os := outcomes k env
  let raising := raisingLanes os g.sys.fpctl
  let done := m &&& ~~~raising
  let isP := match destOf e.instr with
    | some o => o.kind == .pred
    | none => false
  let s := s.deliverEntry gk e done (raising == 0) fun j l => outWord (get {} os l) isP j
  let s := s.raise gk (flagsOf os m) (satOf os)
  if raising = 0 then .ok s
  else .bad s { code := cFp, aux := fpAux os raising m g.sys.fpctl, tmask := raising, tdone := done, entry := some (e.rest done raising)
                outside := outside }

/-- An entry has sent requests to other chips (19 R407): a residual, the replay at the head, or one in flight. -/
def State.noteFlits (s : State) (gk id : Nat) (fs : List (Nat × Nat)) : State :=
  let f (e : Entry) : Entry := if e.id = id then { e with flits := fs } else e
  s.mapGang gk fun g => { g with work := { g.work with
    residuals := g.work.residuals.map f
    faulted := g.work.faulted.map fun x => (f x.1, x.2)
    flight := g.work.flight.map fun (d : Deliv) => { d with entry := d.entry.map f } } }

/-- What an attempt of an entry's load comes to (R230). -/
def State.loaded (s : State) (gk : Nat) (e : Entry) (outside : Bool) : LoadRes → RunRes
  | .blocked _ => .waits s
  | .ordered => .waits s
  | .link => .waits s
  | .asked s fs => .waits (s.noteFlits gk e.id fs)
  | .waits s _ => .waits s
  | .ran s out bad =>
    let done := keyMask out
    let s := s.deliverEntry gk e done bad.isEmpty fun j l => (get [] out l)[j]?.getD 0
    if bad.isEmpty then .ok (s.count gk 1 (· - 1))
    else
      let f := (vals bad).headD {}
      let left := keyMask bad
      let s := s.logPoison gk bad
      .bad (if f.code = cPage then s else s.postMemFault gk f)
        { code := f.code, aux := f.aux, tmask := left, tdone := done, entry := some (e.rest done left), outside := outside
          kind := f.kind, malformed := f.malformed }

/-- A captured load, one that waited for its window or goes on translating, or an atomic whose return was lost (20 R422), runs. -/
def State.runLoad (s : State) (gk : Nat) (e : Entry) (outside : Bool) : RunRes :=
  let m := e.active
  match e.instr with
  | .tld d a b =>
    if m ≠ 0 ∧ ¬ s.crossbarOk gk (xAccess 1 false [] 2 4) then .waits s
    else s.loaded gk e outside (s.tldLate gk e d.toNat a.toNat b.toNat)
  | i => match accessOf e.mode i with
    | none => .ok s
    | some x =>
      if m ≠ 0 ∧ ¬ s.crossbarOk gk x then .waits s
      else match atomicFn i e.mode e.readV with
        | some (f, pcie) => s.loaded gk e outside (s.atomicRun gk e.id i x e.flits m e.readV pcie f)
        | none => s.loaded gk e outside (s.loadRun gk e.id x (!x.spad) e.flits m e.readV)

/-- A captured instruction runs in its lanes. -/
def State.runEntry (s : State) (gk : Nat) (e : Entry) (outside : Bool) : RunRes :=
  match e.instr with
  | .pref d a => .ok (s.prefetch gk d.toNat a.toNat e.active e.readV)
  | _ =>
    match kernelOf e.instr with
    | some k => s.runKernel gk e k outside
    | none => s.runLoad gk e outside

/-- A residual or replay is a retirement of its gang (R223). -/
def State.retired (s : State) (gk : Nat) : State :=
  let g := s.gang gk
  s.setGang gk { g with sched := g.sched.retire }

/-- The gang may run deferred work: it is not stopped, not parked on a page fault, its queue not frozen, and its
partition has issue balance (16 R365). -/
def State.mayDefer (s : State) (gk : Nat) : Bool :=
  let g := s.gang gk
  g.live && !g.stopped && g.page.isNone && !s.recordWaits gk && !g.frozen && s.mayStart (s.partOf g) 0

/-- The entry after a run leaves the place it stood in; `out` takes it out. -/
def State.afterRun (s : State) (gk : Nat) (out : Gang → Gang) : RunRes → State
  | .waits t => t
  | .ok t => ((t.setGang gk (out (t.gang gk))).charge (s.partOf (s.gang gk)) 0 1).retired gk
  | .bad t p => ((t.setGang gk (out (t.gang gk))).charge (s.partOf (s.gang gk)) 0 1).post gk p

/-- The faulted entry at the head is replayed in the lanes that TRET left (05 R143); none left closes its destinations. A
store goes back to its place in the store queue, a QPOP to its wait. Log entry 49, DEDUCED. -/
def State.replay (s : State) (gk : Nat) (e : Entry) (m : Mask) (outside : Bool) : State :=
  let e := { e with lanes := m, guardPend := false }
  let out (g : Gang) : Gang := { g with work := { g.work with faulted := none } }
  if (desc e.instr).cnt = 2 then
    let g := out (s.gang gk)
    let st := g.work.stores.map fun q =>
      if q.entry.id = e.id then { q with fault := none, entry := { q.entry with lanes := m } } else q
    s.setGang gk { g with work := { g.work with stores := st } }
  else match e.instr with
    | .qpop _ a =>
      let g := out (s.gang gk)
      if m = 0 then s.setGang gk (g.deliverAll e.dest 0 true fun _ _ => 0)
      else
        let d : Deliv := { id := e.id, regs := e.dest, lanes := m, entry := some e, queue := some a.toNat }
        s.setGang gk { g with work := { g.work with flight := g.work.flight ++ [d] } }
    | _ => s.afterRun gk out (s.runEntry gk e outside)

/-- A load of a residual still meets an entry of the store queue that it waits for (07 R163). -/
def State.entryBlocked (s : State) (gk : Nat) (e : Entry) : Bool :=
  match accessOf e.mode e.instr with
  | none => false
  | some x => !(s.blockers gk e.id x (s.laneAll gk x 0 true (x.lanes e.active e.readV)).1).isEmpty

/-- Every source of the residual is delivered, and no store-queue entry blocks it (R217, R227). -/
def State.entryReady (s : State) (gk : Nat) (e : Entry) : Bool := e.waits.isEmpty && !s.entryBlocked gk e

/-- The residuals that are ready, the oldest first. -/
def State.readyResiduals (s : State) (gk : Nat) : List Entry := (s.gang gk).work.residuals.filter (s.entryReady gk)

/-- A replay or a ready residual can run (R227). -/
def State.deferReady (s : State) (gk : Nat) : Bool :=
  let g := s.gang gk
  !g.frozen && (g.work.faulted.isSome || !(s.readyResiduals gk).isEmpty)

/-- The first of some ready residuals that does not wait after all runs; the answer tells whether one ran. -/
def State.tryResiduals (s : State) (gk : Nat) : List Entry → State × Bool
  | [] => (s, false)
  | e :: es =>
    let out (g : Gang) : Gang := { g with work := { g.work with residuals := g.work.residuals.filter fun r => r.id != e.id } }
    let t := s.afterRun gk out (s.runEntry gk e false)
    if (t.gang gk).work.residuals.any fun r => r.id == e.id then State.tryResiduals t gk es else (t, true)

/-- Deferred work of a granted gang: the replay at the head, else the oldest ready residual. -/
def State.tryDeferred (s : State) (gk : Nat) : State × Bool :=
  let g := s.gang gk
  if ¬ s.mayDefer gk then (s, false)
  else match g.work.faulted with
    | some (e, m, o) =>
      let t := s.replay gk e m o
      (t, (t.gang gk).work.faulted.isNone)
    | none => s.tryResiduals gk (s.readyResiduals gk)

/-! ### Deliveries (R226) -/

/-- Takes a delivery off its way. -/
def Gang.landed (g : Gang) (id : Nat) : Gang := { g with work := { g.work with flight := g.work.flight.filter fun d => d.id != id } }

/-- A value on its way arrives. -/
def State.arriveValue (s : State) (gk : Nat) (d : Deliv) : State :=
  let g := ((s.gang gk).deliverAll d.regs d.lanes true fun j l =>
    get 0 d.vals (128 * l + valName ((d.regs[j]?.getD (0, 0)).1))).landed d.id
  (s.setGang gk { g with counts := if d.loads then { g.counts with loads := g.counts.loads - 1 } else g.counts }).crossAck d.cross

/-- A QPOP that waits gets its entry; a decoded chunk in error is its fault (11 R276). -/
def State.arrivePop (s : State) (gk : Nat) (d : Deliv) (e : Entry) (q : Nat) : State :=
  if ¬ (s.gang gk).work.flight.all fun x => x.queue != some q || decide (d.id ≤ x.id) then s
  else match s.popQueue gk q with
    | none => s
    | some (s, some f) => s.setGang gk (((s.gang gk).deliverAll d.regs d.lanes true fun _ l => f l).landed d.id)
    | some (s, none) =>
      (s.setGang gk ((s.gang gk).landed d.id)).post gk
        { code := cFormat, aux := w64 (pcAddr e.addr + 13 * 2 ^ 56), tmask := d.lanes, entry := some e, outside := true }

/-- TAGGED_DELIVERY: the `i`-th delivery on its way arrives, or is tried again; loads that have still to read do so in order (14
R323). -/
def execTaggedDelivery (g i : Nat) (s : State) : Outcome State Fault Refusal :=
  match (if s.still g then none else (s.gang g).work.flight[i]?) with
  | none => .next s
  | some d =>
    match d.entry, d.queue with
    | some e, some q => .next (s.arrivePop g d e q)
    | some e, none =>
      if (s.gang g).unread e.id then .next s
      else match s.runLoad g e true with
      | .waits t => .next t
      | .ok t => .next (t.setGang g ((t.gang g).landed d.id))
      | .bad t p => .next ((t.setGang g ((t.gang g).landed d.id)).post g p)
    | none, _ => .next (s.arriveValue g d)

/-! ### Posted faults (05 R438) -/

/-- The slices at whose boundary a posted fault is taken: the cohort of the lowest slice that runs, else of the lowest
slice with a path (log entry 15, DESIGN CHOICE). -/
def Gang.boundary (g : Gang) : List Nat :=
  let lead := match (List.range g.slices.length).find? g.runs with
    | some i => some i
    | none => (List.range g.slices.length).find? fun i => decide (g.path &&& sliceMask i ≠ 0)
  match lead with
  | some i => (g.cohortSlices (g.slice i).cohort).filter fun j => decide (g.path &&& sliceMask j ≠ 0)
  | none => []

/-- The trap of a posted fault. -/
def Posted.trap (p : Posted) (pc : W64) : Trap :=
  match p.entry with
  | some e => { code := p.code, aux := p.taux, tmask := p.tmask, tdone := p.tdone, tpc := e.addr, deferred := true, resume := pc }
  | none => { code := p.code, aux := p.taux, tpc := pc }

/-- A posted fault can be taken (05 R438): the gang runs outside every handler, and no instruction that TRET or a resumption
re-executes stands before the boundary (05 R143). -/
def Gang.postedReady (g : Gang) : Bool :=
  !g.work.posted.isEmpty && !g.userH && !g.supH && g.work.faulted.isNone && !g.boundary.isEmpty
    && g.slices.all fun x => x.reexec.isNone

/-- A posted page fault is taken (10 R230): the gang parks with the frame written and its record posted.
Log entry 16, DEDUCED. -/
def State.takePage (s : State) (gk : Nat) (ss : List Nat) (p : Posted) : State :=
  let f : Flt := { code := p.code, aux := p.aux, va := bits p.aux.toNat 0 56, kind := p.kind, malformed := p.malformed }
  s.parkPage gk [] p.tmask f p.entry p.outside (some (trapFrame (s.gang gk) ss (p.trap 0) false))

/-- POSTED_FAULT_TAKE: the oldest posted fault, outside every handler; with no lane left each is reported (R439). -/
def execPostedFaultTake (g : Nat) (s : State) : Outcome State Fault Refusal :=
  let x := s.gang g
  if x.live ∧ x.unexited = 0 ∧ ¬ x.stopped then .next (s.dropPosted g)
  else match x.work.posted with
  | [] => .next s
  | p :: rest =>
    let ss := x.boundary
    if ¬ x.postedReady ∨ x.stopped ∨ ¬ x.live ∨ x.page.isSome ∨ s.recordWaits g then .next s
    else
      let page := decide (p.code = cPage)
      let faulted := if page then none else p.entry.map fun e => (e, p.tmask, p.outside)
      let s := s.setGang g { x with work := { x.work with posted := rest, faulted := faulted } }
      if page then .next (s.takePage g ss p)
      else .next (s.trap g ss (p.trap (x.slice (ss.headD 0)).pc))

end Sys2Proof.Machine
end

