-- ==== Sys2Proof/Machine/Launch.lean ====
section
/-! DEFINITION. The launch family (chapters 16, 17): queue headers and records, dispatch, dependences, placing, finishing,
completion counters, the launch instructions and the budget periods. -/

namespace Sys2Proof.Machine

open Host (Outcome)

/-! ### What the launcher reads and writes (R348, R352, R354, R355) -/

/-- Translation by the launcher: for a context, through no buffer. -/
def State.lnPlaces (s : State) (x va n : Nat) (wr : Bool) : Except (Nat × Xl) (List (Nat × Nat)) :=
  (segments va n).mapM fun (p : Nat × Nat) =>
    match s.xlateBy [] x p.1 p.2 wr with
    | .ok pa _ => .ok (pa, p.2)
    | r => .error (p.1, r)

/-- How a read by the launcher ends: bytes; a page fault to wait for; the link of host memory is down; or a failure with
its cause code and the reason of R155. -/
inductive LnRes where
  | got (bs : List Byte)
  | miss (va : Nat) (malformed : Bool)
  | held
  | bad (va code reason : Nat) (r : Xl)
  deriving DecidableEq, Repr

/-- Reads bytes for a queue's partition and context. -/
def State.lnRead (s : State) (p x va n : Nat) : LnRes :=
  match s.lnPlaces x va n false with
  | .error (a, .miss m) => .miss a m
  | .error (a, .deny r pg pv) => .bad a cAccess r (.deny r pg pv)
  | .error (a, r) => .bad a cAccess 0 r
  | .ok ps =>
    if ¬ (s.part p).linked ∧ ps.any (fun q => isHost q.1) then .held
    else if ps.any fun q => s.poisoned q.1 q.2 || s.unreachable q.1 then .bad va cPoison 0 (.miss false)
    else .got (ps.flatMap fun q => s.bytes q.1 q.2)

/-- A kind 3 record of the launcher for a queue. -/
def State.denyLauncher (s : State) (p q x : Nat) (r : Xl) : State := s.postEngineDeny p x { queue := some q } r

/-- A kind 8 record of a source (18 R377). -/
def State.postLauncher (s : State) (p q x src va code reason : Nat) (r : Xl) : State :=
  (s.denyLauncher p q x r).postRecord p
    { kind := 8, ctx := x, queue := some q, addr := va, detail := code + src * 256 + reason * 4096 }

/-- A page fault of the launcher for a queue: the queue waits. -/
def State.queueMiss (s : State) (p q va : Nat) (malformed : Bool) : State :=
  let x := (s.queue p q).ctx
  let (s, seq) := s.postEngineMiss p x va 2 malformed { queue := some q }
  s.setQueue p q { s.queue p q with fault := some seq }

/-! ### Queue headers (R348) -/

/-- A header's words are legal. -/
def headerLegal (bs : List Byte) : Bool :=
  let f := le bs 8 4
  f / 2 ^ 8 == 0 && decide (1 ≤ f % 16) && decide (f % 16 ≤ 12) && (bs.drop 12).all (· == 0)

/-- Reads the header of a queue, as a doorbell or an LQPUSH makes the device do. -/
def State.readHeader (s : State) (p q : Nat) : State :=
  let k := s.queue p q
  if ¬ k.bound then s
  else match s.lnRead p k.ctx k.header 64 with
    | .held => s.setQueue p q { k with reread := true }
    | .miss va m =>
      let (s, seq) := s.postEngineMiss p k.ctx va 2 m { queue := some q }
      s.setQueue p q { s.queue p q with reread := true, hfault := some seq }
    | .bad va c r x => (s.setQueue p q { k with on := false, reread := false }).postLauncher p q k.ctx 3 va c r x
    | .got bs =>
      let f := le bs 8 4
      let cons := if k.fresh then le bs 4 4 else k.cons
      s.setQueue p q { k with
        on := headerLegal bs && bit f 7, prod := le bs 0 4, lsize := f % 16, prio := bits f 4 3, cons := cons, fresh := false
        dispatch := if k.fresh then cons else k.dispatch, stuck := false, reread := false }

/-- A header whose read met a page fault, or host memory behind a link that was down, can be read again. -/
def State.headerDue (s : State) (p q : Nat) : Bool :=
  (s.queue p q).reread && (s.queue p q).hfault.isNone && (s.part p).linked && !s.queueParked p q

/-- cons is written to the header (R349), once more where its page was missing or the link of host memory down; a refused page
leaves it unwritten, with a kind 3 record. -/
def State.writeCons (s : State) (p q : Nat) : State :=
  let k := s.queue p q
  if ¬ k.consDue ∨ k.hfault.isSome then s
  else match s.xlateBy [] k.ctx (k.header + 4) 4 true with
    | .ok pa _ =>
      if isHost pa ∧ ¬ (s.part p).linked then s
      else (s.setQueue p q { k with consDue := false }).setNum pa 4 k.cons
    | .miss m =>
      let (s, seq) := s.postEngineMiss p k.ctx (k.header + 4) 2 m { queue := some q }
      s.setQueue p q { s.queue p q with hfault := some seq }
    | r => (s.setQueue p q { k with consDue := false }).denyLauncher p q k.ctx r

/-- The records between two indexes, modulo 2^32. -/
def ahead (a b : Nat) : Nat := (b + 2 ^ 32 - a % 2 ^ 32) % 2 ^ 32

/-- The address of a slot. -/
def Queue.slotVa (k : Queue) (i : Nat) : Nat := k.header + 64 + 128 * (i % 2 ^ k.lsize)

/-- A QBIND takes effect (19 R401): launches of the old binding run on, one that is still placing as the queue's current launch
(R348), but retire no slot of the new ring. -/
def State.rebind (s : State) (p q : Nat) : State :=
  let k := s.queue p q
  match k.bind with
  | none => s
  | some (x, h) =>
    let s := s.setQueue p q { bound := true, ctx := x, header := h, prio := k.prio, granted := k.granted, cur := k.cur }
    { s with launches := mapVals (fun _ l => if l.part = p ∧ l.queue = q then { l with detached := true } else l) s.launches }

/-- The launch of a slot of a queue's ring. -/
def State.launchAt (s : State) (p q i : Nat) : Option (Nat × Launch) :=
  s.launches.find? fun x => x.2.part == p && x.2.queue == q && x.2.slot == i && !x.2.detached

/-- DOORBELL: the value written only signals. The host's write is held while its link is down (19 R399). -/
def execDoorbell (p q _v : Nat) (s : State) : Outcome State Fault Refusal :=
  if (s.part p).live ∧ (s.part p).linked ∧ q < 64 then .next ((s.rebind p q).readHeader p q) else .next s

/-! ### Records (R350, R351) -/

/-- The fields of a record that its launch keeps; `slot` is its index. -/
def launchOf (p q slot ctx va : Nat) (bs : List Byte) : Launch :=
  let g := le bs 0x10 4
  { part := p, queue := q, slot := slot, ctx := ctx, recVa := va, entry := le bs 0 8, pblk := le bs 8 8
    gangs := g % 32 + 1, slices := bits g 5 3 + 1, cons := bits g 8 3, ageing := bit g 16, rdrv := bit g 17
    pword := le bs 0x14 4, ngroups := le bs 0x18 4, fpctl := le bs 0x1C 4, utvec := le bs 0x20 8, cctr := le bs 0x48 8
    tiles := le bs 0x50 8 }

/-- The resident ring that a partition word leaves (01 R17). -/
def ringOf (pword gangs : Nat) : Int := ((pword % 256 * 65536 / (128 * gangs) : Nat) : Int) - 16

/-- A partition word is legal (11 R236; 01 R17). -/
def pwordLegal (w gangs : Nat) : Bool :=
  let stack := w % 256
  let spad := bits w 8 8
  let park := bits w 16 8
  w / 2 ^ 24 == 0 && decide (1 ≤ stack) && decide (stack ≤ 24) && decide (1 ≤ spad) && decide (spad ≤ 24) && decide (park ≤ 24)
    && decide (stack + spad + park ≤ 24) && decide (ringOf w gangs ≥ 48)

/-- The first failing check of R351, but for what must be read. -/
def State.recordReason (s : State) (l : Launch) (bs : List Byte) : Option Nat :=
  let g := le bs 0x10 4
  let tcnt := le bs 0x58 8
  let high (o : Nat) : Bool := le bs (o + 7) 1 != 0
  if high 0 || high 8 || high 0x20 || bits g 11 5 != 0 || g / 2 ^ 18 != 0 || decide (l.cons ≥ 5) || l.fpctl / 32 != 0
    || le bs 0x68 8 != 0 || le bs 0x78 8 != 0 || (!l.rdrv && (l.tiles != 0 || tcnt != 0)) then some 1
  else if l.entry % 4 ≠ 0 ∨ l.pblk % 64 ≠ 0 ∨ l.utvec % 4 ≠ 0 ∨ le bs 0x28 8 % 8 ≠ 0 ∨ le bs 0x38 8 % 8 ≠ 0 ∨ l.cctr % 8 ≠ 0
    ∨ l.tiles % 16 ≠ 0 ∨ tcnt % 4 ≠ 0 then some 2
  else if (l.ngroups = 0) ≠ (l.rdrv = true) ∨ (l.rdrv ∧ l.cons ≠ 0) ∨ (l.cons ≠ 0 ∧ l.ngroups % l.cons ≠ 0) then some 3
  else if ¬ pwordLegal l.pword l.gangs then some 4
  else if (s.part l.part).consorts = 0 then some 5
  else none

/-- The dependences of a record: addresses and targets. -/
def depsOf (bs : List Byte) : List (Nat × Nat) :=
  [(le bs 0x28 8, le bs 0x30 8), (le bs 0x38 8, le bs 0x40 8)].filter fun d => d.1 != 0

/-! ### Status, counters and retirement (R353 to R355) -/

/-- Writes the status words that wait, in order (R354). -/
def flushStats (s : State) (k : Nat) : (fuel : Nat) → State
  | 0 => s
  | f + 1 =>
    let l := s.launch k
    match l.stats, (if s.queueParked l.part l.queue then some 0 else l.statWait) with
    | (st, det) :: rest, none =>
      match s.lnPlaces l.ctx (l.recVa + 0x70) 8 true with
      | .ok ps =>
        if ¬ (s.part l.part).linked ∧ ps.any (fun q => isHost q.1) then s
        else
          let refused := ps.any fun q => s.refusedByPoison q.1 q.2 || s.unreachable q.1
          let s := s.setLaunch k { l with stats := rest }
          let s := if refused then s.postLauncher l.part l.queue l.ctx 1 (l.recVa + 0x70) cPoison 0 (.miss false)
            else match ps with
              | (a, _) :: _ => (s.setNum a 4 st).setNum (a + 4) 4 det
              | [] => s
          flushStats s k f
      | .error (va, .miss m) =>
        let (s, seq) := s.postEngineMiss l.part l.ctx va 2 m { queue := some l.queue }
        s.setLaunch k { s.launch k with statWait := some seq }
      | .error (va, r) =>
        let s := s.setLaunch k { l with stats := rest }
        let reason := match r with
          | .deny n _ _ => n
          | _ => 0
        flushStats (s.postLauncher l.part l.queue l.ctx 1 va cAccess reason r) k f
    | _, _ => s

/-- Makes the counter additions that wait, in order, as AADD does (R355): the root port of host memory may refuse one (07 R168). -/
def flushAdds (s : State) (k : Nat) : (fuel : Nat) → State
  | 0 => s
  | f + 1 =>
    let l := s.launch k
    match l.adds, (if s.queueParked l.part l.queue then some 0 else l.addWait) with
    | (va, n, own) :: rest, none =>
      let failed (s : State) (code reason : Nat) (r : Xl) : State :=
        (s.setLaunch k { l with adds := rest, addFailed := l.addFailed || own }).postLauncher l.part l.queue l.ctx 2 va code reason r
      match s.xlateBy [] l.ctx va 8 true with
      | .ok pa _ =>
        if isHost pa ∧ ¬ (s.part l.part).linked then s
        else if isHost pa ∧ Config.unsupported s.free pa then flushAdds (failed s.tick1 cAccess 6 (.miss false)) k f
        else if s.poisoned pa 8 ∨ s.unreachable pa then flushAdds (failed s cPoison 0 (.miss false)) k f
        else
          let s := if isHost pa then s.tick1 else s
          flushAdds ((s.setLaunch k { l with adds := rest }).setNum pa 8 ((s.num pa 8 + n) % 2 ^ 64)) k f
      | .miss m =>
        let (s, seq) := s.postEngineMiss l.part l.ctx va 2 m { queue := some l.queue }
        s.setLaunch k { s.launch k with addWait := some seq }
      | .deny r pg pv => flushAdds (failed s cAccess r (.deny r pg pv)) k f
    | _, _ => s

/-- The launch takes a status, which is written (R354). -/
def State.launchStatus (s : State) (k st det : Nat) : State :=
  let l := s.launch k
  s.setLaunch k { l with status := st, detail := det, stats := l.stats ++ [(st, det)] }

/-- A launch has reached its final status, and every addition and status write has been made. -/
def Launch.over (l : Launch) : Bool := decide (l.status ≥ 3) && l.stats.isEmpty && l.adds.isEmpty

/-- A launch whose queue has been bound anew leaves nothing behind once it is over. -/
def State.forgetDetached (s : State) (k : Nat) : State :=
  let l := s.launch k
  if l.detached ∧ l.over then
    let x := s.queue l.part l.queue
    ({ s with launches := del s.launches k } : State).setQueue l.part l.queue { x with cur := if x.cur = some k then none else x.cur }
  else s

/-- Retired slots: cons moves past every slot whose launch is final, in slot order, and is written to the header (R349). -/
def retireSlots (s : State) (p q : Nat) : (fuel : Nat) → State
  | 0 => s
  | f + 1 =>
    let k := s.queue p q
    match s.launchAt p q k.cons with
    | some (n, l) =>
      if l.over then
        let cons := (k.cons + 1) % 2 ^ 32
        let s := { s with launches := del s.launches n }
        let s := s.setQueue p q { k with
          cons := cons, cur := if k.cur = some n then none else k.cur, dispatch := if k.dispatch = k.cons then cons else k.dispatch
          depMet := k.depMet && k.dispatch != k.cons, consDue := true }
        retireSlots (s.writeCons p q) p q f
      else s
    | none => s

/-- Brings a launch forward: its final status once it places no more and its groups have finished, after the additions
for the groups never placed (R353, R354). Log entry 57, DEDUCED. -/
def State.launchSettle (s : State) (k : Nat) : State :=
  let l := s.launch k
  let done := decide (l.next ≥ l.ngroups) || l.ending.isSome
  let s :=
    if l.status ≥ 3 ∨ l.closing.isSome ∨ ¬ done then s
    else if l.placed > l.finished then (if l.status = 1 then s.launchStatus k 2 0 else s)
    else
      let rest := l.ngroups - l.placed
      let adds := if rest = 0 ∨ l.cctr = 0 then [] else [(l.cctr, rest, true)]
      s.setLaunch k { l with adds := l.adds ++ adds, closing := some (l.ending.getD (3, 0)) }
  let s := flushAdds s k ((s.launch k).adds.length + 1)
  let l := s.launch k
  let s := match l.closing with
    | some (st, det) =>
      if l.adds.isEmpty then
        let (st, det) := if st = 3 ∧ l.addFailed then (6, 10) else (st, det)
        (s.setLaunch k { l with closing := none }).launchStatus k st det
      else s
    | none => s
  let s := flushStats s k ((s.launch k).stats.length + 1)
  let l := s.launch k
  retireSlots (s.forgetDetached k) l.part l.queue 4096

/-- A launch places no more groups and will end with a status, which one that was about to be done takes too, whatever end it had
before it. -/
def State.launchClose (s : State) (k st det : Nat) : State :=
  let l := s.launch k
  (s.setLaunch k { l with ending := some (st, det), closing := l.closing.map fun _ => (st, det) }).launchSettle k

/-- The same, but a launch that is about to end keeps its end. Log entry 56, DEDUCED. -/
def State.launchEnd (s : State) (k st det : Nat) : State :=
  let e := (s.launch k).ending.getD (st, det)
  s.launchClose k e.1 e.2

/-- The fault ring of a partition is served (18 R376): what waited for its records goes on. -/
def State.ringTurn (s : State) (p : Nat) : State :=
  let s := (s.serveRing p).settleAllOwed
  ((s.launches.filter fun (l : Nat × Launch) => l.2.part == p).map Prod.fst).foldl State.launchSettle s

/-! ### Dispatch and dependences (R349, R351, R356) -/

/-- The next record of a queue in its slot: eligible with its bytes, or not. Log entry 19, DEDUCED. -/
def State.nextRecord (s : State) (p q : Nat) : LnRes :=
  let k := s.queue p q
  let va := k.slotVa k.dispatch
  match s.lnRead p k.ctx va 128 with
  | .got bs => if le bs 0x60 4 = k.dispatch then .got bs else .held
  | r => r

/-- The queue may look at its next record: it is on, waits for nothing, a record is there, and the launch before it has
handled every group. -/
def State.queueReady (s : State) (p q : Nat) : Bool :=
  let k := s.queue p q
  let before := match k.cur with
    | some n => let l := s.launch n; decide (l.next ≥ l.ngroups) || l.ending.isSome || decide (l.status ≥ 3)
    | none => true
  (s.part p).live && k.bound && k.on && !k.fresh && k.fault.isNone && k.hfault.isNone && !s.queueParked p q && !k.stuck && before
    && decide (ahead k.dispatch k.prod ≠ 0) && decide (ahead k.dispatch k.prod < 2 ^ 31) && (s.ctx k.ctx).state == .resident

/-- What a failed read of a queue's record does: it waits, or is seen as not eligible until a doorbell (R349, R352). -/
def State.recordFail (s : State) (p q : Nat) : LnRes → State
  | .miss va m => s.queueMiss p q va m
  | .bad va c r x =>
    let k := s.queue p q
    (s.setQueue p q { k with stuck := true }).postLauncher p q k.ctx 4 va c r x
  | _ => s

/-- A slot whose record was cancelled before dispatch is passed. -/
def State.passCancelled (s : State) (p q : Nat) : Option State :=
  let k := s.queue p q
  if (s.launchAt p q k.dispatch).isSome then
    some (s.setQueue p q { k with dispatch := (k.dispatch + 1) % 2 ^ 32, depMet := false })
  else none

/-- DEPENDENCE_POLL: the launcher writes the cons that is due, reads a header that is due, or the counters of the next record (R348, R356). A counter that
cannot be read, or whose address is misaligned, leaves the record to be refused at dispatch (log entry 19, DEDUCED). -/
def execDependencePoll (p q : Nat) (s : State) : Outcome State Fault Refusal :=
  let s := s.writeCons p q
  if s.headerDue p q then .next (s.readHeader p q)
  else if ¬ s.queueReady p q then .next s
  else match s.nextRecord p q with
    | .got bs =>
      let k := s.queue p q
      let reads := ((depsOf bs).filter fun d => d.1 % 8 == 0).map fun d => (s.lnRead p k.ctx d.1 8, d.2)
      match reads.findSome? fun r => match r.1 with | .miss va m => some (va, m) | _ => none with
      | some (va, m) => .next (s.queueMiss p q va m)
      | none =>
        let met := reads.all fun r => match r.1 with
          | .got b => decide (fromBytes b ≥ r.2)
          | .bad _ _ _ _ => true
          | _ => false
        .next (s.setQueue p q { k with depMet := met })
    | r => .next (s.recordFail p q r)

/-- The launch that a dispatched record becomes. -/
def State.beginLaunch (s : State) (p q : Nat) (l : Launch) : State × Nat :=
  let n := fresh s.launches
  let k := s.queue p q
  let s := s.setLaunch n l
  (s.setQueue p q { k with dispatch := (k.dispatch + 1) % 2 ^ 32, depMet := false, cur := some n }, n)

/-! ### Placing (R213, R214, R353, R357, R358, R359; 11 R237, R238) -/

/-- The live groups of a core. -/
def State.coreGroups (s : State) (c : Nat) : List (Nat × Group) := s.groups.filter fun p => p.2.live && p.2.core == c

def Group.share (g : Group) : Nat := g.stack + g.spad + g.parkShare

/-- The lowest free gang slots of a core. -/
def State.freeSlots (s : State) (c : Nat) : List Nat :=
  (List.range 32).filter fun i => !s.gangs.any fun p => p.2.live && p.2.core == c && p.2.sched.slot == i

/-- The core can take a group of the launch now. -/
def State.coreTakes (s : State) (l : Launch) (c : Nat) : Bool :=
  let gs := (s.coreGroups c).map (·.2)
  bit (s.part l.part).consorts (c / 4) && (gs.all fun g => g.ctx == l.ctx) && decide (gs.length < 8)
    && decide (l.gangs ≤ (s.freeSlots c).length)
    && decide (gs.foldl (fun n g => n + g.share) 0 + (l.pword % 256 + bits l.pword 8 8 + bits l.pword 16 8) ≤ 24)

/-- The cores that a launch's next group, or consort, takes when it is placed at core `c`. -/
def Launch.coresAt (l : Launch) (c : Nat) : List Nat := if l.cons = 0 then [c] else (List.range l.cons).map (4 * (c / 4) + ·)

/-- The launch still has a group to place. -/
def Launch.placing (l : Launch) : Bool := l.status == 1 && decide (l.next < l.ngroups) && l.ending.isNone

/-- The launch of a queue that has a group to place. -/
def State.placingOf (s : State) (p q : Nat) : Option (Nat × Launch) :=
  match (s.queue p q).cur with
  | some n =>
    let l := s.launch n
    if l.placing ∧ (s.queue p q).fault.isNone ∧ ¬ s.queueParked p q ∧ (s.ctx l.ctx).state = .resident then some (n, l) else none
  | none => none

/-- The dependences of a queue's next record are met, as the last poll found. -/
def Queue.depsMet (k : Queue) (bs : List Byte) : Bool := (depsOf bs).isEmpty || k.depMet

/-- The launch that a queue's next record would become: eligible, legal, its dependences met (R358). -/
def State.nextLaunch (s : State) (p q : Nat) : Option Launch :=
  let k := s.queue p q
  if ¬ s.queueReady p q ∨ (s.launchAt p q k.dispatch).isSome then none
  else match s.nextRecord p q with
    | .got bs =>
      let l := launchOf p q k.dispatch k.ctx (k.slotVa k.dispatch) bs
      if (s.recordReason l bs).isNone ∧ k.depsMet bs then some l else none
    | _ => none

/-- The launch whose group a queue would place next: the one that is placing, else the next record's. -/
def State.headOf (s : State) (p q : Nat) : Option Launch :=
  match s.placingOf p q with
  | some (_, l) => some l
  | none => s.nextLaunch p q

/-- A queue is ready: its next group fits somewhere now (R358). -/
def State.fits (s : State) (p q : Nat) : Bool :=
  match s.headOf p q with
  | some l => (List.range 256).any fun c => (l.coresAt c).all (s.coreTakes l)
  | none => false

/-- One queue comes before another (R358): reserving ones by their reservation, then priority, then the grant. -/
def Queue.before (a b : Queue) (i j : Nat) : Bool :=
  match a.reserving, b.reserving with
  | some x, some y => if x ≠ y then decide (x < y) else decide (i < j)
  | some _, none => true
  | none, some _ => false
  | none, none =>
    if a.prio ≠ b.prio then decide (a.prio < b.prio)
    else match a.granted, b.granted with
      | none, some _ => true
      | some _, none => false
      | some x, some y => if x ≠ y then decide (x < y) else decide (i < j)
      | none, none => decide (i < j)

/-- The queue gets the grant, of which the launcher makes one in a cycle: it is ready, no other ready queue comes before it, and no reserving queue of its priority or
a higher one holds it back (R358, R359). -/
def State.granted (s : State) (p q : Nat) : Bool :=
  let k := s.queue p q
  (s.part p).grantAt != some s.clock && s.fits p q && (List.range 64).all fun j =>
    let o := s.queue p j
    (j == q || !s.fits p j || k.before o q j) && (j == q || k.reserving.isSome || o.reserving.isNone || decide (k.prio < o.prio))

/-- How many groups a record makes: as it says, or by its tile count (R353). -/
def State.recordCount (s : State) (p x : Nat) (l : Launch) (bs : List Byte) : LnRes :=
  if l.rdrv then s.lnRead p x (le bs 0x58 8) 4 else .got (toBytes 4 l.ngroups)

/-- LAUNCH_DISPATCH: an eligible record whose dependences are met is checked; it is refused, or begins placing once a group of it
can be placed (R349, R351). -/
def execLaunchDispatch (p q : Nat) (s : State) : Outcome State Fault Refusal :=
  if ¬ s.queueReady p q then .next s
  else match s.passCancelled p q with
  | some t => .next t
  | none =>
    match s.nextRecord p q with
    | .got bs =>
      let k := s.queue p q
      let l := launchOf p q k.dispatch k.ctx (k.slotVa k.dispatch) bs
      let refuse (s : State) (l : Launch) (reason : Nat) : Outcome State Fault Refusal :=
        let (s, n) := s.beginLaunch p q l
        .next (s.launchEnd n 4 reason)
      if ¬ k.depsMet bs then .next s
      else
        let dep := (depsOf bs).findSome? fun d => match s.lnRead p k.ctx d.1 8 with
          | .bad _ _ _ x => some x
          | _ => none
        let reason := (s.recordReason l bs).or (dep.map fun _ => 8)
        match s.recordCount p k.ctx l bs with
        | .miss va m => .next (s.queueMiss p q va m)
        | .held => .next s
        | .bad _ _ _ x => refuse (s.denyLauncher p q k.ctx x) { l with ngroups := 0 } (reason.getD 8)
        | .got c =>
          let l := { l with ngroups := fromBytes c }
          match reason with
          | some r => refuse (if r = 8 then (dep.map (s.denyLauncher p q k.ctx)).getD s else s) l r
          | none =>
            if l.ngroups = 0 then
              let (s, n) := s.beginLaunch p q l
              .next (s.launchEnd n 3 0)
            else if ¬ s.fits p q then .next s
            else match (if l.rdrv then .got [] else s.lnRead p k.ctx l.pblk 128) with
              | .miss va m => .next (s.queueMiss p q va m)
              | .held => .next s
              | .bad _ _ _ x => refuse (s.denyLauncher p q k.ctx x) l 8
              | .got b =>
                let l := { l with params := if l.rdrv then [] else (List.range 16).map fun i => w64 (le b (8 * i) 8) }
                let (s, n) := s.beginLaunch p q l
                .next ((s.launchStatus n 1 0).launchSettle n)
    | r => .next (s.recordFail p q r)

/-- Memory and poison of a range are forgotten: it reads as never written. -/
def State.clearRange (s : State) (a n : Nat) : State :=
  let out (x : Nat) : Bool := decide (x < a) || decide (a + n ≤ x)
  { s with
    mem := s.mem.filter fun p => out p.1, poison := s.poison.filter fun p => out (markPlace p.1)
    inked := s.inked.filter fun p => out (4096 * p.1) }

/-- A core begins to serve a context: everything it held for another is cleared (11 R238). -/
def State.serve (s : State) (c x : Nat) : State :=
  if (s.core c).ctx = some x then s
  else
    let k := s.core c
    let s := s.setCore c { ctx := some x, backoff := k.backoff, clockSeen := k.clockSeen }
    { (s.clearRange (bufBase c) 0x40000) with tlb := del s.tlb c, axis := del s.axis c }

/-- A gang of a placed group (R353, R367): the lanes from `rows` on have exited. -/
def newGang (l : Launch) (grp c j slot clock rows : Nat) (runtime : Bool) : Gang :=
  let pres := maskOf fun i => decide (i / 4 < l.slices)
  let live := maskOf fun i => decide (i / 4 < l.slices) && decide (i < rows)
  { group := grp, core := c, gangid := j, nslices := l.slices, live := true
    slices := List.replicate l.slices { pc := pcMake l.entry 0, last := clock }
    path := live, exited := pres &&& ~~~live
    sys := { fpctl := w32 l.fpctl, utvec := w64 l.utvec }, level := b2n runtime
    sched := { slot := slot, born := clock } }

/-- Places one group of a launch. Log entry 77, DEDUCED. -/
def State.placeGroup (s : State) (n grp c pos : Nat) (peers : List Nat) (ps : List W64) (rows : Nat) : State :=
  let l := s.launch n
  let s := (s.serve c l.ctx).emptyCache c
  let slots := s.freeSlots c
  let g : Group :=
    { live := true, launch := some n, ctx := l.ctx, part := l.part, core := c, groupid := l.next + pos, ngangs := l.gangs, nslices := l.slices
      pos := pos, csize := peers.length, peers := peers, ageing := l.ageing, stack := l.pword % 256, spad := bits l.pword 8 8
      parkShare := bits l.pword 16 8
      wreg := (ps.zipIdx).foldl (fun m (w, i) => set 0 m i w) [] }
  let s := s.setGroup grp g
  let base := s.names
  let s := { s with names := base + l.gangs }
  let s := (List.range l.gangs).foldl (fun s j =>
    s.setGang (base + j) (newGang l grp c j (nth slots j) s.clock rows (s.ctx l.ctx).runtime)) s
  s.setBar (spadBase grp) (Bar.init l.gangs)

/-- What the next group of a record-driven launch takes from its tile record: parameters and rows, a record to skip, or one
that ends the launch (R366). -/
inductive Tile where
  | place (ps : List W64) (rows : Nat)
  | skip
  | bad
  deriving DecidableEq, Repr

/-- The parameters of a tile's group: its block with w13 to w15 replaced. -/
def tileParams (blk t : List Byte) : List W64 :=
  ((List.range 13).map fun i => w64 (le blk (8 * i) 8)) ++ [w64 (le t 4 2), w64 (le t 0 4), w64 (le t 6 1)]

/-- Reads the tile record of the next group and its block, each once; the launch keeps what has been read (R353). -/
def State.readTile (s : State) (p : Nat) (l : Launch) : (LnRes ⊕ Tile) × Launch :=
  match (match l.tile with | some t => LnRes.got t | none => s.lnRead p l.ctx (l.tiles + 16 * l.next) 16) with
  | .got t =>
    let l := { l with tile := some t }
    let i := le t 8 2
    if le t 7 1 ≠ 0 ∨ le t 10 2 ≠ 0 ∨ le t 12 4 ≠ 0 ∨ le t 6 1 > 32 then (.inr .bad, l)
    else if le t 6 1 = 0 then (.inr .skip, l)
    else match (match find l.blocks i with | some b => LnRes.got b | none => s.lnRead p l.ctx (l.pblk + 128 * i) 128) with
      | .got b => (.inr (.place (tileParams b t) (le t 6 1)), { l with blocks := put l.blocks i b })
      | r => (.inl r, l)
  | r => (.inl r, l)

/-- GROUP_PLACE: the granted queue's next group goes to core `c`, or its next consort to that core's consort. -/
def execGroupPlace (p q c : Nat) (s : State) : Outcome State Fault Refusal :=
  match s.placingOf p q with
  | none => .next s
  | some (n, l) =>
    if c ≥ 256 ∨ ¬ s.granted p q ∨ ¬ (l.coresAt c).all (s.coreTakes l) then .next s
    else
      let (tile, l) : (LnRes ⊕ Tile) × Launch := if l.rdrv then s.readTile p l else (.inr (.place l.params 32), l)
      let s := s.setLaunch n l
      match tile with
      | .inl (.miss va m) => .next (s.queueMiss p q va m)
      | .inl (.bad _ _ _ x) =>
        let s := s.denyLauncher p q l.ctx x
        .next (if l.placed = 0 then s.launchEnd n 4 8 else s.launchEnd n 6 8)
      | .inl _ => .next s
      | .inr .bad => .next (s.launchEnd n 6 7)
      | .inr .skip => .next ((s.setLaunch n { l with next := l.next + 1, tile := none }).launchSettle n)
      | .inr (.place ps rows) =>
        let cs := l.coresAt c
        let base := s.names
        let s := { s with names := base + cs.length }
        let peers := if l.cons = 0 then [] else (List.range l.cons).map (base + ·)
        let s := (cs.zipIdx).foldl (fun s (core, i) => s.placeGroup n (base + i) core i peers ps rows) s
        let s := s.setLaunch n { l with next := l.next + cs.length, tile := none, placed := l.placed + cs.length }
        let k := s.queue p q
        let s := s.setQueue p q { k with granted := some s.clock, since := none, reserving := none }
        let s := s.setPart p { s.part p with grantAt := some s.clock }
        .next (s.launchSettle n)

/-- QUEUE_RESERVING: a queue has had a group to place for 65,536 cycles and no core could take it (R359). -/
def State.reserve (s : State) (p q : Nat) : State :=
  let k := s.queue p q
  match k.since with
  | some t =>
    if k.reserving.isNone ∧ s.clock ≥ t + 65536 ∧ (s.headOf p q).isSome ∧ ¬ s.fits p q then
      s.setQueue p q { k with reserving := some s.clock }
    else s
  | none => s

def execQueueReserving (p q : Nat) (s : State) : Outcome State Fault Refusal := .next (s.reserve p q)

/-- A launch queue at the end of a cycle: since when it has had a group to place and no core to take it (R359). -/
def State.queueElapse (s : State) (p q : Nat) (k : Queue) : Queue :=
  { k with since := if (s.headOf p q).isSome ∧ ¬ s.fits p q then some (k.since.getD s.clock) else none }

/-! ### Finishing (R355, R364; 05 R138) -/

/-- GANG_FINISH: no lane is left and every count is zero. The gang's bands, links and queues are free, and its EXITC value is
added before its group's completion, once every write of the gang is visible (R364). -/
def execGangFinish (g : Nat) (s : State) : Outcome State Fault Refusal :=
  let s := if (s.gang g).live ∧ (s.gang g).unexited = 0 ∧ ¬ (s.gang g).stopped then s.dropPosted g else s
  let x := s.gang g
  let c := x.counts
  if ¬ x.live ∨ x.unexited ≠ 0 ∨ x.stopped ∨ c.loads ≠ 0 ∨ c.stores ≠ 0 ∨ c.copies ≠ 0 ∨ c.tiles ≠ 0 ∨ x.page.isSome ∨ x.owed.isSome
      ∨ s.recordWaits g then .next s
  else
    let k := s.core x.core
    let s := s.setCore x.core { k with bands := k.bands.map fun b => if b.owner = some g then b.release else b }
    let mine (k : Nat) : Bool := match qkey k with
      | .port gk _ => gk == g
      | _ => false
    let rest : Store Link := s.links.filter fun (p : Nat × Link) => !mine p.1
    let s := { s with links := mapVals (fun _ l => if l.owner = some g then { l with owner := none } else l) rest }
    let s := (s.setGang g { x with live := false, sched := { x.sched with active := false } }).reveal fun v =>
      if v.gang = g then allSeats else 0
    match (s.group x.group).launch, x.exitc with
    | some n, some (va, v) =>
      let l := s.launch n
      .next ((s.setLaunch n { l with adds := l.adds ++ [(va, v, false)] }).launchSettle n)
    | _, _ => .next s

/-- What the registers of some gangs have held on a core stays in the set of later shadow registers (01 R39). -/
def Core.noteSeen (k : Core) (gs : List Gang) : Core :=
  { k with seen := gs.foldl (fun m g => (g.regs.seen ++ vals g.regs.vec).foldl (fun m x => noteValue x m) m) k.seen }

/-- Everything that stood for a group and its gangs is gone; its core has held what their registers held. -/
def State.removeGroup (s : State) (grp : Nat) : State :=
  let mine (g : Gang) : Bool := g.group == grp
  let c := (s.group grp).core
  let s := s.setCore c ((s.core c).noteSeen ((s.gangs.filter fun p => mine p.2).map (·.2)))
  let s := s.clearRange (spadBase grp) (2 ^ 24)
  let alone := (s.group grp).peers.all fun t => t == grp || !(s.group t).live
  let s := s.freeStreams fun c => c.group == grp
  { s with
    gangs := s.gangs.filter fun p => !mine p.2
    groups := del s.groups grp
    rounds := if alone then del s.rounds (s.roundHome grp) else s.rounds
    bulks := s.bulks.filter fun p => p.2.group != grp
    credits := s.credits.filter fun c => !(decide (spadBase grp ≤ c.obj) && decide (c.obj < spadBase grp + 2 ^ 24))
    links := del s.links (cruKey grp) }

/-- GROUP_FINISH: every gang has finished. Its stream contexts stop and are free, and the counter gets its 1 once every write of
the group, on every path, is visible (R355). -/
def execGroupFinish (grp : Nat) (s : State) : Outcome State Fault Refusal :=
  match find s.groups grp with
  | none => .next s
  | some g =>
    if s.gangs.any (fun p => p.2.group == grp && p.2.live) ∨ (s.ctx g.ctx).state ≠ .resident then .next s
    else
      let s := (s.reveal fun v => if v.group = grp then allSeats else 0).removeGroup grp
      match g.launch with
      | some n =>
        let l := s.launch n
        let adds := if l.cctr = 0 then [] else [(l.cctr, 1, true)]
        .next ((s.setLaunch n { l with finished := l.finished + 1, adds := l.adds ++ adds }).launchSettle n)
      | none => .next s

/-! ### Launch instructions (R360 to R364) -/

/-- The queue of the gang's partition, where it is enabled. -/
def State.openQueue (s : State) (e : Issue) (q : Nat) : Option Queue :=
  let k := s.queue (s.partOf e.g) q
  if q < 64 ∧ k.bound ∧ k.on then some k else none

/-- Copies a pushed record into its slot, poison and all, with its own seq and status. -/
def State.pushRecord (s : State) (gk flat i : Nat) (ps : List (Nat × Nat)) : State :=
  let bs := s.coreBytes gk flat 128
  let bs := bs.take 0x60 ++ toBytes 4 i ++ (bs.drop 0x64).take 12 ++ toBytes 4 0 ++ bs.drop 0x74
  (ps.foldl (fun (r : State × Nat) q =>
    let t := (r.1.engWrite 0 0 gk q.1 ((bs.drop r.2).take q.2)).rangeSeen gk q.1 q.2
    let bad := (List.range (q.2 / 8)).filter fun w => s.poisoned (flat + r.2 + 8 * w) 8
    (bad.foldl (fun t w => t.markPoison (protAt (q.1 + 8 * w)) true) t, r.2 + q.2)) (s, 0)).1

def execLqpush (d a : BitVec 6) (q : BitVec 6) : State → Outcome State Fault Refusal :=
  issue (.lqpush d a q) fun e s =>
    let answer (s : State) (x : Nat) : State := (s.writeAll e d.toNat (w32 x)).advance e.gk e.ss
    let p := s.partOf e.g
    if e.act = 0 then s.advance e.gk e.ss
    else if e.low a % 64 ≠ 0 then s.precise e (alignFlt (e.low a))
    else match s.localRange e.g.group (e.low a) 128 with
      | .bad r => s.precise e (scratchFlt (e.low a) r)
      | .at_ flat _ off =>
        if off ≥ 0x180000 then s.precise e (scratchFlt (e.low a) 4)
        else match s.openQueue e q.toNat with
          | none => answer s 0x80000002
          | some k =>
            if ¬ e.g.counts.quiet then s.stall e.gk e.ss .quiet
            else if k.fault.isSome ∨ k.hfault.isSome then s.stall e.gk e.ss (.miss q.toNat)
            else match s.lnPlaces k.ctx k.header 8 true with
              | .error (va, .miss m) => (s.queueMiss p q.toNat va m).stall e.gk e.ss (.miss q.toNat)
              | .error (va, r) =>
                let s := s.setQueue p q.toNat { k with on := false }
                answer (s.postLauncher p q.toNat k.ctx 3 va cAccess (match r with | .deny n _ _ => n | _ => 0) r) 0x80000002
              | .ok hs =>
                let h := (hs.map (·.1)).headD 0
                let i := s.num h 4
                let out (s : State) (qs : List (Nat × Nat)) : State := qs.foldl (fun s q => s.meter p (corePort e.g.core) q.2 q.1) s
                if isHost h ∧ ¬ (s.part p).linked then s.stall e.gk e.ss .link
                else if s.poisoned h 8 then
                  answer ((s.setQueue p q.toNat { k with on := false }).postLauncher p q.toNat k.ctx 3 k.header cPoison 0 (.miss false)) 0x80000002
                else if ahead k.cons i ≥ 2 ^ k.lsize then answer ((out s hs).readHeader p q.toNat) 0x80000001
                else match s.lnPlaces k.ctx (k.slotVa i) 128 true with
                  | .error (va, .miss m) => (s.queueMiss p q.toNat va m).stall e.gk e.ss (.miss q.toNat)
                  | .error (va, r) =>
                    let s := ((out s hs).storesSeen e.gk).setNum h 4 ((i + 1) % 2 ^ 32)
                    answer ((s.readHeader p q.toNat).postLauncher p q.toNat k.ctx 4 va cAccess (match r with | .deny n _ _ => n | _ => 0) r) i
                  | .ok ps =>
                    if ps.any (fun q => isHost q.1) ∧ ¬ (s.part p).linked then s.stall e.gk e.ss .link
                    else
                    let s := (((out (out s hs) ps).storesSeen e.gk).setNum h 4 ((i + 1) % 2 ^ 32)).pushRecord e.gk flat i ps
                    answer (s.readHeader p q.toNat) i

def execLqstat (d : BitVec 6) (sel : BitVec 2) (q : BitVec 6) : State → Outcome State Fault Refusal :=
  issue (.lqstat d sel q) fun e s =>
    let x := match s.openQueue e q.toNat with
      | none => 0
      | some k => match sel.toNat with
        | 0 => 2 ^ 31 + k.prio * 2 ^ 28 + k.lsize * 2 ^ 12
        | 1 => k.cons
        | 2 => k.prod
        | _ => k.dispatch
    (s.writeAll e d.toNat (w32 x)).advance e.gk e.ss

/-- Every gang of a group stops at its next boundary and exits; its residual queue is discarded, and the faults that it holds are
left to be reported (R363; 05 R439). -/
def Gang.end_ (g : Gang) : Gang :=
  let held := g.work.posted.filterMap (·.entry) ++ (g.work.faulted.map fun f => f.1).toList
  let lost := ((g.work.residuals ++ (g.page.bind (·.entry)).toList).filter fun e => (desc e.instr).cnt == 1).length
  let (kept, gone) := g.work.stores.partition fun q =>
    q.entry.waits.isEmpty && q.fault.isNone || held.any fun e => e.id == q.entry.id
  { g with
    path := 0, exited := g.present
    slices := g.slices.map fun x => { x with reexec := none, rep := none, stall := none, wait := none }
    work := { g.work with residuals := [], stores := kept }
    counts := { g.counts with loads := g.counts.loads - lost, stores := g.counts.stores - gone.length }
    page := none, owed := none }

/-- LQCANCEL by the supervisor of its own launch (R363). The group's copies stop (11 R271; log entry 45, DEDUCED). -/
def State.endOwn (s : State) (e : Issue) : State :=
  let s := { s with
    gangs := mapVals (fun _ g => if g.group = e.g.group then g.end_ else g) s.gangs
    bulks := mapVals (fun _ (b : Bulk) =>
      if b.group = e.g.group ∧ ¬ b.todo.isEmpty then { b with ended := some (3, 0, 0), todo := [], fault := none } else b) s.bulks }
  let s := (s.gangs.filter fun p => p.2.group == e.g.group).foldl (fun s p => s.dropPosted p.1) s
  match (s.group e.g.group).launch with
  | some n =>
    let l := s.launch n
    if l.status ≥ 3 then s else (s.setLaunch n { l with ending := some (6, 9) }).launchSettle n
  | none => s

/-- LQCANCEL (R363): a record not yet dispatched becomes a launch that has ended; one that is placing places no more. -/
def execLqcancel (d a b : BitVec 6) : State → Outcome State Fault Refusal :=
  issue (.lqcancel d a b) fun e s =>
    let answer (s : State) (x : Nat) : State := (s.writeAll e d.toNat (w32 x)).advance e.gk e.ss
    let q := e.low a
    let i := e.low b
    let p := s.partOf e.g
    if e.act = 0 then s.advance e.gk e.ss
    else if q = 0xFFFFFFFF ∧ e.g.level = 1 then
      let st := match (s.group e.g.group).launch with
        | some n => (s.launch n).status
        | none => 0
      (answer s (2 ^ 31 + st)).endOwn e
    else match s.openQueue e q with
      | none => answer s (2 ^ 30)
      | some k =>
        if ahead k.cons i ≥ ahead k.cons k.prod then answer s (2 ^ 30)
        else match s.launchAt p q i with
          | some (n, l) =>
            if l.status ≥ 3 then answer s (l.status % 8) else answer (s.launchClose n 5 0) (2 ^ 31 + l.status)
          | none =>
            if k.fault.isSome ∨ k.hfault.isSome then s.stall e.gk e.ss (.miss q)
            else match s.lnRead p k.ctx (k.slotVa i) 128 with
            | .miss va m => (s.queueMiss p q va m).stall e.gk e.ss (.miss q)
            | .held => s.stall e.gk e.ss .link
            | .bad va c r x => answer (s.postLauncher p q k.ctx 4 va c r x) (2 ^ 30)
            | .got bs =>
              if le bs 0x60 4 ≠ i then answer s (2 ^ 30)
              else
                let l := launchOf p q i k.ctx (k.slotVa i) bs
                let cancel (s : State) (count : Nat) : State :=
                  let n := fresh s.launches
                  answer ((s.setLaunch n { l with ngroups := count }).launchEnd n 5 0) (2 ^ 31 + le bs 0x70 4 % 8)
                match s.recordCount p k.ctx l bs with
                | .miss va m => (s.queueMiss p q va m).stall e.gk e.ss (.miss q)
                | .held => s.stall e.gk e.ss .link
                | .bad _ _ _ x => cancel (s.denyLauncher p q k.ctx x) 0
                | .got t => cancel s (fromBytes t)

/-- EXITC (R364): the signal is recorded, then the lanes exit as under EXIT. -/
def execExitc (a b : BitVec 6) : State → Outcome State Fault Refusal :=
  issue (.exitc a b) fun e s =>
    let l := lowest e.act
    let va := (e.g.readPair l a.toNat).toNat
    if e.act = 0 then s.advance e.gk e.ss
    else if e.g.residualCount ≠ 0 ∨ e.g.work.faulted.isSome then s.stall e.gk e.ss .exitWait
    else if e.g.exitc.isSome then s.badOperand e 1 a.toNat
    else if va % 8 ≠ 0 then s.fail e.gk e.ss (alignFlt va) e.path 0 e.pc
    else match s.xlate e.g.core (s.ctxOf e.g) va 8 true with
      | .ok _ _ =>
        let s := s.fillTlb e.g.core (s.ctxOf e.g) va
        let g := s.gang e.gk
        s.setGang e.gk ({ g with exitc := some (va, (e.g.readV l b.toNat).toNat) }.exitLanes e.ss e.path s.clock)
      | r => s.fail e.gk e.ss ((xlFlt va 3 r).getD {}) e.path 0 e.pc

/-! ### Budgets (R365) -/

/-- The balance with which a period begins. -/
def nextBalance (budget : Nat) (bal : Int) : Int := budget - min (max (-bal) 0) budget

/-- BUDGET_PERIOD: a period of 25,000 cycles begins, once. -/
def State.refill (s : State) (p : Nat) : State :=
  let pt := s.part p
  if pt.live ∧ s.clock / 25000 > pt.period then
    s.setPart p { pt with
      period := s.clock / 25000
      balance := (pt.budgets.zip pt.balance).map fun b => if b.1 = 0xFFFFFFFF then b.2 else nextBalance b.1 b.2 }
  else s

def execBudgetPeriod (p : Nat) (s : State) : Outcome State Fault Refusal := .next (s.refill p)

end Sys2Proof.Machine
end

