-- ==== Sys2Proof/Machine/Sched.lean ====
section
/-! DEFINITION. The active set of a core (10 R215 to R223): which gangs are able to issue, why a gang is parked, entry,
displacement, starvation, the drain-stall park and the hang detector. -/

namespace Sys2Proof.Machine

open Host (Outcome)

/-! ### Who can issue (R216, R217, R219) -/

/-- What a stalled cohort waited for has come about. -/
def State.stallOver (s : State) (gk : Nat) : Stall → Bool
  | .sources rs => rs.all fun r => !((s.gang gk).pend r).on
  | .counts l st c t =>
    let n := (s.gang gk).counts
    decide (n.loads ≤ l) && decide (n.stores ≤ st) && decide (n.copies ≤ c) && decide (n.tiles ≤ t)
  | .full cls => !(s.gang gk).counts.full cls
  | .older => (s.gang gk).work.stores.isEmpty
  | .blocking qs => qs.all fun q => (s.gang gk).work.stores.all fun x => x.entry.id != q.1 || x.entry.waits.length != q.2
  | .ordered n => ((s.gang gk).work.stores.all fun x => decide (n ≤ x.entry.id) || x.fault.isSome) && !(s.gang gk).unread n
  | .lda => !(s.gang gk).ldaOut
  | .quiet => (s.gang gk).counts.quiet
  | .removal => (s.gang gk).fenced
  | .outTags rs => rs.all fun r => !((s.gang gk).pend r).tagsOut
  | .residualFull => decide ((s.gang gk).residualCount < 32)
  | .queue q => if q = 13 then !(s.gang gk).chunks.isEmpty else !(s.link (s.popKey gk q)).recv.isEmpty
  | .phase _ _ found => found
  | .settle => decide ((s.gang gk).residualCount = 0) && (s.gang gk).work.faulted.isNone && !(s.gang gk).anyPending
  | .exitWait => decide ((s.gang gk).residualCount = 0) && (s.gang gk).work.faulted.isNone
  | .room ks => s.rooms ks
  | .array n => s.arrayFits gk n
  | .window ws => ws.all fun w =>
    let c := (s.group (s.gang gk).group).entry w.1
    !c.valid || !c.touch || c.win w.2 == .present || c.win w.2 == .faulted
  | .fills k => s.fillsOver (s.gang gk).group k
  | .link => (s.part (s.partOf (s.gang gk))).linked
  | .budget cls => s.mayStart (s.partOf (s.gang gk)) cls
  | .miss q => let k := s.queue (s.partOf (s.gang gk)) q; k.fault.isNone && k.hfault.isNone
  | .flits fs => s.answered fs
  | .matrix bs t => (s.core (s.gang gk).core).bandsFree gk bs && s.arrayFits gk 1 && !s.olderClaim (s.gang gk).core t
  | .swap t => !(s.core (s.gang gk).core).swapQueued t
  | .context x => (s.ctx x).state != .stopping
  | .credit k => decide (k ≤ (s.group (s.gang gk).group).cru.length)

/-- The stalls that the active-set rules count as drain-point stalls: sources and store-queue entries that have not settled, a
drained count, a full window, and the waits that the matrix chapter names so (03 R78, R84; 07 R163; 09 R183, R195; 10 R229,
R234). -/
def Stall.drain : Stall → Bool
  | .full _ | .budget _ | .phase _ _ _ | .queue _ | .exitWait | .residualFull => false
  | _ => true

/-- Slice `i` runs and its last attempt met nothing that still stands. -/
def State.canIssue (s : State) (gk i : Nat) : Bool :=
  (s.gang gk).runs i && match ((s.gang gk).slice i).stall with
    | some r => s.stallOver gk r
    | none => true

/-- The slices whose cohorts can issue, those in a latency stall aside. -/
def State.issuable (s : State) (gk late : Nat) : List Nat :=
  (s.gang gk).sliceList.filter fun i => s.canIssue gk i && !bit late i

/-- The gang's deferred work can run, and its unit is not occupied. -/
def State.defers (s : State) (gk late : Nat) : Bool := !bit late 8 && s.deferReady gk

/-- Nothing keeps the gang from being granted at all. -/
def State.grantsOpen (s : State) (gk : Nat) : Bool :=
  let g := s.gang gk
  g.live && !g.stopped && g.page.isNone && !s.recordWaits gk && g.owed.isNone

/-- The gang can issue now (R217), budgets aside, when what `late` names is in a latency stall; a posted fault waits for none (05
R438). -/
def State.readyBut (s : State) (gk late : Nat) : Bool :=
  s.grantsOpen gk && (!(s.issuable gk late).isEmpty || s.defers gk late || (s.gang gk).postedReady)

/-- What of the gang can issue now, as a cycle that begins notes it (R217). -/
def State.canNow (s : State) (gk : Nat) : Nat :=
  if ¬ s.grantsOpen gk ∨ ¬ (s.gang gk).sched.active then 0
  else (s.issuable gk 0).foldl (fun m i => m + 2 ^ i) 0 + b2n (s.defers gk 0) * 256 + b2n (s.gang gk).postedReady * 512

/-- The gang was ready at the start of the cycle, when what `late` names is in a latency stall (R217). -/
def Sched.wasReady (x : Sched) (late : Nat) : Bool := (List.range 10).any fun i => bit x.can i && (!bit late i || i == 9)

/-- The gang can issue now (R217), budgets aside. -/
def State.ready (s : State) (gk : Nat) : Bool := s.readyBut gk 0

/-- A gang outside the active set is ready pending: able to issue, and where it parked on a full residual queue, an entry has
been freed or can run (R219, R220). Log entry 81, DEDUCED. -/
def State.readyPending (s : State) (gk : Nat) : Bool :=
  let g := s.gang gk
  s.ready gk && !g.sched.active
    && (g.sched.park != some .residual || decide (g.residualCount < 32) || s.deferReady gk || g.postedReady)

/-- The slices that run and whose stall still stands. -/
def State.stalls (s : State) (gk : Nat) : List Stall :=
  ((s.gang gk).sliceList.filter fun i => (s.gang gk).runs i).filterMap fun i => ((s.gang gk).slice i).stall

/-- The cause that parks an active gang at the end of a cycle, in the order of R219's table. -/
def State.parkCause (s : State) (gk : Nat) : Option Park :=
  let g := s.gang gk
  let st := s.stalls gk
  if s.ready gk then none
  else if st.any fun r => match r with | .phase _ _ _ => true | _ => false then some .barrier
  else if st.any fun r => match r with | .queue _ => true | _ => false then some .queue
  else if g.slices.any fun x => x.wait.isSome && x.held == 0 then some .join
  else if decide (g.unexited = 0) || st.contains .exitWait then some .exit
  else if st.contains .residualFull then some .residual
  else none

/-- Every cohort that has not issued is in a drain-point stall, and nothing can issue (R219). -/
def State.drainStalled (s : State) (gk : Nat) : Bool :=
  !s.ready gk && !(s.stalls gk).isEmpty && (s.stalls gk).all Stall.drain

/-- The gang leaves the active set as parked. -/
def State.park (s : State) (gk : Nat) (c : Park) : State :=
  let g := s.gang gk
  s.setGang gk { g with sched := { g.sched with active := false, park := some c, outside := 0, quiet := 0 } }

/-- What the end of a cycle does to an active gang. -/
def State.parkNow (s : State) (gk : Nat) : State :=
  if (s.gang gk).sched.active ∧ (s.gang gk).live ∧ ¬ (s.gang gk).stopped then
    match s.parkCause gk with
    | some c => s.park gk c
    | none => if (s.gang gk).sched.quiet ≥ 64 ∧ s.drainStalled gk then s.park gk .drain else s
  else s

/-! ### Order and the active set (R215, R220) -/

/-- Oldest first; then granted least recently; then the lower slot. -/
def Sched.older (a b : Sched) : Bool :=
  if a.born ≠ b.born then decide (a.born < b.born)
  else
    let ga := (a.grant.map (· + 1)).getD 0
    let gb := (b.grant.map (· + 1)).getD 0
    if ga ≠ gb then decide (ga < gb) else decide (a.slot < b.slot)

/-- The first of a list of gangs in an order. -/
def State.firstGang (s : State) (before : Sched → Sched → Bool) (ks : List Nat) : Option Nat :=
  ks.foldl (fun best k => match best with
    | none => some k
    | some b => if before (s.gang k).sched (s.gang b).sched then some k else some b) none

/-- The live gangs of a core, and those in its active set. -/
def State.coreGangs (s : State) (c : Nat) : List Nat := (s.gangs.filter fun p => p.2.live && p.2.core == c).map Prod.fst
def State.activeGangs (s : State) (c : Nat) : List Nat := (s.coreGangs c).filter fun k => (s.gang k).sched.active

/-- The gangs that are ready pending. -/
def State.pendingGangs (s : State) (c : Nat) : List Nat := (s.coreGangs c).filter s.readyPending

/-- A gang enters the active set and may be granted from a cycle. -/
def State.enterSet (s : State) (gk t : Nat) : State :=
  let g := s.gang gk
  s.setGang gk { g with
    sched := { g.sched with active := true, from_ := t, park := none, yielded := false, outside := 0, quiet := 0, waited := 0 } }

/-- One that left by YIELD is the youngest ready pending gang (R220). -/
def Sched.enters (a b : Sched) : Bool := if a.yielded ≠ b.yielded then b.yielded else a.older b

/-- The oldest ready pending gang enters a set with a vacancy, one gang in a cycle (R216, R220). -/
def State.enterOldest (s : State) (c : Nat) : State :=
  if (s.activeGangs c).length ≥ 8 ∨ (s.core c).entered = some s.clock then s
  else match s.firstGang Sched.enters (s.pendingGangs c) with
    | some k => (s.setCore c { s.core c with entered := some s.clock }).enterSet k (s.clock + 2)
    | none => s

/-- ACTIVE_SET_ENTRY. -/
def execActiveSetEntry (c : Nat) (s : State) : Outcome State Fault Refusal := .next (s.enterOldest c)

/-- A ready pending gang that has stayed outside a full set for 4,096 cycles displaces the youngest active gang that does not
qualify under step 1 of R218, which keeps its age and is ready pending (R220). -/
def State.displace (s : State) (c : Nat) : State :=
  let act := s.activeGangs c
  let late := (s.pendingGangs c).filter fun k => decide ((s.gang k).sched.outside ≥ 4096)
  let out := s.firstGang (fun a b => b.older a) (act.filter fun k => decide ((s.gang k).sched.waited < 4096))
  match (if act.length < 8 then none else s.firstGang Sched.older late), out with
  | some k, some v =>
    let g := s.gang v
    let s := s.setGang v { g with sched := { g.sched with active := false, outside := 0 } }
    s.enterSet k (s.clock + 3)
  | _, _ => s

/-- DISPLACEMENT. -/
def execDisplacement (c : Nat) (s : State) : Outcome State Fault Refusal := .next (s.displace c)

/-! ### Grants (R217, R218; 05 R123) -/

/-- The slice whose cohort a granted gang issues: of those able to issue, the one that waited longest; then the lowest. -/
def State.chosenSlice (s : State) (gk late : Nat) : Option Nat :=
  (s.issuable gk late).foldl (fun best i => match best with
    | none => some i
    | some b => if ((s.gang gk).slice i).last < ((s.gang gk).slice b).last then some i else some b) none

/-- The unit that an instruction needs (R217; 04 R94). -/
def execUnit (i : Instr) : ExecUnit :=
  match i with
  | .sqrt _ _ | .rcp _ _ | .rsq _ _ | .exp2 _ _ | .log2 _ _ | .sin _ _ | .cos _ _ | .div _ _ _ | .rem _ _ _ => .special
  | .mstr _ _ | .mstrP _ | .mzero _ | .mswap | .mpark _ _ | .munpark _ _ | .mlds _ _ | .mdrn _ _ _ _ => .array
  | .pref _ _ => .memory
  | i => if isAccess i then .memory else .vector

/-- The instruction that a cohort stands at, where it can be fetched and decoded. -/
def State.nextInstr (s : State) (gk i : Nat) : Option Instr :=
  let x := (s.gang gk).slice i
  match x.rep with
  | some r => (decodeWord (stepWord r (pcIdx x.pc)).1).toOption
  | none => match s.fetch gk (pcAddr x.pc) with
    | .ok w => (decodeWord w).toOption
    | .error _ => none

/-- The deferred work that a granted gang runs. -/
def State.nextDeferred (s : State) (gk : Nat) : Option Instr :=
  match (s.gang gk).work.faulted with
  | some (e, _, _) => some e.instr
  | none => ((s.readyResiduals gk).head?).map (·.instr)

/-- The unit that the gang's next issue needs. -/
def State.nextUnit (s : State) (gk late : Nat) : ExecUnit :=
  let i := if s.defers gk late then s.nextDeferred gk else (s.chosenSlice gk late).bind (s.nextInstr gk)
  (i.map execUnit).getD .vector

/-- The gang may be granted in this cycle, when what `late` names is in a latency stall: it was ready when the cycle began, and
still is. -/
def State.grantable (s : State) (gk late : Nat) : Bool :=
  let g := s.gang gk
  g.sched.active && decide (g.sched.from_ ≤ s.clock) && g.sched.wasReady late && s.readyBut gk late && s.mayStart (s.partOf g) 0

/-- The step of R218's order that a gang comes under. -/
def State.grantStep (s : State) (gk : Nat) : Nat :=
  if (s.gang gk).sched.waited ≥ 4096 then 0
  else if (s.core (s.gang gk).core).before.contains gk then 1 else 2

/-- Gang `a` comes before gang `b` in R218's order. -/
def State.grantedFirst (s : State) (a b : Nat) : Bool :=
  if s.grantStep a ≠ s.grantStep b then decide (s.grantStep a < s.grantStep b)
  else (s.gang a).sched.older (s.gang b).sched

/-- The gang that a core grants next in this cycle: the first in order of those ready, not yet granted, and whose unit no
grant of the cycle has taken; none once four slots are used. -/
def State.nextGrant (s : State) (c : Nat) (late : List (Nat × Nat)) : Option Nat :=
  let x := s.core c
  if x.granted.length ≥ 4 then none
  else
    let ks := (s.activeGangs c).filter fun k =>
      !x.granted.contains k && s.grantable k (get 0 late k) && !x.used.contains (s.nextUnit k (get 0 late k))
    ks.foldl (fun best k => match best with
      | none => some k
      | some b => if s.grantedFirst k b then some k else some b) none

/-- The grant is noted: the gang's count restarts, and its slot and unit are taken for the cycle. A vector pipeline stands
beside each slot. -/
def State.noteGrant (s : State) (c gk : Nat) (u : ExecUnit) : State :=
  let x := s.core c
  (s.setCore c { x with granted := x.granted ++ [gk], used := if u = .vector then x.used else u :: x.used }).mapGang gk fun g =>
    { g with sched := { g.sched with grant := some s.clock, waited := 0 } }

/-- STARVATION_PRIORITY: a gang that has been ready and ungranted for 4,096 cycles comes first in the order of the core's next
grant (R218). -/
def execStarvationPriority (c : Nat) (s : State) : Outcome State Fault Refusal :=
  if (s.activeGangs c).any fun k => decide ((s.gang k).sched.waited ≥ 4096) && s.grantable k 0 then
    .next { s with agenda := .issue c [] :: s.agenda }
  else .next s

/-- RESIDUAL_RUN: residual `i` of the gang that its core grants next, once it is the gang's oldest ready one; or the faulted
head where there is one (R218, R227). -/
def execResidualRun (g i : Nat) (s : State) : Outcome State Fault Refusal :=
  let x := s.gang g
  let mine : Bool := match x.work.faulted with
    | some _ => true
    | none => ((x.work.residuals[i]?).map (·.id)) == ((s.readyResiduals g).head?).map (·.id)
  if s.nextGrant x.core [] = some g ∧ ¬ x.postedReady ∧ s.deferReady g ∧ mine then
    let (t, ran) := s.tryDeferred g
    .next (if ran then t.noteGrant x.core g (s.nextUnit g 0) else t)
  else .next s

/-- DRAIN_STALL_PARK (R219): on its 65th consecutive cycle of a drain-point stall, or at once for the other causes. -/
def execDrainStallPark (g : Nat) (s : State) : Outcome State Fault Refusal := .next (s.parkNow g)

/-- HANG_DETECT (R223; 18 R377): one record until the gang retires again; the gang is not stopped.
Log entry 38, DESIGN CHOICE. -/
def State.hangReport (s : State) (g : Nat) : State :=
  let x := s.gang g
  if ¬ x.live ∨ x.stopped ∨ x.sched.hung ∨ x.sched.idle < 2 ^ 24 then s
  else
    let state := if x.sched.active then 0 else if x.sched.park.isSome && !s.readyPending g then 2 else 1
    let cause := match x.sched.park with
      | some .barrier => 0
      | some .queue => 1
      | some .join => 2
      | some .exit => 3
      | some .window => 4
      | some .page => 5
      | some .residual => 6
      | some .drain => 7
      | none => 0
    let s := s.setGang g { x with sched := { x.sched with hung := true } }
    s.postRecord (s.partOf x)
      { kind := 4, ctx := s.ctxOf x, gang := some g, pcs := x.pcs, gstate := state, gcause := if state = 2 then cause else 0 }

def execHangDetect (g : Nat) (s : State) : Outcome State Fault Refusal := .next (s.hangReport g)

/-! ### Ageing of gangs -/

/-- What the agenda said of a gang's latency stalls in this cycle. -/
def Core.lateOf (c : Core) (gk : Nat) : Nat := c.late.foldl (fun m p => if p.1 = gk then Nat.lor m p.2 else m) 0

/-- An active gang was ready when the cycle began and was not granted: the slots went to others, or the unit that it needs did,
with the place that it would have taken (R217, R218). A gang that was left ungranted beside a free slot and a free unit was in a
latency stall (log entry 1, DESIGN CHOICE). -/
def State.passedOver (s : State) (gk : Nat) (g : Gang) : Bool :=
  let c := s.core g.core
  let late := c.lateOf gk
  !c.granted.contains gk && g.sched.active && decide (g.sched.from_ ≤ s.clock) && g.sched.wasReady late
    && (decide (c.granted.length ≥ 4) || c.used.contains (s.nextUnit gk late))

/-- A gang at the end of a cycle: rejoin ages and path counts (R222; 05 R130), the counts of R218 to R220, which a budget
wait does not advance (R217), and that of R223. -/
def State.elapseGang (s : State) (gk : Nat) (g : Gang) : Gang :=
  if ¬ g.live ∨ g.stopped then g
  else
    let ageing := (s.group g.group).ageing
    let rejoin := mapVals (fun m (r : Rejoin) =>
      { r with
        age := if g.anyWaits m then min (r.age + 1) 131071 else r.age
        paths := if ageing then r.paths.map fun p => { p with count := min (p.count + 1) 65535 } else r.paths }) g.rejoin
    let x := { g.sched with idle := if g.page.isSome then g.sched.idle else g.sched.idle + 1 }
    let x : Sched := if ¬ s.mayStart (s.partOf g) 0 then x
      else if x.active then
        { x with
          waited := if s.passedOver gk g then x.waited + 1 else x.waited
          quiet := if s.drainStalled gk then x.quiet + 1 else 0 }
      else { x with outside := if s.readyPending gk ∧ (s.activeGangs g.core).length ≥ 8 then x.outside + 1 else 0 }
    { g with rejoin := rejoin, sched := x }

/-- The cores that hold a live gang. -/
def State.liveCores (s : State) : List Nat := ((s.gangs.filter fun p => p.2.live).map fun p => p.2.core).eraseDups

/-- The keys of the live gangs. -/
def State.liveGangs (s : State) : List Nat := (s.gangs.filter fun p => p.2.live).map Prod.fst

/-- What the end of a cycle does to gangs and active sets once the counts have advanced: waits complete or time out, gangs park
and are displaced, and hangs are reported (R219, R220, R223; 05 R129 to R131). -/
def State.endGangs (s : State) : State :=
  let s := { s with gangs := mapVals (fun _ (g : Gang) =>
    if g.live then g.applyWaits (s.group g.group).ageing s.clock else g) s.gangs }
  let s := s.liveGangs.foldl State.parkNow s
  let s := s.liveCores.foldl State.displace s
  s.liveGangs.foldl State.hangReport s

/-- A new cycle of a core's scheduler. -/
def Core.newCycle (c : Core) : Core := { c with before := c.granted, granted := [], used := [], late := [] }

/-- The cores at the start of a cycle: a vacancy of an active set is filled (R220). -/
def State.startCores (s : State) : State :=
  let s := { s with cores := mapVals (fun _ c => c.newCycle) s.cores }
  s.liveCores.foldl State.enterOldest s

end Sys2Proof.Machine
end

