-- ==== Sys2Proof/Machine/Image.lean ====
section
/-! DEFINITION. Stopping, saving and loading a context (18 R383 to R391): when a stop has ended, the roll-back of stream
contexts, the image and its segments, the resources that a saved or ended context frees, and the placing of an image. -/

namespace Sys2Proof.Machine

/-! ### What a context holds -/

/-- The live groups of a context, the gangs of a group that are live, and the cores that hold a group of it. -/
def State.ctxGroups (s : State) (x : Nat) : List (Nat × Group) := s.groups.filter fun p => p.2.live && p.2.ctx == x
def State.groupGangs (s : State) (grp : Nat) : List (Nat × Gang) := s.gangs.filter fun p => p.2.live && p.2.group == grp
def State.ctxCores (s : State) (x : Nat) : List Nat :=
  (List.range 256).filter fun c => (s.ctxGroups x).any fun p => p.2.core == c
def State.groupStreams (s : State) (grp : Nat) : List (Nat × StreamCtx) := s.streams.filter fun p => p.2.group == grp
def State.groupBulks (s : State) (grp : Nat) : List (Nat × Bulk) := s.bulks.filter fun p => p.2.group == grp

/-- A gang or group belongs to the context. -/
def State.gangIn (s : State) (x gk : Nat) : Bool := (find s.gangs gk).isSome && s.ctxOf (s.gang gk) == x
def State.groupIn (s : State) (x grp : Nat) : Bool := (find s.groups grp).isSome && (s.group grp).ctx == x

/-- The queue behind a key is one of the context's: a port of its gangs, the reduction input of its groups, or a link end
that a gang of it owns. -/
def State.linkIn (s : State) (x k : Nat) : Bool :=
  match qkey k with
  | .port gk _ => s.gangIn x gk
  | .cru grp => s.groupIn x grp
  | .link _ _ => match (s.link k).owner with
    | some g => s.gangIn x g
    | none => false

/-- An object of a group's scratchpad. -/
def inSpad (grp a : Nat) : Bool := decide (spadBase grp ≤ a) && decide (a < spadBase grp + 2 ^ 24)

/-! ### The end of a stop (R383, R384) -/

/-- Of a gang's accesses nothing is under way: what is left of its store queue cannot be performed now, and no plain
delivery is on its way. -/
def State.gangSettled (s : State) (gk : Nat) : Bool :=
  let g := s.gang gk
  let head := match g.work.stores with
    | [] => true
    | q :: _ =>
      match accessOf q.entry.mode q.entry.instr with
      | none => true
      | some x =>
        let ads := x.lanes q.entry.active q.entry.readV
        let ok := (s.laneAll gk x 1 true ads).1
        !g.headReady q || (s.winAll gk x ads ok).2 || s.hostWait gk ok
  head && (g.work.flight.all fun d => d.entry.isSome) && g.axinv.isEmpty

/-- What an array holds may stay: nothing, or a pass that waits for port rows and what stands behind it in the queue. Log entry
90, DEDUCED. -/
def State.arraySettled (s : State) (c : Nat) : Bool :=
  match (s.core c).array with
  | [] => true
  | q :: _ => match q.cmd with
    | .pass _ _ rs =>
      let g := s.gang q.gang
      (portLanes g rs).any fun l => decide ((g.portRow l).length < 128)
    | _ => false

/-- A stream context stands at an operation boundary, or at a return port that takes no row of its operation now. -/
def State.streamSettled (s : State) (p : Nat × StreamCtx) : Bool :=
  p.2.between || p.2.state != 1 || (p.2.beats.isEmpty && !s.portReady p.2)

/-- A bulk copy stands at a 512-byte boundary, or waits for the host. -/
def State.bulkSettled (s : State) (b : Bulk) : Bool :=
  b.ended.isSome || b.fault.isSome || b.asked.isSome || (b.due .stopping).isEmpty || !(s.part b.part).linked

/-- Steps 1 to 6 of R383 have ended for a context: nothing of its gangs, arrays, engines, rounds and queues is under way, and no
credit of it still finds its phase open. -/
def State.stopSettled (s : State) (x : Nat) : Bool :=
  ((s.ctxGangs x).all s.gangSettled)
    && ((s.ctxCores x).all fun c => s.arraySettled c && (s.core c).decLoad.isEmpty)
    && (s.oblds.all fun o => !s.gangIn x o.2.gang)
    && (s.streams.all fun p => !s.groupIn x p.2.group || s.streamSettled p)
    && (s.bulks.all fun b => b.2.ctx != x || s.bulkSettled b.2)
    && (s.credits.all fun c => !s.groupIn x (objGroup c.obj) || !(s.bar c.obj).isOpen c.phase)
    && ((s.ctxGroups x).all fun p => (get [] s.rounds p.1).all fun r => decide (r.parts.length < r.size))
    && (s.links.all fun l => !s.linkIn x l.1 || l.2.window.isEmpty || decide (l.2.recv.length ≥ 8))

/-- Removes the newest credits of an object and phase, up to a number of bytes; the answer gives the bytes not found. -/
def dropCredits (h obj ph : Nat) : List Credit → Nat → List Credit × Nat
  | [], n => ([], n)
  | c :: cs, n =>
    let (cs, n) := dropCredits h obj ph cs n
    if c.stream = some h ∧ c.obj = obj ∧ c.phase = ph ∧ c.mark = none ∧ 0 < n then (cs, n - c.nbytes) else (c :: cs, n)

/-- A stream context returns to its checkpoint; what it credited and arrived in phase `cur` since then is withdrawn from
every object written (11 R268). From a phase that has completed nothing is withdrawn. Log entry 106, DESIGN CHOICE. -/
def State.rollback (s : State) (h : Nat) : State :=
  let c := s.stream h
  let s := match (if c.touch.isSome then none else c.regs.cur) with
    | none => s
    | some ph =>
      let since := c.regs.fill - c.check.fill
      (s.written c.group c.entry).foldl (fun s grp =>
        let obj := spadBase grp + ((s.group grp).entry c.entry).full
        let (cs, left) := dropCredits h obj ph s.credits since
        let s := { s with credits := cs }
        let b := s.bar obj
        let i := ph % 4
        if b.isOpen ph then
          s.storeAll obj ({ b with
            landed := b.landed.set i (nth b.landed i - left)
            arr := b.arr.set i (nth b.arr i - c.arrived)
            xbytes := b.xbytes.set i ((nth b.xbytes i + 2 ^ 32 - c.expected % 2 ^ 32) % 2 ^ 32) }).bytes
        else s) s
  let c := s.stream h
  s.setStream h { c with regs := c.check, arrived := 0, expected := 0, beats := [], out := [], reading := none, flits := [], pausing := false }

/-- Every write of a context is seen by every observer, atomics have made their write part, and the first bytes that a pass reads
have been read (R384). -/
def State.allSeen (s : State) (x : Nat) : State :=
  (s.finishHalves fun h => s.groupIn x h.group).reveal fun v => if s.groupIn x v.group then allSeats else 0

/-- The stop of a context has ended: its stream contexts roll back, but for those done or faulted, and it is quiescent, or
halted; a CTXSTOP is done. -/
def State.quiesced (s : State) (x : Nat) : State :=
  let s := s.allSeen x
  let hs := (s.streams.filter fun p => s.groupIn x p.2.group && [1, 2, 3, 6].contains p.2.state).map Prod.fst
  let s := hs.foldl State.rollback s
  let c := s.ctx x
  let s := s.setCtx x { c with state := if c.halting then .halted else .quiescent, quietFor := 0, halting := false }
  { s with pages := mapVals (fun _ (g : Page) =>
      if g.wait = some x ∧ ¬ c.ending then { g with busy := false, stat := 0, wait := none } else g) s.pages }

/-! ### Resuming a parked gang (07 R154; 10 R230; 18 R377) -/

/-- A gang parked on a page fault is to re-execute: its slices in the failed lanes, or afresh where the fetch failed (no
lanes); a store in its place of the queue; the faulted entry by a replay; behind another faulted entry it is a ready
residual. -/
def Gang.unpark (g : Gang) : Gang :=
  match g.page with
  | none => g
  | some f =>
    let g : Gang := { g with page := none, sched := { g.sched with park := if g.sched.park = some Park.page then none else g.sched.park } }
    match f.entry with
    | none => g.onSlices f.slices fun _ x =>
      { x with reexec := if f.lanes = 0 then x.reexec else some f.lanes, rep := none, stall := none }
    | some e =>
      if (desc e.instr).cnt = 2 then
        let st := g.work.stores.map fun (q : SqEntry) => if q.entry.id = e.id then { q with fault := none } else q
        { g with work := { g.work with stores := st } }
      else if g.work.faulted.isSome then
        let again : Entry := { e with lanes := f.lanes, waits := [], guardPend := false }
        { g with work := { g.work with residuals := again :: g.work.residuals } }
      else { g with work := { g.work with faulted := some (e, f.lanes, f.outside) } }

/-! ### Taking an image (R385 to R389) -/

/-- The header's word of a queue: the next group of a partly placed record, and its slot. -/
def State.queueWord (s : State) (x q : Nat) : Nat :=
  let k := s.queue (s.ctx x).part q
  match (if k.bound ∧ k.ctx = x then k.cur else none) with
  | some n =>
    let l := s.launch n
    if 0 < l.placed ∧ l.placing then l.next % 2 ^ 32 + l.slot % 2 ^ 32 * 2 ^ 32 else 0xFFFFFFFF
  | none => 0xFFFFFFFF

/-- The queues of a context as an image holds them. What a link end has sent and has landed belongs to the end that faces
it. -/
def State.ctxLinks (s : State) (x : Nat) : Store Link :=
  (s.links.filter fun (l : Nat × Link) => s.linkIn x l.1).map fun l => match qkey l.1 with
    | .link _ _ => (l.1, { l.2 with recv := [] })
    | _ => l

/-- The sender that faces a link end. -/
def facingKey (k : Nat) : Option Nat :=
  match qkey k with
  | .link c e => (neighbour c e).map fun n => linkKey n (facing e)
  | _ => none

/-- What has landed for the link ends of a context. -/
def State.ctxRecvs (s : State) (x : Nat) : List (Nat × List (List W32 × Mask)) :=
  (s.ctxLinks x).filterMap fun l => (facingKey l.1).map fun k => (l.1, (s.link k).recv)

/-- The written pages of a range, with their bytes. -/
def State.writtenPages (s : State) (a n : Nat) : Store (List Byte) :=
  (s.inked.filter fun p => p.2 && decide (a ≤ 4096 * p.1) && decide (4096 * p.1 < a + n)).map fun p =>
    (4096 * p.1, s.bytes (4096 * p.1) 4096)

/-- What an image of a context stands for, as the context is, under a save counter. Log entry 22, DESIGN CHOICE. -/
def State.takeSaved (s : State) (x counter : Nat) : Saved :=
  let groups := s.ctxGroups x
  let mine (grp : Nat) : Bool := groups.any fun p => p.1 == grp
  let cores := s.ctxCores x
  { ctx := x, world := s.worldOf x, counter := counter, key := ((s.ctx x).key).getD 0
    queues := (List.range 64).map (s.queueWord x)
    pages := groups.flatMap (fun p => s.writtenPages (spadBase p.1) 0x400000) ++ cores.flatMap fun c => s.writtenPages (bufBase c) 0x40000
    poison := (s.poison.filter fun p => groups.any fun g =>
      inSpad g.1 p.1 || (decide (bufBase g.2.core ≤ p.1) && decide (p.1 < bufBase g.2.core + 0x40000))).map Prod.fst
    gangs := (s.gangs.filter fun p => p.2.live && mine p.2.group)
    groups := groups, rounds := s.rounds.filter fun r => mine r.1
    cores := cores.map fun c => (c, s.core c)
    streams := s.streams.filter fun p => mine p.2.group
    bulks := s.bulks.filter fun p => mine p.2.group
    credits := s.credits.filter fun c => groups.any fun g => inSpad g.1 c.obj
    links := s.ctxLinks x, recvs := s.ctxRecvs x }

/-- The image of a context as it stands: sealed for a protected context (R389). -/
def State.takeImage (s : State) (x counter : Nat) : Saved :=
  let v := s.takeSaved x counter
  { v with stored := if v.world ≠ 0 then sealImage s.free v.key counter v.image else v.image }

/-- The size of a context's image in units. -/
def State.imageUnits (s : State) (x : Nat) : Nat := (s.takeSaved x 0).units

/-! ### Freeing what a context holds (R396; 19 R401) -/

/-- A core that serves no context; what it held is gone. -/
def State.freeCore (s : State) (c : Nat) : State :=
  let k := s.core c
  { (s.setCore c { backoff := k.backoff, clockSeen := k.clockSeen }).clearRange (bufBase c) 0x40000 with tlb := del s.tlb c, axis := del s.axis c }

/-- The translations and axis items of a context leave every buffer (R391). -/
def State.dropCaches (s : State) (x : Nat) : State :=
  { s with
    tlb := mapVals (fun _ ts => ts.filter fun t => t.ctx != x) s.tlb
    axis := mapVals (fun _ is => is.filter fun i => i.ctx != x) s.axis }

/-- Every gang, group, engine context, band, queue and core of a context is free, and no buffer holds anything of it. -/
def State.freeCtx (s : State) (x : Nat) : State :=
  let groups := (s.groups.filter fun p => p.2.ctx == x).map Prod.fst
  let taken := (s.ctxRecvs x).filterMap fun r => facingKey r.1
  let links := s.links.filterMap fun (l : Nat × Link) =>
    let l := if taken.contains l.1 then (l.1, { l.2 with recv := [] }) else l
    if s.linkIn x l.1 then (match qkey l.1 with | .link _ _ => some (l.1, { l.2 with owner := none, window := [] }) | _ => none)
    else some l
  let gangs := (s.gangs.filter fun p => s.ctxOf p.2 == x).map Prod.fst
  let s := { s with links := links, oblds := s.oblds.filter fun o => !gangs.contains o.2.gang }
  let s := groups.foldl State.removeGroup s
  (((List.range 256).filter fun c => (s.core c).ctx == some x).foldl State.freeCore s).dropCaches x

/-! ### Placing an image (R391) -/

/-- Groups of one image that must keep their cores together: the cores of a consort launch keep their positions in one
consort; any other core stands alone. -/
inductive Block where
  | consort (c : Nat) (cores : List Nat)
  | single (c : Nat)
  deriving DecidableEq, Repr

/-- The blocks of an image, those of consort launches first. -/
def Saved.blocks (v : Saved) : List Block :=
  let cores := v.cores.map Prod.fst
  let tied (c : Nat) : Bool := v.groups.any fun p => p.2.core == c && decide (0 < p.2.csize)
  let cons := ((cores.filter tied).map (· / 4)).eraseDups
  cons.map (fun n => .consort n (cores.filter fun c => tied c && c / 4 == n)) ++ (cores.filter fun c => !tied c).map .single

/-- The core can take the groups of an image: it belongs to the partition and holds no group. -/
def State.coreFree (s : State) (p c : Nat) : Bool := bit (s.part p).consorts (c / 4) && (s.coreGroups c).isEmpty

/-- The places of a block, each as pairs of the old core and the new one. -/
def Block.places (free : Nat → Bool) : Block → List (List (Nat × Nat))
  | .consort n cores =>
    ((List.range 64).map fun m => cores.map fun c => (c, 4 * m + (c - 4 * n))).filter fun ps => ps.all fun p => free p.2
  | .single c => ((List.range 256).filter free).map fun d => [(c, d)]

/-- Places every block on cores that no other block takes; a block's places are tried from a free choice on. -/
def placeBlocks (free : Nat → Bool) (pick : Nat) : List Block → List (Nat × Nat) → Option (List (Nat × Nat))
  | [], done => some done
  | b :: bs, done =>
    let ps := b.places fun c => free c && !done.any fun d => d.2 == c
    let k := if ps.isEmpty then 0 else Config.choice pick % ps.length
    (ps.drop k ++ ps.take k).findSome? fun p => placeBlocks free (pick + 1) bs (done ++ p)

/-- The groups of an image have a shape that some core could hold: on each core at most 8 groups and 32 gangs, legal partition
words, and shares that fit together (R396; 11 R236; 16 R351). -/
def Saved.fitsCores (v : Saved) : Bool :=
  let gangsOf (grp : Nat) : Nat := (v.gangs.filter fun p => p.2.group == grp).length
  (v.cores.map Prod.fst).all fun c =>
    let gs := v.groups.filter fun p => p.2.core == c
    decide (gs.length ≤ 8) && decide ((gs.map fun p => gangsOf p.1).sum ≤ 32) && decide ((gs.map fun p => p.2.share).sum ≤ 24)
      && gs.all fun p => pwordLegal (p.2.stack + p.2.spad * 2 ^ 8 + p.2.parkShare * 2 ^ 16) (gangsOf p.1)

/-- A number through a list of pairs. -/
def through (m : List (Nat × Nat)) (c : Nat) : Nat := ((m.find? fun p => p.1 == c).map (·.2)).getD c

/-- Free engine contexts for an image's stream contexts: old number and new one, or none where the partition's share or the
die has too few. -/
def State.streamPlaces (s : State) (p : Nat) (cores : List (Nat × Nat)) (v : Saved) : Option (List (Nat × Nat)) :=
  v.streams.foldl (fun (r : Option (List (Nat × Nat))) (h, c) =>
    match r with
    | none => none
    | some m =>
      let die := through cores (get ({} : Group) v.groups c.group).core / 64
      let used := (m.filter fun x => x.2 / 512 == die).length
      let share := (s.streams.filter fun x => x.1 / 512 == die && (s.group x.2.group).part == p).length
      if share + used ≥ (s.part p).sshare then none
      else (((List.range 512).map (512 * die + ·)).find? fun n =>
        (find s.streams n).isNone && !m.any fun x => x.2 == n).map fun n => m ++ [(h, n)]) (some [])

/-- An address of an operand buffer moves with its core. -/
def moveAddr (cores : List (Nat × Nat)) (a : Nat) : Nat :=
  if a ≥ 2 ^ 60 ∧ a < 2 ^ 62 then
    let c := (a - 2 ^ 60) / 2 ^ 18
    bufBase (through cores c) + (a - bufBase c)
  else a

/-- A key of a link end moves with its consort. -/
def moveKey (cores : List (Nat × Nat)) (k : Nat) : Nat :=
  match qkey k with
  | .link n e =>
    match cores.find? fun p => p.1 / 4 == n with
    | some (_, d) => linkKey (d / 4) e
    | none => k
  | _ => k

/-- A gang as it stands on its new core, where nothing else has been held yet (01 R39); the counts of its loads and stores are
rebuilt from its entries (R387). -/
def Gang.placed (g : Gang) (cores : List (Nat × Nat)) (clock : Nat) : Gang :=
  let loads := (g.savedEntries.filter fun e => (desc e.instr).cnt == 1).length
  let g := g.unpark
  { g with
    core := through cores g.core, stopped := false
    regs := { g.regs with seen := [] }
    counts := { g.counts with loads := loads, stores := g.work.stores.length }
    slices := g.slices.map fun x => { x with rep := none, stall := none }
    sched := { slot := g.sched.slot, born := clock } }

/-- A group on its new core, its handles leading to the new engine contexts. -/
def Group.placed (g : Group) (cores streams : List (Nat × Nat)) : Group :=
  let old := g.handles.map fun p => (p.1, through streams p.2)
  let fresh_ := streams.filter fun p => !g.handles.any fun h => h.2 == p.1
  { g with
    core := through cores g.core
    handles := fresh_.foldl (fun m p => put m p.1 p.2) old
    cat := mapVals (fun _ c => { c with ctx := c.ctx.map (through streams) }) g.cat }

/-- A stream context as it resumes from its checkpoint (R391). -/
def StreamCtx.resumed (c : StreamCtx) : StreamCtx :=
  { c with fault := none, stopping := false, state := if c.state = 2 ∨ c.state = 6 then 1 else c.state }

/-- A queue takes what an image holds of it: a link end its owner and the entries not yet landed, another queue everything. -/
def State.placeLink (s : State) (cores : List (Nat × Nat)) (k : Nat) (l : Link) : State :=
  let k' := moveKey cores k
  match qkey k with
  | .link _ _ =>
    let s := l.window.foldl (fun s e => s.sendEntry k' e.2.1 e.2.2) s
    s.setLink k' { s.link k' with owner := l.owner, core := l.core.map (through cores) }
  | _ => s.setLink k' l

/-- In an ordinary image a band in use and clean comes back from its home in the parking share (R388). -/
def State.homeBands (s : State) (c : Nat) : State :=
  let k := s.core c
  s.setCore c { k with bands := k.bands.map fun b => match b.owner with
    | some gk =>
      let a := parkBase (s.gang gk).group + b.home
      if b.inUse ∧ ¬ b.dirty then { b with acc := bandOf b.kind (s.bytes a (imageBytes b.kind)) } else b
    | none => b }

/-- A queue goes on placing where the image's header says (R396). -/
def State.placeQueue (s : State) (x q w : Nat) : State :=
  let k := s.queue (s.ctx x).part q
  match (if k.bound ∧ k.ctx = x ∧ w % 2 ^ 32 ≠ 0xFFFFFFFF then k.cur else none) with
  | some n =>
    let l := s.launch n
    if l.slot % 2 ^ 32 = w / 2 ^ 32 then s.setLaunch n { l with next := w % 2 ^ 32 } else s
  | none => s

/-- An image's contents stand on the device (R391). -/
def State.placeImage (s : State) (x : Nat) (v : Saved) (cores streams : List (Nat × Nat)) : State :=
  let s := cores.foldl (fun s p => s.serve p.2 x) (cores.foldl (fun s p => s.freeCore p.2) s)
  let s := v.pages.foldl (fun s p => s.storeAll (moveAddr cores p.1) p.2) s
  let s := v.poison.foldl (fun s a => s.markPoison (moveAddr cores a) true) s
  let s := v.cores.foldl (fun s (c, k) =>
    let d := through cores c
    s.setCore d { k.newCycle with ctx := some x, seen := [], cache := [], entered := none, clockSeen := (s.core d).clockSeen, backoff := (s.core d).backoff }) s
  let s := v.groups.foldl (fun s (grp, g) => s.setGroup grp (g.placed cores streams)) s
  let s := v.gangs.foldl (fun s (gk, g) => s.setGang gk (g.placed cores s.clock)) s
  let s := if v.world = 0 then cores.foldl (fun s p => s.homeBands p.2) s else s
  let s := v.streams.foldl (fun s (h, c) => s.setStream (through streams h) c.resumed) s
  let base := fresh s.bulks
  let s := (v.bulks.zipIdx).foldl (fun s ((_, b), i) =>
    s.setBulk (base + i) { b with fault := none, die := (s.group b.group).core / 64 }) s
  let s := { s with
    rounds := v.rounds.foldl (fun m (r : Nat × List Round) => put m r.1 r.2) s.rounds
    credits := s.credits ++ v.credits.map fun (c : Credit) => { c with stream := c.stream.map (through streams) } }
  let s := v.links.foldl (fun s l => s.placeLink cores l.1 l.2) s
  let s := v.recvs.foldl (fun s (k, r) => match facingKey (moveKey cores k) with
    | some f => s.setLink f { s.link f with recv := (s.link f).recv ++ r }
    | none => s) s
  (v.queues.zipIdx).foldl (fun s q => s.placeQueue x q.2 q.1) (s.dropCaches x)

end Sys2Proof.Machine
end

