-- ==== Sys2Proof/Machine/Records.lean ====
section
/-! DEFINITION. The rings that Ecolmut writes: usage records (19 R414) and error records (20 R420), the harvest map
(20 R421), measurements (20 R423) and accession records (19 R411). -/

namespace Sys2Proof.Machine

/-- The little-endian number that `n` bytes of a block at offset `o` spell. -/
def field (bs : List Byte) (o n : Nat) : Nat := fromBytes ((bs.drop o).take n)

/-- Bytes cut off or filled up with zeros to a length. -/
def fit (n : Nat) (bs : List Byte) : List Byte := (bs ++ List.replicate n 0).take n

/-- A record of 4 KiB: the first 256 bytes and the chip's signature over them at 0x100. -/
def signedRecord (chip : Nat) (front : List Byte) : List Byte :=
  let front := fit 0x100 front
  fit 4096 (front ++ (List.range 3309).map (Config.signature chip front))

/-! ### Rings of 4 KiB records (19 R414) -/

/-- A ring at a flat address has room: `2^ls` records, prod at 0 and cons at 4. -/
def State.recRoom (s : State) (h ls : Nat) : Bool :=
  decide ((s.num h 4 + 2 ^ 32 - s.num (h + 4) 4) % 2 ^ 32 < 2 ^ ls)

/-- Writes a record into its slot, then advances prod. -/
def State.recWrite (s : State) (h ls : Nat) (bs : List Byte) : State :=
  let prod := s.num h 4
  (s.storeAll (h + 64 + 4096 * (prod % 2 ^ ls)) bs).setNum h 4 ((prod + 1) % 2 ^ 32)

/-! ### Usage records -/

/-- Closes a usage record of a partition; at most 8 are held, and the oldest is discarded into the gap.
Log entry 68, DEDUCED. -/
def State.closeUsage (s : State) (p : Nat) (final : Bool) : State :=
  let pt := s.part p
  let u : Usage := { seq := pt.seconds + 1, clock := s.clock, final := final, counters := pt.meters.map (· % 2 ^ 64) }
  let all := pt.held ++ [u]
  let full := decide (all.length > 8)
  s.setPart p { pt with seconds := pt.seconds + 1, held := if full then all.drop 1 else all, gap := pt.gap + b2n full }

/-- A usage record is closed where another 2,500,000,000 cycles have passed since the partition's creation. -/
def State.usageDue (s : State) (p : Nat) : State :=
  let pt := s.part p
  if pt.live ∧ s.clock ≥ pt.born + 2500000000 * (pt.seconds + 1) then s.closeUsage p false else s

/-- The first 0xE0 bytes of a usage record. Log entry 69, DESIGN CHOICE. -/
def usageBody (p gap hprev : Nat) (u : Usage) : List Byte :=
  toBytes 4 1 ++ toBytes 4 p ++ toBytes 8 u.seq ++ toBytes 8 u.clock ++ toBytes 8 gap ++ (u.counters.flatMap (toBytes 8))
    ++ toBytes 8 (b2n u.final) ++ toBytes 0x50 0 ++ toBytes 32 hprev

/-- The ring's header is legal: lsize 1 to 12, then zeros. -/
def State.usageRoom (s : State) (p : Nat) : Bool :=
  let pt := s.part p
  let h := hostBase + pt.uring
  let ls := s.num (h + 8) 4
  pt.linked && decide (1 ≤ ls) && decide (ls ≤ 12) && (s.bytes (h + 12) 52).all (· == 0) && s.recRoom h ls

/-- The oldest held usage record is written where the ring has room; it takes its Hprev now. -/
def State.writeUsage (s : State) (p : Nat) : State :=
  let pt := s.part p
  match pt.held with
  | [] => s
  | u :: rest =>
    if s.usageRoom p then
      let h := hostBase + pt.uring
      let body := usageBody p pt.gap pt.hprev u
      let hash := Config.shake256 body % 2 ^ 256
      let s := s.recWrite h (s.num (h + 8) 4) (signedRecord s.chip.number (body ++ toBytes 32 hash))
      s.setPart p { s.part p with held := rest, gap := 0, hprev := hash }
    else s

/-- The Hprev of a partition's first record. -/
def firstHash (p clock : Nat) : Nat :=
  Config.shake256 (toBytes 32 Config.identityDigest ++ toBytes 4 p ++ toBytes 8 clock) % 2 ^ 256

/-! ### Error records -/

/-- The bytes of an error record. -/
def errorFront (gap : Nat) (r : ErrRec) : List Byte :=
  toBytes 2 1 ++ toBytes 2 r.kind ++ toBytes 4 0 ++ toBytes 8 r.serial ++ toBytes 8 r.clock ++ toBytes 8 gap ++ toBytes 1 r.part
    ++ toBytes 1 r.world ++ toBytes 1 r.ctx ++ toBytes 1 0 ++ toBytes 4 r.unit ++ toBytes 8 r.pa ++ toBytes 8 r.detail

/-- The oldest held error record is written where there is a ring with room. -/
def State.writeError (s : State) : State :=
  let c := s.chip
  let h := hostBase + c.ering
  match c.errors with
  | [] => s
  | r :: rest =>
    if c.ering ≠ 0 ∧ s.recRoom h c.elsize then
      let s := s.recWrite h c.elsize (signedRecord c.number (errorFront c.egap r))
      { s with chip := { s.chip with errors := rest, egap := 0 } }
    else s

/-! ### Harvest map and measurements -/

/-- Draws `k` members of a list, by numbers that `f` gives, and what is left of it. -/
def draw (f : Nat → Nat) : (k : Nat) → List Nat → List Nat × List Nat
  | 0, xs => ([], xs)
  | k + 1, xs =>
    let i := f k % xs.length
    let (ys, zs) := draw f k (xs.eraseIdx i)
    (nth xs i :: ys, zs)

/-- The disabled and the enabled cores of a die as fused, and its map of logical cores. -/
def fusedCores (d : Nat) : List Nat × List Nat := draw (Config.fused d 0) 4 (List.range 68)
def fusedOrder (d : Nat) : List Nat := (draw (Config.fused d 2) 64 (fusedCores d).2).1

/-- A pair of disabled rows or ways of `n` as fused, the lower first, each with bit `sp` where it is a usable spare. -/
def fusedPair (d f n sp : Nat) : List Nat :=
  let (xs, _) := draw (Config.fused d f) 2 (List.range n)
  [min (nth xs 0) (nth xs 1), max (nth xs 0) (nth xs 1)].zipIdx.map fun p => p.1 + b2n (bit (Config.fused d f 2) p.2) * 2 ^ sp

/-- Byte `o` of die `d`'s harvest map as fused (R421): four cores, two rows of each core and two ways of each slice are disabled, and no
repair or failing slice stands in it. -/
def fusedHmap (d o : Nat) : Byte :=
  let dcore := ((fusedCores d).1.map (2 ^ ·)).sum
  let x :=
    if o < 9 then dcore / 256 ^ o
    else if o < 18 then Nat.land dcore (Config.fused d 1 0) / 256 ^ (o - 9)
    else if o < 32 then 0
    else if o < 96 then nth (fusedOrder d) (o - 32)
    else if o < 224 then nth (fusedPair d (3 + (o - 96) / 2) 34 6) (o % 2)
    else if o < 288 then nth (fusedPair d (67 + (o - 224) / 2) 18 5) (o % 2)
    else 0
  BitVec.ofNat 8 x

/-- Byte `o` of die `d`'s harvest map: as fused, but for what repairs have changed. -/
def State.hmapByte (s : State) (d o : Nat) : Byte := get (fusedHmap d o) s.chip.hmap (512 * d + o)
def State.hmapNum (s : State) (d o n : Nat) : Nat := fromBytes ((List.range n).map fun i => s.hmapByte d (o + i))

/-- A field of the map takes a new value. -/
def State.setHmap (s : State) (d o n x : Nat) : State :=
  { s with chip := { s.chip with
      hmap := (toBytes n x).zipIdx.foldl (fun m (b, i) => put m (512 * d + o + i) b) s.chip.hmap } }

/-- A repair is reported: kind 6, the byte offset of the changed field and its new first two bytes (R421). -/
def State.logRepair (s : State) (d kind index o : Nat) : State :=
  s.logError 6 none (unitOf d kind index) 0 (o + s.hmapNum d o 2 * 65536)

/-- The boot ROM accepts a firmware image (20 R423): the vendor's key has signed it, and its security version is not below the
fused minimum. -/
def firmwareOk (img : List Byte) : Bool :=
  let key := Config.firmwareKey img
  decide (Config.shake256 key = Config.vendorDigest) && Config.verifies key (Config.firmwareBody img) (Config.firmwareSignature img)
    && decide (Config.minimumVersion ≤ Config.securityVersion img)

/-- The firmware image on the device, and whether the boot ROM has found it valid. -/
def State.firmware (s : State) : List Byte := s.chip.image.getD Config.firmware
def State.firmwareValid (s : State) : Bool := s.chip.boot.getD (firmwareOk s.firmware)

/-- A measurement block (R423): blocks 1 and 2 measure the firmware that runs and its microcode, block 3 the harvest maps, and block 4
the fused security version and the identity digest (log entry 6, DESIGN CHOICE). -/
def State.measure (s : State) (i : Nat) : Nat :=
  match i with
  | 1 => Config.shake256 s.firmware
  | 2 => Config.microcode s.firmware
  | 3 => Config.shake256 ((List.range 4).flatMap fun d => (List.range 512).map (s.hmapByte d))
  | _ => Config.shake256 (toBytes 8 Config.minimumVersion ++ toBytes 32 Config.identityDigest)

/-! ### Array rows and cores (20 R421) -/

/-- The disabled array rows of a core, as the map's two bytes for it say. -/
def State.rowBytes (s : State) (c : Nat) : List Nat := (List.range 2).map fun i => s.hmapNum (c / 64) (96 + 2 * (c % 64) + i) 1

/-- The physical row that serves a logical row: the enabled rows in ascending order. -/
def State.physicalRow (s : State) (c row : Nat) : Nat :=
  let off := (s.rowBytes c).map (· % 64)
  nth ((List.range 34).filter fun r => !off.contains r) row

/-- The usable spare cores of a die. -/
def State.spareCores (s : State) (d : Nat) : List Nat := those 68 (bit (s.hmapNum d 9 9))

/-- A spare for a core, or for a row of it, is left. -/
def State.hasSpare (s : State) (c : Nat) (row : Option Nat) : Bool :=
  if row.isSome then (s.rowBytes c).any fun e => bit e 6 else !(s.spareCores (c / 64)).isEmpty

/-- The consort of a core for which no spare is left is unavailable. -/
def State.loseConsort (s : State) (c : Nat) : State :=
  { s with chip := { s.chip with unavailable := Nat.lor s.chip.unavailable (2 ^ (c / 4)) } }

/-- Two bytes of the map, the lower number first. -/
def pairField (m : Nat) (es : List Nat) : Nat :=
  let lo := nth es 0
  let hi := nth es 1
  if lo % m < hi % m then lo + hi * 256 else hi + lo * 256

/-- A row of a core is replaced: its entry stands in the place of the spare's, disabled in service. -/
def State.replaceRow (s : State) (c row : Nat) : State :=
  let es := s.rowBytes c
  let o := 96 + 2 * (c % 64)
  match es.findIdx? fun e => bit e 6 with
  | none => s.loseConsort c
  | some i => (s.setHmap (c / 64) o 2 (pairField 64 (es.set i (row + 128)))).logRepair (c / 64) 0 (c % 64) o

/-- A core is replaced: a spare serves its number, and the failing one is disabled. -/
def State.replaceCore (s : State) (c : Nat) : State :=
  let d := c / 64
  let o := 32 + c % 64
  match s.spareCores d with
  | [] => s.loseConsort c
  | p :: _ =>
    let dcore := s.hmapNum d 0 9
    let s := s.setHmap d 0 9 (dcore - 2 ^ p + 2 ^ s.hmapNum d o 1)
    let s := s.setHmap d 9 9 (s.hmapNum d 9 9 - 2 ^ p)
    (s.setHmap d o 1 p).logRepair d 0 (c % 64) o

/-- The repairs that wait are applied to the cores of a set. Log entry 96, DEDUCED. -/
def State.applyRepairs (s : State) (on : Nat → Bool) : State :=
  let due := s.chip.broken.filter fun (b : Nat × Option Nat) => on b.1
  let s := { s with chip := { s.chip with broken := s.chip.broken.filter fun (b : Nat × Option Nat) => !on b.1 } }
  due.foldl (fun s b => match b.2 with
    | some row => s.replaceRow b.1 row
    | none => s.replaceCore b.1) s

/-! ### Accession records -/

/-- The accession record of some data under a binding (R411). -/
def State.accessionRecord (s : State) (binding data : List Byte) : List Byte :=
  signedRecord s.chip.number (toBytes 4 1 ++ toBytes 4 0 ++ toBytes 8 data.length ++ fit 64 binding
    ++ toBytes 32 (Config.shake256 data) ++ toBytes 8 s.chip.serial ++ toBytes 2 s.chip.number)

end Sys2Proof.Machine
end

