-- ==== Sys2Proof/Machine/Teardown.lean ====
section
/-! DEFINITION. The end of contexts and partitions (19 R401, R404, R405): cancelled launches, what a context leaves, the scrub
of a partition's halves, its page-table image, and its end. -/

namespace Sys2Proof.Machine

/-! ### Pages that finish a command -/

/-- A page's command is done. -/
def State.pageDone (s : State) (page stat : Nat) : State :=
  s.setPage page { s.page page with busy := false, stat := stat, wait := none, waitPart := none }

/-- A page's command is done, with a result. -/
def State.pageAnswer (s : State) (page res : Nat) : State :=
  (s.setPage page { s.page page with res := w64 res }).pageDone page 0

/-- Every page that waits on a context, or on a partition, has its command done. -/
def State.doneCtx (s : State) (x stat : Nat) : State :=
  { s with pages := mapVals (fun _ (g : Page) =>
      if g.wait = some x then { g with busy := false, stat := stat, wait := none } else g) s.pages }
def State.donePart (s : State) (p : Nat) : State :=
  { s with pages := mapVals (fun _ (g : Page) =>
      if g.waitPart = some p then { g with busy := false, stat := 0, waitPart := none } else g) s.pages }

/-! ### Launches (R405; 16 R353) -/

/-- The records that stand in a queue become launches that have ended. -/
def takeQueued (s : State) (p q : Nat) : (fuel : Nat) → State
  | 0 => s
  | n + 1 =>
    let k := s.queue p q
    if ahead k.dispatch k.prod = 0 ∨ ahead k.dispatch k.prod ≥ 2 ^ 31 then s
    else
      let t := s.setQueue p q { k with dispatch := (k.dispatch + 1) % 2 ^ 32 }
      if (s.launchAt p q k.dispatch).isSome then takeQueued t p q n
      else
        let va := k.slotVa k.dispatch
        match s.lnRead p k.ctx va 128 with
        | .got bs =>
          if le bs 0x60 4 ≠ k.dispatch ∨ le bs 0x70 4 ≥ 3 then s
          else
            let l := launchOf p q k.dispatch k.ctx va bs
            let count :=
              if l.rdrv then (match s.lnRead p k.ctx (le bs 0x58 8) 4 with | .got t => fromBytes t | _ => 0) else l.ngroups
            takeQueued (t.setLaunch (fresh s.launches) { l with ngroups := count, ending := some (6, 9) }) p q n
        | _ => s

/-- Every launch of a context is cancelled, with status 6 and detail 9; its groups count as never finished.
Log entry 59, DEDUCED. -/
def State.cancelLaunches (s : State) (x : Nat) : State :=
  let p := (s.ctx x).part
  let s := (List.range 64).foldl (fun s q =>
    let k := s.queue p q
    if k.bound ∧ k.ctx = x ∧ k.on ∧ ¬ k.fresh then takeQueued s p q 4096 else s) s
  let mine := (s.launches.filter fun l => l.2.ctx == x && decide (l.2.status < 3)).map Prod.fst
  mine.foldl (fun s n =>
    let l := s.launch n
    (s.setLaunch n { l with placed := l.finished, ending := some (l.ending.getD (6, 9)) }).launchSettle n) s

/-! ### The end of a context -/

/-- A context is destroyed: nothing of it stays but the provenance of its pages. -/
def State.destroyCtx (s : State) (x : Nat) : State :=
  let p := (s.ctx x).part
  let s := (s.cancelLaunches x).freeCtx x
  let pt := s.part p
  let s := s.setPart p { pt with faults := pt.faults.filter fun (r : Nat × FaultRec) => r.2.ctx != x }
  let s := { s with
    chip := { s.chip with tickets := s.chip.tickets.filter fun t => t.2.ctx != x }
    queues := mapVals (fun _ (q : Queue) =>
      let q : Queue := if (q.bind.map fun (b : Nat × Nat) => b.1) = some x then { q with bind := none } else q
      if q.bound ∧ q.ctx = x then { bind := q.bind }
      else if (q.cur.map fun n => (s.launch n).ctx) = some x then { q with cur := none } else q) s.queues
    launches := s.launches.filter fun l => l.2.ctx != x
    ctxs := del s.ctxs x }
  s.doneCtx x 0

/-- The contexts that a partition holds. -/
def State.partCtxs (s : State) (p : Nat) : List Nat :=
  (s.ctxs.filter fun c => c.2.part == p && c.2.state != .none).map Prod.fst

/-! ### The halves of a partition (R402, R404) -/

def halfSize : Nat := 2 ^ 35
def halvesOf (m : Nat) : List Nat := those 24 (bit m)

/-- The start of the lowest half of a mask. -/
def lowestHalf (m : Nat) : Nat := (halvesOf m).headD 0 * halfSize

/-- Every page of a half becomes free: no translation, zeros, and the byte 0 (18 R380). -/
def State.scrubHalf (s : State) (h : Nat) : State :=
  let a := h * halfSize
  let out (x : Nat) : Bool := decide (x < a) || decide (a + halfSize ≤ x)
  let s := s.clearRange a halfSize
  { s with
    tlb := mapVals (fun _ ts => ts.filter fun t => !t.maps a halfSize) s.tlb
    prov := s.prov.filter fun p => out (65536 * p.1) }

/-- The halves of a partition are scrubbed. -/
def State.scrub (s : State) (p : Nat) : State := (halvesOf (s.part p).halves).foldl State.scrubHalf s

/-- The page-table image goes to the start of the lowest half, whose pages world 0 then owns; what is poisoned in the
host's memory is poisoned in the copy. -/
def State.loadImage (s : State) (p : Nat) : State :=
  let pt := s.part p
  let src := hostBase + pt.ptimg
  let dst := lowestHalf pt.halves
  let inside (a : Nat) : Bool := decide (src ≤ a) && decide (a < src + pt.ptlen)
  let cells := s.mem.filter fun c => inside c.1
  let bad := (s.poison.filter fun (w : Nat × Bool) => inside w.1).map fun (w : Nat × Bool) => protAt (dst + (w.1 - src))
  let s := { s with mem := cells.foldl (fun m (c : Host.Cell) => writeByte m (dst + (c.1 - src)) c.2) s.mem }
  let s := bad.foldl (fun s w => s.markPoison w true) s
  { s with prov := (List.range (ceilDiv pt.ptlen 65536)).foldl (fun m i => set 0 m (dst / 65536 + i) 1) s.prov }

/-! ### The end of a partition's contexts (R405) -/

/-- What follows the end of a partition's last context: PRESET applies the repairs that wait for it (20 R421) and makes the partition
ready again, PDESTROY frees it. -/
def State.finishReset (s : State) (p : Nat) : State :=
  let pt := s.part p
  let s := { s.scrub p with queues := s.queues.filter fun q => q.1 / 64 != p }
  let s :=
    if pt.closing = 1 then
      ((s.applyRepairs fun c => bit pt.consorts (c / 4)).setPart p { pt with closing := 0, stvec := 0, stvecOld := [], hold := false, faults := [], waiting := [], hangs := [] }).loadImage p
    else
      (s.setPart p { pt with
        closing := 0, live := false, consorts := 0, halves := 0, worlds := 0, sstab := 0, sscount := 0, hold := false
        faults := [], waiting := [], hangs := [] }).closeUsage p true
  s.donePart p

/-- A context is destroyed; with the last one a partition's reset goes on. -/
def State.endCtx (s : State) (x : Nat) : State :=
  let p := (s.ctx x).part
  let s := s.destroyCtx x
  if (s.part p).closing ≠ 0 ∧ (s.partCtxs p).isEmpty then s.finishReset p else s

/-- The end of a context begins: it stops first, where gangs of it may run. -/
def State.beginEnd (s : State) (x : Nat) : State :=
  let c := s.ctx x
  match c.state with
  | .resident => let s := s.stopCtx x false; s.setCtx x { s.ctx x with ending := true }
  | .stopping => s.setCtx x { c with ending := true }
  | .failed =>
    (s.stopGangs x).setCtx x { c with state := .stopping, ending := true, quietFor := 0 }
  | .none => s
  | .quiescent | .halted | .saved => s.endCtx x

/-- The contexts of a partition end, for PRESET (1) or PDESTROY (2). -/
def State.beginReset (s : State) (p how : Nat) : State :=
  let s := s.setPart p { s.part p with closing := how }
  match s.partCtxs p with
  | [] => s.finishReset p
  | xs => xs.foldl State.beginEnd s

/-- The stop of a context has ended: it is quiescent, halted, or destroyed. -/
def State.stopEnds (s : State) (x : Nat) : State :=
  let ending := (s.ctx x).ending
  let s := s.quiesced x
  if ending then s.endCtx x else s

end Sys2Proof.Machine
end

