-- ==== Sys2Proof/Machine/Context.lean ====
section
/-! DEFINITION. The supervisor family (18 R392 to R397): SWR, TLBINV, SPLV, FILV, QUIESCE, CTXSAVE, CTXLOAD, KEYSEL, HALT, and
the events of chapter 18: page walks, the fault ring, quiescence, page export and import. -/

namespace Sys2Proof.Machine

open Host (Outcome)

/-! ### SWR (R393; 01 R36, R37) -/

/-- Writes a register other than sys.wdepth; reserved bits ignore the write. Log entry 36, DEDUCED. -/
def State.sysWrite (s : State) (e : Issue) (n : Nat) (v : W64) : State :=
  let g := s.gang e.gk
  let w := lo32 v
  let sys (f : Sys → Sys) : State := s.setGang e.gk { g with sys := f g.sys }
  let frame (f : Frame → Frame) : State := s.setGang e.gk { g with frame := f g.frame }
  match n with
  | 16 => sys fun x => { x with fpctl := w &&& 0x1F#32 }
  | 17 => sys fun x => { x with fpflags := x.fpflags &&& ~~~w }
  | 18 => sys fun x => { x with gflags := x.gflags &&& ~~~w }
  | 19 => sys fun x => { x with utvec := v }
  | 20 =>
    let p := s.partOf g
    let pt := s.part p
    let old := (s.clock, pt.stvec) :: pt.stvecOld.filter fun o => decide (s.clock < o.1 + 800)
    s.setPart p { pt with stvec := v, stvecOld := old }
  | 24 => frame fun x => { x with tmask := w }
  | 25 => frame fun x => { x with tpc := v }
  | 26 => frame fun x => { x with tcause := w &&& 0x3FF#32 }
  | 27 => frame fun x => { x with taux := v }
  | 28 => frame fun x => { x with tdone := w }
  | 29 => frame fun x => { x with tmode := w }
  | 32 => sys fun x => { x with rlost := x.rlost &&& ~~~w }
  | 33 => sys fun x => { x with
      parks := if bits w.toNat 16 16 = 0 then x.parks else 0
      high := if bits w.toNat 8 6 = 0 then x.high else 0 }
  | 34 =>
    let b := w.toNat % 2 ^ 11
    let k := s.core g.core
    s.setCore g.core { k with backoff := if 1 ≤ b ∧ b ≤ 1024 then b else 1024 }
  | _ => s

def execSwr (d a : BitVec 6) : State → Outcome State Fault Refusal :=
  issue (.swr d a) fun e s =>
    let l := lowest e.act
    let v := if sys64 d.toNat then e.g.readPair l a.toNat else (e.g.readV l a.toNat).setWidth 64
    if d.toNat = 10 then
      let b := v.toNat
      let n := (s.group e.g.group).ring
      let ok := b % 32 == 0 && e.ss.all fun i =>
        let low := (e.g.slice i).low
        decide (low ≤ b) && decide (b + 48 ≤ n + low)
      if ok then (s.setGang e.gk (e.g.onSlices e.ss fun _ x => { x with base := b })).advance e.gk e.ss
      else s.badOperand e 1 a.toNat
    else (s.sysWrite e d.toNat v).advance e.gk e.ss

/-! ### TLBINV (R394) -/

/-- A translation of a context: any, or one of the page that holds an address. -/
def Tlb.meant (t : Tlb) (x : Nat) (all : Bool) (va : Nat) : Bool := t.ctx == x && (all || t.vpn * 65536 / t.size == va / t.size)

/-- Removes a context's translations from one buffer: every one, or those of the page that holds an address. -/
def State.dropFrom (s : State) (u x : Nat) (all : Bool) (va : Nat) : State :=
  { s with tlb := mapVals (fun k ts => if k = u then ts.filter fun t => !t.meant x all va else ts) s.tlb }

/-- The core uses the die's translations of the context no more: what it needs is walked afresh. -/
def State.stalePages (s : State) (core x : Nat) (all : Bool) (va : Nat) : State :=
  { s with tlb := mapVals (fun k ts =>
      if k = dieTlb (core / 64) then ts.map fun (t : Tlb) => if t.meant x all va then { t with stale := core :: t.stale } else t
      else ts) s.tlb }

/-- The buffers of a scope around a core: 0 the core's, 1 those of its die, 2 all. -/
def scopeBuffers (core scope : Nat) : List Nat :=
  match scope with
  | 0 => [core]
  | 1 => dieTlb (core / 64) :: (List.range 64).map (core / 64 * 64 + ·)
  | _ => (List.range 4).map dieTlb ++ List.range 256

def execTlbinv (a b : BitVec 6) : State → Outcome State Fault Refusal :=
  issue (.tlbinv a b) fun e s =>
    let w := e.low b
    let va := (e.g.readPair (lowest e.act) a.toNat).toNat
    if w % 4 = 3 ∨ bits w 2 2 ≠ 0 ∨ w / 32 ≠ 0 then s.badOperand e 2 b.toNat
    else if e.g.counts.stores ≠ 0 then s.stall e.gk e.ss (.counts 31 0 31 7)
    else
      let x := s.ctxOf e.g
      let s := s.storesSeen e.gk
      let s := if w % 4 = 0 then s.stalePages e.g.core x (bit w 4) va else s
      ((scopeBuffers e.g.core (w % 4)).foldl (fun s u => s.dropFrom u x (bit w 4) va) s).advance e.gk e.ss

/-! ### SPLV and FILV (R395) -/

/-- The slice that b names, where it is present and can move. -/
def winSlice (e : Issue) (b : Nat) (fill : Bool) : Option Nat :=
  if b < e.g.nslices ∧ (fill → (e.g.slice b).low ≥ 32) then some b else none

/-- The places of the four lanes' 128 bytes, or the first fault. -/
def State.winPlaces (s : State) (e : Issue) (base : Nat) (wr : Bool) : Except Flt (List (Nat × Nat × Nat)) :=
  ((List.range 4).flatMap fun k => (segments ((base + 128 * k) % 2 ^ 64) 128).map fun p => (k, p)).mapM fun (k, va, n) =>
    match s.xlate e.g.core (s.ctxOf e.g) va n wr with
    | .ok pa _ => .ok (k, pa, n)
    | r => .error ((xlFlt va (b2n wr) r).getD {})

/-- Where a place of a lane starts within the lane's 128 bytes. -/
def placeOffs (ps : List (Nat × Nat × Nat)) : List (Nat × Nat × Nat × Nat) :=
  ps.zipIdx.map fun ((k, pa, n), i) =>
    (k, (ps.take i).foldl (fun o q => if q.1 = k then o + q.2.2 else o) 0, pa, n)

/-- The 32 slots from `lo` on of a lane, as bytes. -/
def Gang.slotBytes (g : Gang) (l lo : Nat) : List Byte :=
  (List.range 32).flatMap fun i => toBytes 4 (get 0 g.regs.vec (slotKey l (16 + lo + i))).toNat

/-- The lane's slots from `lo` on take 128 bytes. -/
def Gang.setSlots (g : Gang) (l lo : Nat) (bs : List Byte) : Gang :=
  { g with regs := { g.regs with vec := (List.range 32).foldl (fun m i =>
      set 0 m (slotKey l (16 + lo + i)) (w32 (le bs (4 * i) 4))) g.regs.vec } }

/-- What SPLV and FILV check before they move anything; `f` gets the slice and its places. -/
def State.winMove (s : State) (e : Issue) (a b : BitVec 6) (fill : Bool)
    (f : Nat → List (Nat × Nat × Nat × Nat) → State → State) : State :=
  let base := (e.g.readPair (lowest e.act) a.toNat).toNat
  match winSlice e (e.low b) fill with
  | none => s.badOperand e 2 b.toNat
  | some i =>
    if base % 16 ≠ 0 then s.fail e.gk e.ss (alignFlt base) e.act 0 e.pc
    else if ¬ e.g.work.stores.isEmpty then s.stall e.gk e.ss .older
    else match s.winPlaces e base (!fill) with
      | .error x => s.fail e.gk e.ss x e.act 0 e.pc
      | .ok ps =>
        if ¬ (s.part (s.partOf e.g)).linked ∧ ps.any (fun p => isHost p.2.1) then s.stall e.gk e.ss .link
        else f i (placeOffs ps) ((List.range 4).foldl (fun s k => s.fillTlb e.g.core (s.ctxOf e.g) (base + 128 * k)) s)

def execSplv (a b : BitVec 6) : State → Outcome State Fault Refusal :=
  issue (.splv a b) fun e s => s.winMove e a b false fun i ps s =>
    let low := (e.g.slice i).low
    let base := (e.g.readPair (lowest e.act) a.toNat).toNat
    let s := ps.foldl (fun s (k, o, pa, n) =>
      if has e.g.present (4 * i + k) then
        (protWords pa n).foldl (fun s w =>
          let lo := max pa w
          let hi := min (pa + n) (w + protSize w)
          let bs := ((e.g.slotBytes (4 * i + k) low).drop (o + (lo - pa))).take (hi - lo)
          s.performLane e.gk (base + 128 * k + o + (lo - pa)) lo bs) s
      else s) s
    let s := ps.foldl (fun s (_, _, pa, n) => s.meter (s.partOf e.g) (corePort e.g.core) n pa) s
    (s.setGang e.gk ((s.gang e.gk).onSlices [i] fun _ x => { x with low := low + 32 })).advance e.gk e.ss

def execFilv (a b : BitVec 6) : State → Outcome State Fault Refusal :=
  issue (.filv a b) fun e s => s.winMove e a b true fun i ps s =>
    let low := (e.g.slice i).low
    let base := (e.g.readPair (lowest e.act) a.toNat).toNat
    match ps.find? fun (_, _, pa, n) => s.poisoned pa n || s.unreachable pa with
    | some (k, o, pa, _) =>
      let va := base + 128 * k + o
      (s.logAnywhere 3 e.gk pa 0).fail e.gk e.ss { code := cPoison, aux := memAux 0 va, va := va } e.act 0 e.pc
    | none =>
      let g := (List.range 4).foldl (fun (g : Gang) k =>
        if has e.g.present (4 * i + k) then
          g.setSlots (4 * i + k) (low - 32) ((ps.filter fun p => p.1 == k).flatMap fun p => s.bytes p.2.2.1 p.2.2.2)
        else g) (s.gang e.gk)
      let s := s.setGang e.gk (g.onSlices [i] fun _ x => { x with low := low - 32 })
      (ps.foldl (fun s (_, _, pa, n) => s.meter (s.partOf e.g) (corePort e.g.core) n pa) s).advance e.gk e.ss

/-! ### QUIESCE, CTXSAVE, CTXLOAD, KEYSEL (R396) -/

/-- The result word, in every active lane. -/
def State.answer (s : State) (e : Issue) (d : BitVec 6) (x : Nat) : State := (s.writeAll e d.toNat (w32 x)).advance e.gk e.ss

/-- The target is no context of the partition (1), or the issuing one (2). -/
def State.targetBad (s : State) (e : Issue) (x : Nat) : Option Nat :=
  if (s.ctx x).state = .none ∨ (s.ctx x).part ≠ s.partOf e.g then some 0x80000001
  else if x = s.ctxOf e.g then some 0x80000002
  else none

def execQuiesce (d a : BitVec 6) : State → Outcome State Fault Refusal :=
  issue (.quiesce d a) fun e s =>
    let x := e.low a
    if x ≥ 64 then s.badOperand e 1 a.toNat
    else match s.targetBad e x with
      | some r => s.answer e d r
      | none => match (s.ctx x).state with
        | .resident | .stopping => (s.stopCtx x false).stall e.gk e.ss (.context x)
        | .quiescent | .halted => s.answer e d (s.imageUnits x)
        | .saved | .failed | .none => s.answer e d 0x80000003

/-- The pages of an image at an address, or the fault of the first that has none. -/
def State.imagePlaces (s : State) (e : Issue) (va units : Nat) (wr : Bool) : Except (Nat × Xl) (List Nat) :=
  (List.range units).mapM fun u =>
    match s.xlate e.g.core (s.ctxOf e.g) (va + 4096 * u) 4096 wr with
    | .ok pa _ => .ok pa
    | r => .error (va + 4096 * u, r)

/-- A page fault of a save or load parks the issuer, which executes the instruction again (R396; R377 kind 2, agent 3); any
other failure traps. -/
def State.imageFault (s : State) (e : Issue) (va : Nat) (wr : Bool) (r : Xl) : State :=
  match r with
  | .miss m =>
    let (s, seq) := s.postEngineMiss (s.partOf e.g) (s.ctxOf e.g) va 3 m { gang := some e.gk }
    let g := s.gang e.gk
    s.setGang e.gk { g with
      page := some { seq := seq, slices := e.ss, lanes := e.act }
      sched := { g.sched with park := some .page, active := false, outside := 0 } }
  | r => s.fail e.gk e.ss ((xlFlt va (b2n wr) r).getD {}) e.act 0 e.pc

def execCtxsave (d a b : BitVec 6) : State → Outcome State Fault Refusal :=
  issue (.ctxsave d a b) fun e s =>
    let x := e.low a
    let va := (e.g.readPair (lowest e.act) b.toNat).toNat
    let c := s.ctx x
    let prot := decide (c.world ≠ 0)
    if x ≥ 64 then s.badOperand e 1 a.toNat
    else match s.targetBad e x with
      | some r => s.answer e d r
      | none =>
        if c.state ≠ .quiescent ∧ c.state ≠ .halted then s.answer e d 0x80000003
        else if prot ∧ c.key = none then s.answer e d 0x80000004
        else if va % 4096 ≠ 0 then s.fail e.gk e.ss (alignFlt va) e.act 0 e.pc
        else
          let n := if prot then c.saveS + 1 else 0
          let v := s.takeImage x n
          match s.imagePlaces e va (v.stored.length / 4096) true with
          | .error (va, r) => s.imageFault e va true r
          | .ok ps =>
            if ¬ (s.part (s.partOf e.g)).linked ∧ ps.any isHost then s.stall e.gk e.ss .link
            else
              let s := (ps.zipIdx).foldl (fun s (pa, u) =>
                if s.unreachable pa then s.memError e.gk 2 (va + 4096 * u) pa
                else s.engStore pa ((v.stored.drop (4096 * u)).take 4096)) s
              let s := s.freeCtx x
              let s := (s.setCtx x { c with
                state := .saved, saveS := if prot then n else c.saveS, expectX := if prot then some n else c.expectX
                saved := v :: c.saved }).tick1
              s.answer e d 0

/-- What the bytes of a load give: a result word, or the image. Log entry 23, DEDUCED. -/
def State.checkImage (c : Ctx) (x : Nat) (bs : List Byte) : Nat ⊕ Saved :=
  let prot := decide (c.world ≠ 0)
  if le bs 0 4 ≠ 1 ∨ le bs 4 4 ≠ b2n prot ∨ le bs 0x10 4 ≠ x + c.world * 65536 then .inl 0x80000005
  else if prot ∧ c.expectX ≠ some (le bs 8 8) then .inl 0x80000007
  else if prot then
    match c.saved.find? fun v => v.counter == le bs 8 8 && some v.key == c.key && v.stored == bs with
    | some v => .inr v
    | none => .inl 0x80000008
  else match c.saved.findSome? fun v => v.open_ bs with
    | some v => if v.fitsCores then .inr v else .inl 0x80000005
    | none => .inl 0x80000005

/-- The units to read: as many as the header says, but for a header that no image has. -/
def imageLength (h : List Byte) : Nat := if le h 0 4 = 1 then max 1 (le h 0x14 4) else 1

def execCtxload (d a b : BitVec 6) : State → Outcome State Fault Refusal :=
  issue (.ctxload d a b) fun e s =>
    let x := e.low a
    let va := (e.g.readPair (lowest e.act) b.toNat).toNat
    let c := s.ctx x
    let p := s.partOf e.g
    if x ≥ 64 then s.badOperand e 1 a.toNat
    else match s.targetBad e x with
      | some r => s.answer e d r
      | none =>
        if c.state ≠ .saved then s.answer e d 0x80000003
        else if va % 4096 ≠ 0 then s.fail e.gk e.ss (alignFlt va) e.act 0 e.pc
        else
          let read (n : Nat) : Except (Nat × Xl) (List Byte × List Nat) :=
            (s.imagePlaces e va n false).map fun ps => (ps.flatMap fun pa => s.bytes pa 4096, ps)
          match (read 1).bind fun h => read (imageLength h.1) with
          | .error (va, r) => s.imageFault e va false r
          | .ok (bs, ps) =>
            if ¬ (s.part p).linked ∧ ps.any isHost then s.stall e.gk e.ss .link
            else if ps.any fun pa => s.poisoned pa 4096 || s.unreachable pa then
              let pa := ((ps.find? fun pa => s.poisoned pa 4096 || s.unreachable pa).getD 0)
              (s.logAnywhere 3 e.gk pa 0).fail e.gk e.ss { code := cPoison, aux := memAux 0 va, va := va } e.act 0 e.pc
            else match State.checkImage c x bs with
              | .inl r => s.answer e d r
              | .inr v =>
                match placeBlocks (s.coreFree p) s.free v.blocks [] with
                | none => s.answer e d 0x80000006
                | some cores =>
                  match s.streamPlaces p cores v with
                  | none => s.answer e d 0x80000006
                  | some streams =>
                    let s := (s.placeImage x v cores streams).tick1
                    let s := s.setCtx x { c with
                      state := .resident, halting := false, expectX := if c.world = 0 then c.expectX else none }
                    s.answer e d 0

/-- KEYSEL (18 R396). Log entry 34, DEDUCED. -/
def execKeysel (d a b : BitVec 6) : State → Outcome State Fault Refusal :=
  issue (.keysel d a b) fun e s =>
    let x := e.low a
    let c := s.ctx x
    let here := decide (c.state ≠ .none) && c.part == s.partOf e.g
    if x ≥ 64 then s.badOperand e 1 a.toNat
    else match Config.keyWorld s.chip.epoch (e.low b) with
      | none => s.answer e d 0x80000001
      | some w =>
        if here ∧ w ≠ c.world then s.answer e d 0x80000002
        else if ¬ here ∨ c.world = 0 then s.answer e d 0x80000003
        else (s.setCtx x { c with key := some (e.low b + s.chip.epoch * 2 ^ 32) }).answer e d 0

/-! ### HALT (R397) -/

def execHalt (a : BitVec 6) : State → Outcome State Fault Refusal :=
  issue (.halt a) fun e s =>
    let x := s.ctxOf e.g
    let r : FaultRec :=
      { kind := 5, ctx := x, gang := some e.gk, addr := e.pc.toNat, detail := e.low a, pcs := e.g.pcs }
    ((s.postRecord (s.partOf e.g) r).advance e.gk e.ss).stopCtx x true

/-! ### Events (R375, R376, R381, R382, R384) -/

/-- PAGE_WALK: a walk of a context that a core serves, or (from 1024 on) for a die, fills the buffers where it succeeds; a
fault is the requester's (R375). -/
def execPageWalk (x c va : Nat) (s : State) : Outcome State Fault Refusal :=
  if va ≥ 2 ^ 56 ∨ (s.ctx x).state ≠ .resident then .next s
  else if c < 256 then (if (s.core c).ctx = some x then .next (s.fillTlb c x va) else .next s)
  else if 1024 ≤ c ∧ c < 1028 then
    match s.pageOf [c] x va with
    | .ok page ro => .next (s.hold c x va page ro (s.pageSize [c] x va))
    | _ => .next s
  else .next s

/-- FAULT_RING_RETRY: the ring's header is read again (R376). -/
def execFaultRingRetry (p : Nat) (s : State) : Outcome State Fault Refusal :=
  .next (s.ringTurn p)

/-- QUIESCENT: the tree has been high for 1,024 cycles (R384). -/
def execQuiescent (x : Nat) (s : State) : Outcome State Fault Refusal :=
  let c := s.ctx x
  if c.state = .stopping ∧ s.stopSettled x ∧ c.quietFor ≥ 1024 then .next (s.stopEnds x) else .next s

/-- Every translation that maps the page, in part or whole, leaves every buffer (R380 step 1). -/
def State.dropPage (s : State) (pa : Nat) : State :=
  { s with tlb := mapVals (fun _ ts => ts.filter fun t => !t.maps pa 65536) s.tlb }

/-- A page's provenance byte is written. -/
def State.setProv (s : State) (pa : Nat) (b : Nat) : State := { s with prov := set 0 s.prov (pa / 65536) (BitVec.ofNat 8 b) }

/-- The world under whose key a page with a byte is encrypted (R378). -/
def keyOf (prov : Nat) : Nat := if prov % 4 = 2 then 0 else prov / 4

/-- A page that is neither filled with zero nor keeps its key reads as other bytes than were written (R378). Log entry 88,
DESIGN CHOICE. -/
def State.rekey (s : State) (pa : Nat) (old new : Nat) : State :=
  if keyOf old = keyOf new then s
  else
    let plain := s.bytes pa 65536
    (s.storeAll pa ((List.range 65536).map (Config.garbled s.free plain))).tick1

/-- Ecolmut changes a page's byte (R380): a page that becomes free, or owned by a new world, is filled with zero. -/
def State.changePage (s : State) (pa : Nat) (b : Nat) : State :=
  let s := s.dropPage pa
  let old := s.provOf pa
  let newOwner := b % 4 = 1 ∧ ¬ (old / 4 = b / 4 ∧ (old % 4 = 1 ∨ old % 4 = 2))
  let s := if b % 4 = 0 ∨ newOwner then s.clearRange pa 65536 else s.rekey pa old b
  s.setProv pa b

/-- The additional data of an exported page. -/
def exportAad (w t v : Nat) : List Byte := toBytes 4 w ++ toBytes 4 t ++ toBytes 8 v

/-- PAGE_EXPORT: a page of a protected context's world goes to a host buffer: ciphertext, version, tag (R381). -/
def execPageExport (x pa buf : Nat) (s : State) : Outcome State Fault Refusal :=
  let c := s.ctx x
  let w := c.world
  let owned := pa % 65536 == 0 && isHbm pa && s.provOf pa == w * 4 + 1
  if w = 0 ∨ c.state = .none ∨ ¬ owned ∨ ¬ isHost (hostBase + buf) ∨ ¬ (s.part c.part).linked then .next s
  else
    let t := s.chip.nextTicket
    let v := get 0 s.chip.versions w + 1
    let plain := s.bytes pa 65536
    let tag := Config.gcmTag (w + s.chip.epoch * 64) v (exportAad w t v ++ plain)
    let text := (List.range 65536).map (Config.sealed s.free plain)
    let k : Ticket := { ctx := x, world := w, version := v, tag := tag, plain := plain, sealing := s.free }
    let s := s.storeAll (hostBase + buf) (text ++ toBytes 8 v ++ toBytes 16 tag)
    let chip := { s.chip with
      tickets := put s.chip.tickets t k, nextTicket := (t + 1) % 2 ^ 32, versions := put s.chip.versions w v }
    .next (({ s with chip := chip }.changePage pa 0).tick1)

/-- An integrity fault ends a context (R382): every gang takes it at its next boundary, and TRET from its handler stops the
gang. -/
def State.failCtx (s : State) (x t : Nat) : State :=
  let c := s.ctx x
  let s := if c.ending then s else (s.setCtx x { c with state := .failed }).doneCtx x 3
  (s.ctxGangs x).foldl (fun s gk =>
    let s := s.setGang gk { s.gang gk with stopped := c.ending && (s.gang gk).stopped }
    s.post gk { code := cIntegrity, aux := w64 t }) s

/-- PAGE_IMPORT: a ticket's page comes back to a free page of the device, or the page is quarantined and the context fails
(R381, R382). -/
def execPageImport (p t pa buf : Nat) (s : State) : Outcome State Fault Refusal :=
  match find s.chip.tickets t with
  | none => .next s
  | some k =>
    let free := pa % 65536 == 0 && isHbm pa && s.provOf pa % 4 == 0 && s.provOf pa / 4 != 63
    if (s.ctx k.ctx).part ≠ p ∨ ¬ free ∨ ¬ isHost (hostBase + buf) ∨ ¬ (s.part p).linked then .next s
    else
      let a := hostBase + buf
      let text := (List.range 65536).map (Config.sealed k.sealing k.plain)
      let good := s.bytes a 65536 == text && s.num (a + 65536) 8 == k.version && s.num (a + 65544) 16 == k.tag
      if good then
        let s := s.changePage pa (k.world * 4 + 1)
        .next { s.storeAll pa k.plain with chip := { s.chip with tickets := del s.chip.tickets t } }
      else
        let s := s.changePage pa 3
        let s := (s.logError 5 (some (p, k.world, k.ctx)) (Config.errorUnit s.free) t 0).tick1
        .next ((s.postRecord p { kind := 6, ctx := k.ctx, addr := pa, detail := t }).failCtx k.ctx t)

end Sys2Proof.Machine
end

