-- ==== Sys2Proof/Machine/Host.lean ====
section
/-! DEFINITION. What the host does (chapter 19): the commands of the control pages and of the management page (R400 to R405),
register writes, resets and the link (R399), accesses to device memory (18 R379) and SPDM (R398). -/

namespace Sys2Proof.Machine

open Host (Outcome)

/-! ### Commands (R400, R401) -/

/-- A control page is reached while its function's TDI is in RUN; the management page always (R398). -/
def State.pageOpen (s : State) (page : Nat) : Bool := if page < 8 then (s.part page).linked else page == 8

/-- A write of cmd: ignored while a command runs; the arguments are read now. Log entry 78, DEDUCED. -/
def State.command (s : State) (page : Nat) (f : List Nat → State → State) : State :=
  let g := s.page page
  if g.busy ∨ ¬ s.pageOpen page then s else f (g.args.map BitVec.toNat) s

/-- A command of a control page, whose partition must be ready. Log entry 60, DESIGN CHOICE. -/
def State.control (s : State) (p : Nat) (f : List Nat → State → State) : State :=
  if p ≥ 8 then s
  else s.command p fun a s => if (s.part p).live ∧ (s.part p).closing = 0 then f a s else s.pageDone p 3

/-- The context belongs to the partition. -/
def State.owns (s : State) (p x : Nat) : Bool := (s.ctx x).state != .none && (s.ctx x).part == p

/-- The address is HBM of the partition. -/
def State.inPart (s : State) (p pa : Nat) : Bool := isHbm pa && bit (s.part p).halves (pa / halfSize)

/-- A range of host memory. -/
def hostRange (pa n : Nat) : Bool := decide (pa + n ≤ 2 ^ 51)

/-- QBIND. -/
def State.qbind (s : State) (p : Nat) : State :=
  s.control p fun a s =>
    let q := nth a 0 % 64
    let x := bits (nth a 0) 8 6
    if ¬ s.owns p x ∨ nth a 1 % 64 ≠ 0 ∨ nth a 1 ≥ 2 ^ 56 then s.pageDone p 2
    else (s.setQueue p q { s.queue p q with bind := some (x, nth a 1) }).pageDone p 0

/-- CTXNEW. -/
def State.ctxnew (s : State) (p : Nat) : State :=
  s.control p fun a s =>
    let x := nth a 0 % 64
    let w := bits (nth a 0) 16 6
    let rt := bit (nth a 0) 24
    let root := nth a 1
    let c := s.ctx x
    if c.state ≠ .none ∧ c.part ≠ p then s.pageDone p 2
    else if c.state ≠ .none then s.pageDone p 3
    else if (w ≠ 0 ∧ ¬ bit (s.part p).worlds w) ∨ root % 8192 ≠ 0 ∨ ¬ s.inPart p root ∨ s.provOf root ≠ 4 * w + 1 ∨ (rt ∧ w ≠ 0) then
      s.pageDone p 2
    else if rt ∧ s.ctxs.any fun o => o.2.part == p && o.2.state != .none && o.2.runtime then s.pageDone p 3
    else (s.setCtx x { state := .resident, part := p, root := root, world := w, runtime := rt }).pageDone p 0

/-- CTXSTOP: done when the context is quiescent. -/
def State.ctxstop (s : State) (p : Nat) : State :=
  s.control p fun a s =>
    let x := nth a 0 % 64
    if ¬ s.owns p x then s.pageDone p 2
    else match (s.ctx x).state with
      | .resident | .stopping => (s.setPage p { s.page p with busy := true, wait := some x }).stopCtx x false
      | .quiescent | .halted => s.pageDone p 0
      | .saved | .failed | .none => s.pageDone p 3

/-- The end of a context, which a page waits for. -/
def State.endFor (s : State) (page x : Nat) : State := (s.setPage page { s.page page with busy := true, wait := some x }).beginEnd x

/-- CTXEND. -/
def State.ctxend (s : State) (p : Nat) : State :=
  s.control p fun a s =>
    let x := nth a 0 % 64
    if s.owns p x then s.endFor p x else s.pageDone p 2

/-- The agents of a partition that wait for a record resume (18 R377): gangs re-execute, engines and launcher walk again. -/
def State.resumeAgents (s : State) (p seq : Nat) : State :=
  let s := { s with
    gangs := mapVals (fun _ (g : Gang) =>
      if (g.page.map fun (f : PageFault) => f.seq) = some seq ∧ s.partOf g = p then g.unpark else g) s.gangs
    streams := mapVals (fun _ (c : StreamCtx) =>
      if c.fault = some seq ∧ (s.group c.group).part = p then
        { c with fault := none, state := if c.stopping then 3 else 1, stopping := false }
      else c) s.streams
    bulks := mapVals (fun _ (b : Bulk) =>
      if b.fault = some seq ∧ b.part = p then { b with fault := none } else b) s.bulks
    queues := mapVals (fun k (q : Queue) =>
      if k / 64 = p then
        { q with fault := if q.fault = some seq then none else q.fault, hfault := if q.hfault = some seq then none else q.hfault }
      else q) s.queues }
  let mine := (s.launches.filter fun (l : Nat × Launch) =>
    l.2.part == p && (l.2.addWait == some seq || l.2.statWait == some seq)).map Prod.fst
  mine.foldl (fun s n =>
    let l := s.launch n
    (s.setLaunch n { l with
      addWait := if l.addWait = some seq then none else l.addWait
      statWait := if l.statWait = some seq then none else l.statWait }).launchSettle n) s

/-- FRESUME and FEND: the record of a kind 1 or 2 that is still unanswered. -/
def State.answerFault (s : State) (p : Nat) (f : FaultRec → Nat → State → State) : State :=
  s.control p fun a s =>
    let seq := nth a 0 % 2 ^ 32
    match find (s.part p).faults seq with
    | some r =>
      if r.kind = 1 ∨ r.kind = 2 then
        f r seq (s.setPart p { s.part p with faults := del (s.part p).faults seq })
      else s.pageDone p 2
    | none => s.pageDone p 2

def State.fresume (s : State) (p : Nat) : State := s.answerFault p fun _ seq s => (s.resumeAgents p seq).pageDone p 0
def State.fend (s : State) (p : Nat) : State :=
  s.answerFault p fun r _ s => if s.owns p r.ctx then s.endFor p r.ctx else s.pageDone p 0

/-- THAW (R399, R401). Log entry 61, DESIGN CHOICE. -/
def State.thaw (s : State) (p : Nat) : State :=
  s.control p fun _ s =>
    let pt := s.part p
    if ¬ (s.chip.session ∧ pt.session ∧ pt.ide) then s.pageDone p 3
    else
      let back (c : Ctx) : Bool := c.part == p && c.state == .quiescent && c.linkStop && c.world != 0
      let gangs := mapVals (fun _ (g : Gang) =>
        if back (s.ctx (s.ctxOf g)) then { g with stopped := false, sched := { g.sched with active := false } } else g) s.gangs
      let ctxs := mapVals (fun _ (c : Ctx) => if back c then { c with state := .resident, linkStop := false } else c) s.ctxs
      { s with gangs := gangs, ctxs := ctxs }.pageDone p 0

/-- BIND. -/
def State.bindCtx (s : State) (p : Nat) : State :=
  s.control p fun a s =>
    let x := nth a 0 % 64
    if ¬ s.owns p x ∨ ¬ hostRange (nth a 1) 64 then s.pageDone p 2
    else (s.setCtx x { s.ctx x with binding := some (s.bytes (hostBase + nth a 1) 64) }).pageDone p 0

/-- Ecolmut reads, or may write, bytes of a context: none where a page is absent, refused or poisoned. -/
def State.ecolPlaces (s : State) (x va n : Nat) (wr : Bool) : Option (List (Nat × Nat)) :=
  if va + n > 2 ^ 56 then none
  else match s.lnPlaces x va n wr with
    | .error _ => none
    | .ok ps => if ¬ wr ∧ ps.any (fun q => s.poisoned q.1 q.2 || s.unreachable q.1) then none else some ps

/-- ACCESSION (R411). -/
def State.accession (s : State) (p : Nat) : State :=
  s.control p fun a s =>
    let x := nth a 0 % 64
    let va := nth a 1
    if ¬ s.owns p x ∨ va % 4096 ≠ 0 then s.pageDone p 2
    else match (s.ctx x).binding with
      | none => s.pageDone p 3
      | some b => match s.ecolPlaces x (va + 4096) (nth a 2) false, s.ecolPlaces x va 4096 true with
        | some ps, some ds =>
          let bs := s.accessionRecord b (ps.flatMap fun q => s.bytes q.1 q.2)
          let (s, _) := ds.foldl (fun (r : State × List Byte) q => (r.1.storeAll q.1 (r.2.take q.2), r.2.drop q.2)) (s, bs)
          { s with chip := { s.chip with serial := s.chip.serial + 1 } }.pageDone p 0
        | _, _ => s.pageDone p 5

/-- A page may take a provenance byte (R401, 18 R380). -/
def State.pgsetOk (s : State) (p pa b : Nat) : Bool :=
  let w := b / 4
  let now := s.provOf pa
  s.inPart p pa && (w == 0 || (w != 63 && bit (s.part p).worlds w)) && now / 4 != 63 && (now % 4 != 3 || b % 4 == 0)
    && !(now % 4 == 1 && b % 4 == 0 && s.ctxs.any fun c => c.2.state != .none && c.2.world == now / 4)

/-- PGSET page by page; the first refused page ends it. -/
def pgsetFrom (s : State) (p b pa : Nat) : (n : Nat) → State
  | 0 => s.pageDone p 0
  | n + 1 =>
    if s.pgsetOk p pa b then pgsetFrom (s.changePage pa b) p b (pa + 65536) n
    else (s.pageAnswer p pa).pageDone p 5

/-- PGSET. -/
def State.pgset (s : State) (p : Nat) : State :=
  s.control p fun a s =>
    if nth a 0 % 65536 ≠ 0 then s.pageDone p 2 else pgsetFrom s p (nth a 2 % 256) (nth a 0) (nth a 1)

/-- SSTAB: the table lies in pages of the partition that world 0 owns (R410). -/
def State.sstabCmd (s : State) (p : Nat) : State :=
  s.control p fun a s =>
    let pa := nth a 0
    let n := nth a 1
    let pages := ceilDiv (pa % 65536 + 16 * n) 65536
    let ok := decide (pa % 16 = 0) && decide (n < 2 ^ 32)
      && (List.range pages).all fun i => s.inPart p (pa + 65536 * i) && s.provOf (pa + 65536 * i) == 1
    if ok then (s.setPart p { s.part p with sstab := pa, sscount := n }).pageDone p 0 else s.pageDone p 2

/-! ### The management page (R402 to R405) -/

/-- What PCREATE checks (R402, R403): masks, creation block, worlds. -/
def State.createOk (s : State) (cons halves blk : Nat) (b : List Byte) : Bool :=
  let live := s.parts.filter fun p => p.2.live
  let worlds := field b 0x28 8
  cons != 0 && halves != 0 && cons &&& s.chip.unavailable == 0 && hostRange blk 256
    && (live.all fun p => p.2.consorts &&& cons == 0 && p.2.halves &&& halves == 0 && p.2.worlds &&& worlds == 0)
    && decide (field b 0x14 2 ≤ 512) && field b 0x16 2 == 0 && (b.drop 0x40).all (· == 0) && !bit worlds 0 && !bit worlds 63
    && decide (field b 0x38 8 ≤ 2 ^ 28) && field b 0x38 8 % 8192 == 0 && hostRange (field b 0x18 8) 64 && hostRange (field b 0x20 8) 64
    && hostRange (field b 0x30 8) (field b 0x38 8)

/-- PCREATE (R404). -/
def State.pcreate (s : State) : State :=
  s.command 8 fun a s =>
    let p := nth a 0 % 8
    let cons := nth a 1
    let halves := nth a 2 % 2 ^ 24
    let b := s.bytes (hostBase + nth a 3) 256
    let old := s.part p
    if old.live then s.pageDone 8 3
    else if ¬ s.createOk cons halves (nth a 3) b then s.pageDone 8 2
    else if ¬ s.firmwareValid then s.pageDone 8 5
    else
      let budgets := (List.range 5).map fun i => field b (4 * i) 4
      let s := s.setPart p {
        live := true, consorts := cons, halves := halves, budgets := budgets, balance := budgets.map fun (n : Nat) => (n : Int)
        period := s.clock / 25000, sshare := field b 0x14 2, fring := field b 0x18 8, uring := field b 0x20 8
        worlds := field b 0x28 8, ptimg := field b 0x30 8, ptlen := field b 0x38 8, born := s.clock, hprev := firstHash p s.clock
        up := old.up, tdi := old.tdi, ide := old.ide, session := old.session }
      ({ s.scrub p with queues := s.queues.filter fun q => q.1 / 64 != p }.loadImage p).pageAnswer 8 (lowestHalf halves)

/-- PRESET (1) and PDESTROY (2) from the management page (R405). Log entry 67, DEDUCED. -/
def State.resetPart (s : State) (how : Nat) : State :=
  s.command 8 fun a s =>
    let p := nth a 0 % 8
    if ¬ (s.part p).live then s.pageDone 8 3
    else
      let s := s.setPage 8 { s.page 8 with busy := true, waitPart := some p }
      if (s.part p).closing ≠ 0 then s.setPart p { s.part p with closing := max how (s.part p).closing } else s.beginReset p how

/-- CHIPSET. -/
def State.chipset (s : State) : State :=
  s.command 8 fun a s =>
    if s.chip.ports.any fun p => p.2.up then s.pageDone 8 3
    else { s with chip := { s.chip with number := nth a 0 % 2 ^ 12 } }.pageDone 8 0

/-- A command by its code. -/
def State.runCommand (s : State) (page code : Nat) : State :=
  match (if page < 8 then decide (code < 0x20) else decide (0x20 ≤ code)), code with
  | true, 0x01 => s.qbind page
  | true, 0x02 => s.ctxnew page
  | true, 0x03 => s.ctxstop page
  | true, 0x04 => s.ctxend page
  | true, 0x05 => s.fresume page
  | true, 0x06 => s.fend page
  | true, 0x07 => s.thaw page
  | true, 0x08 => s.bindCtx page
  | true, 0x09 => s.accession page
  | true, 0x0A => s.pgset page
  | true, 0x0B => s.sstabCmd page
  | true, 0x20 => s.pcreate
  | true, 0x21 => s.resetPart 1
  | true, 0x22 => s.resetPart 2
  | true, 0x23 => s.chipset
  | _, _ => s.command page fun _ s => s.pageDone page 1

def execQbind (p : Nat) (s : State) : Outcome State Fault Refusal := .next (s.qbind p)
def execCtxnew (p : Nat) (s : State) : Outcome State Fault Refusal := .next (s.ctxnew p)
def execCtxstop (p : Nat) (s : State) : Outcome State Fault Refusal := .next (s.ctxstop p)
def execCtxend (p : Nat) (s : State) : Outcome State Fault Refusal := .next (s.ctxend p)
def execFresume (p : Nat) (s : State) : Outcome State Fault Refusal := .next (s.fresume p)
def execFend (p : Nat) (s : State) : Outcome State Fault Refusal := .next (s.fend p)
def execThaw (p : Nat) (s : State) : Outcome State Fault Refusal := .next (s.thaw p)
def execBind (p : Nat) (s : State) : Outcome State Fault Refusal := .next (s.bindCtx p)
def execAccession (p : Nat) (s : State) : Outcome State Fault Refusal := .next (s.accession p)
def execPgset (p : Nat) (s : State) : Outcome State Fault Refusal := .next (s.pgset p)
def execSstab (p : Nat) (s : State) : Outcome State Fault Refusal := .next (s.sstabCmd p)
def execPcreate (s : State) : Outcome State Fault Refusal := .next s.pcreate
def execPreset (s : State) : Outcome State Fault Refusal := .next (s.resetPart 1)
def execPdestroy (s : State) : Outcome State Fault Refusal := .next (s.resetPart 2)
def execChipset (s : State) : Outcome State Fault Refusal := .next s.chipset

/-! ### Register writes (R400; 20 R419) -/

/-- A write to a control page or the management page: cmd, tok and the arguments; others are reserved or read only.
Log entry 71, DEDUCED. -/
def State.pageWrite (s : State) (page off val : Nat) : State :=
  if ¬ s.pageOpen page then s
  else
    let g := s.page page
    if off = 0 then s.runCommand page (val % 256)
    else if off = 4 then s.setPage page { g with tok := w32 val }
    else if 8 ≤ off ∧ off < 0x28 ∧ off % 8 = 0 then s.setPage page { g with args := g.args.set (off / 8 - 1) (w64 val) }
    else s

/-- A write to the service page. Of a misaligned ering the low six bits are cleared (R419; log entry 102, DESIGN CHOICE). -/
def State.serviceWrite (s : State) (off val : Nat) : State :=
  let c := s.chip
  let v := val % 2 ^ 64
  let n := val % 16
  match off with
  | 0x000 => { s with chip := { c with ering := v / 64 * 64 } }
  | 0x008 => { s with chip := { c with elsize := if 1 ≤ n ∧ n ≤ 12 then n else 12 } }
  | 0x010 => { s with chip := { c with fwpa := v } }
  | 0x018 => { s with chip := { c with fwlen := val % 2 ^ 32 } }
  | _ => s

/-- What the host gives Ecolmut (R406): a chip with its identity digest and, above it, its measurements stands in the admission
list, or a chip in the trusted group of a world. Log entry 66, DESIGN CHOICE. -/
def State.admitChip (s : State) (chip val : Nat) : State :=
  let a : Nat × Nat × Nat := (chip % 4096, val % 2 ^ 256, val / 2 ^ 256)
  { s with chip := { s.chip with admitted := s.chip.admitted.filter (· != a) ++ [a] } }
def State.trustChip (s : State) (world chip : Nat) : State :=
  let group := get [] s.chip.trusted world
  { s with chip := { s.chip with trusted := put s.chip.trusted world (group.filter (· != chip % 4096) ++ [chip % 4096]) } }

/-- REGISTER_WRITE: pages 0–7 are the control pages, 8 the management page, 9 the service page; 10 and 11 stand for what the host
gives Ecolmut. -/
def execRegisterWrite (page off val : Nat) (s : State) : Outcome State Fault Refusal :=
  .next (if page ≤ 8 then s.pageWrite page off val else if page = 9 then s.serviceWrite off val
    else if page = 10 then s.admitChip off val else if page = 11 then s.trustChip off val else s)

/-! ### Register reads (00 R8; R398, R400; 20 R419) -/

/-- The readable registers of a control page or the management page: offset, width and value. Every other byte reads zero, cmd
and the reserved bits among them. -/
def Page.regs (g : Page) : List (Nat × Nat × Nat) :=
  [(4, 4, g.tok.toNat), (0x28, 4, g.stat % 2 ^ 31 + b2n g.busy * 2 ^ 31), (0x30, 8, g.res.toNat)]
    ++ g.args.zipIdx.map fun (v, i) => (8 + 8 * i, 8, v.toNat)

/-- The registers of the service page. -/
def Chip.regs (c : Chip) : List (Nat × Nat × Nat) :=
  [(0, 8, c.ering), (8, 4, c.elsize), (0xC, 4, c.errors.length), (0x10, 8, c.fwpa), (0x18, 4, c.fwlen), (0x20, 8, c.corr)]

/-- The byte at an offset of some registers. -/
def regByte (rs : List (Nat × Nat × Nat)) (o : Nat) : Byte :=
  match rs.find? fun r => decide (r.1 ≤ o) && decide (o < r.1 + r.2.1) with
  | some r => BitVec.ofNat 8 (r.2.2 / 2 ^ (8 * (o - r.1)))
  | none => 0

/-- A byte of the service page: the registers, and the harvest maps. -/
def State.serviceByte (s : State) (o : Nat) : Byte :=
  if 0x100 ≤ o ∧ o < 0x900 then s.hmapByte ((o - 0x100) / 512) ((o - 0x100) % 512) else regByte s.chip.regs o

/-- A byte of BAR0 of a function: VF 1 to 8 are 0 to 7, PF0 is 8. Doorbells read zero. -/
def State.barByte (s : State) (fn o : Nat) : Byte :=
  if o < 0x1000 then regByte (s.page fn).regs o
  else if fn = 8 ∧ 0x2000 ≤ o ∧ o < 0x3000 then s.serviceByte (o - 0x2000) else 0

/-- A read of BAR0 is answered while the link carries the function. -/
def State.barRead (s : State) (fn o n : Nat) : Option Nat :=
  if fn < 8 ∧ ¬ (s.part fn).up ∨ fn > 8 then none else some (fromBytes ((List.range n).map fun i => s.barByte fn (o + i)))

/-! ### Resets and the link (R399) -/

/-- The boot ROM verifies the firmware (20 R423, R424): a staged image that is valid replaces the one that runs, any other leaves it;
what runs then is verified as at each reset, and a record reports on a staged image. -/
def State.bootFirmware (s : State) (pa len : Nat) : State :=
  let img := s.bytes (hostBase + pa) len
  let ok := decide (len ≠ 0) && hostRange pa len && firmwareOk img
  let s := if ok then { s with chip := { s.chip with image := some img } } else s
  let s := { s with chip := { s.chip with boot := some (firmwareOk s.firmware) } }
  if len = 0 then s else (s.logError 6 none (unitOf 0 4 0) 0 (Config.firmwareDetail s.free ok)).tick1

/-- HOT_RESET: every key, context and partition is gone and every port is down; host memory stays as it is, and the repairs that
wait are applied (20 R421). Log entry 66, DESIGN CHOICE. -/
def execHotReset (s : State) : Outcome State Fault Refusal :=
  let kept (a : Nat) : Bool := isHost a || decide (a ≥ 2 ^ 62)
  let c := s.chip
  let chip : Chip := { c with
    ports := mapVals (fun _ (p : Port) => { p with up := false, key := none }) c.ports, flits := [], trusted := [], spdm := 0, session := false
    tickets := [], ering := 0, elsize := 0, fwpa := 0, fwlen := 0, corr := 0, corrUnit := [], epoch := c.epoch + 1 }
  let s : State := { State.reset with
    agenda := s.agenda, turn := s.turn, free := s.free, names := s.names
    mem := s.mem.filter fun (m : Host.Cell) => kept m.1, poison := s.poison.filter fun (w : Nat × Bool) => kept w.1 && decide (w.1 < 2 ^ 80), chip := chip }
  .next ((s.applyRepairs fun _ => true).bootFirmware c.fwpa c.fwlen)

/-- VF_FLR: partition `p` is reset under R405, and the registers of its function. -/
def execVfFlr (p : Nat) (s : State) : Outcome State Fault Refusal :=
  if p ≥ 8 then .next s
  else
    let s := s.setPage p {}
    if (s.part p).live ∧ (s.part p).closing = 0 then .next (s.beginReset p 1) else .next s

/-- The protected contexts of a partition stop as on a link loss. -/
def State.linkStops (s : State) (p : Nat) (all : Bool) : State :=
  let xs := (s.ctxs.filter fun c => c.2.part == p && c.2.state == .resident && (all || c.2.world != 0)).map Prod.fst
  xs.foldl (fun s x => let s := s.stopCtx x false; s.setCtx x { s.ctx x with linkStop := true }) s

/-- LINK_DOWN: the link of a partition's function is lost, or its TDI leaves RUN for CONFIG_UNLOCKED or ERROR; THAW needs a newer
session and newer keys. Log entry 61, DESIGN CHOICE. -/
def execLinkDown (p : Nat) (s : State) : Outcome State Fault Refusal :=
  if p ≥ 8 then .next s
  else
    let (t, s) := s.pick [Tdi.run, .unlocked, .error]
    let pt := { s.part p with ide := false, session := false }
    let pt : Part := if t = some .run then { pt with up := false } else { pt with tdi := t.getD .error }
    .next ((s.setPart p pt).linkStops p false)

/-- LINK_RETURN: the link is up and the TDI in RUN; what waits for host memory goes on, the launches' writes at once. -/
def execLinkReturn (p : Nat) (s : State) : Outcome State Fault Refusal :=
  if p ≥ 8 then .next s
  else
    let s := s.setPart p { s.part p with up := true, tdi := .run }
    .next (s.ringTurn p)

/-- IDE_KEY_PROGRAMMING: an unlocked TDI is locked with its keys. Log entry 61, DESIGN CHOICE. -/
def execIdeKeyProgramming (p : Nat) (s : State) : Outcome State Fault Refusal :=
  if p ≥ 8 then .next s
  else
    let pt := s.part p
    .next (s.setPart p { pt with ide := true, tdi := if pt.tdi = .unlocked then .locked else pt.tdi })

/-! ### Host accesses to memory (18 R379; 07 R168; 20 R416) -/

/-- The host may reach these bytes of HBM: every page is host-shared or owned by world 0. -/
def State.hostMay (s : State) (a n : Nat) : Bool :=
  decide (a + n ≤ hbmEnd) && (List.range ((a + n - 1) / 65536 + 1 - a / 65536)).all fun i =>
    provAllows 0 (s.provOf ((a / 65536 + i) * 65536))

/-- The partition whose half holds an HBM address has its link down. -/
def State.carried (s : State) (a : Nat) : Bool :=
  !s.parts.any fun p => p.2.live && isHbm a && bit p.2.halves (a / halfSize) && !p.2.linked

/-- What an AtomicOp stores: FetchAdd, Swap, compare and swap. -/
def hostAtomic (op n old data cmp : Nat) : Nat :=
  if op = 2 then (old + data) % 2 ^ (8 * n) else if op = 3 then data else if old = cmp % 2 ^ (8 * n) then data else old

/-- HOST_MEMORY_ACCESS: `op` is 0 read, 1 write, 2 FetchAdd, 3 Swap, 4 CAS of `n` bytes; addresses from 2^51 on are the host's
own memory. 5 reads registers: byte `addr` mod 2^16 of BAR0 of a function. Log entry 70, DEDUCED. -/
def execHostMemoryAccess (op addr n data cmp : Nat) (s : State) : Outcome State Fault Refusal :=
  let own := decide (hostBase ≤ addr) && decide (addr + n ≤ physEnd)
  let shape := decide (0 < n) && decide (n ≤ 4096) && decide (op ≤ 4) && (decide (op < 2) || ((n == 4 || n == 8) && decide (addr % n = 0)))
  let reply (s : State) (r : Reply) : State := { s with chip := { s.chip with reply := r } }
  if op = 5 then
    .next (match s.barRead (addr / 2 ^ 16) (addr % 2 ^ 16) n with
      | some v => reply s { value := v }
      | none => s)
  else if ¬ own ∧ ¬ s.carried addr then .next s
  else if ¬ shape ∨ ¬ (own ∨ s.hostMay addr n) then
    .next (reply { s with chip := { s.chip with logged := s.chip.logged + 1 } } { status := 1 })
  else
    let old := s.num addr n
    let bad := s.poisoned addr n
    let d := data % 2 ^ (8 * n)
    match op with
    | 0 => .next (reply s { value := old, poison := bad })
    | 1 => .next (reply (s.setNum addr n d) {})
    | _ =>
      if bad then .next (reply s { value := old, poison := true })
      else .next (reply (s.setNum addr n (hostAtomic op n old d cmp)) { value := old })

/-! ### SPDM (R398; 20 R423) -/

/-- A request is answered where the connection is far enough, else with an error. The body of a response is the protocol's. -/
def State.spdmAnswer (s : State) (code nonce : Nat) (ready : Bool) (f : Chip → Chip) (data : List Byte) (sign : Bool) : State :=
  if ready then
    let body := (List.range 32).map (Config.spdmByte code nonce) ++ data
    let sig := if sign then (List.range 3309).map (Config.signature s.chip.number (body ++ toBytes 32 nonce)) else []
    { s with chip := { f s.chip with mail := body ++ sig } }
  else { s with chip := { s.chip with mail := (List.range 4).map (Config.spdmByte 0x7F code) } }

/-- The connection has come to a state. Log entry 62, PRESUMED. -/
def State.spdmAt (s : State) (n : Nat) : Bool := decide (s.chip.spdm ≥ n)

/-- The request is answered once algorithms are negotiated. -/
def State.spdmPlain (s : State) (code nonce : Nat) (data : List Byte) (sign : Bool) : State :=
  s.spdmAnswer code nonce (s.spdmAt 3) id data sign

def execGetVersion (s : State) : Outcome State Fault Refusal :=
  .next (s.spdmAnswer 0x84 0 true (fun c => { c with spdm := 1 }) [] false)
def execGetCapabilities (s : State) : Outcome State Fault Refusal :=
  .next (s.spdmAnswer 0xE1 0 (s.spdmAt 1) (fun c => { c with spdm := 2 }) [] false)
def execNegotiateAlgorithms (s : State) : Outcome State Fault Refusal :=
  .next (s.spdmAnswer 0xE3 0 (s.spdmAt 2) (fun c => { c with spdm := 3 }) [] false)
def execGetDigests (s : State) : Outcome State Fault Refusal := .next (s.spdmPlain 0x81 0 (toBytes 32 Config.identityDigest) false)
def execGetCertificate (s : State) : Outcome State Fault Refusal := .next (s.spdmPlain 0x82 0 [] false)
def execChallenge (nonce : Nat) (s : State) : Outcome State Fault Refusal := .next (s.spdmPlain 0x83 nonce [] true)
def execGetMeasurements (nonce : Nat) (s : State) : Outcome State Fault Refusal :=
  .next (s.spdmPlain 0xE0 nonce ((List.range 4).flatMap fun i => toBytes 32 (s.measure (i + 1))) true)
def execKeyExchange (nonce : Nat) (s : State) : Outcome State Fault Refusal :=
  .next (s.spdmAnswer 0xE4 nonce (s.spdmAt 3) (fun c => { c with spdm := 4 }) [] true)

/-- FINISH completes the handshake: there is a current session, newer than every link loss. -/
def execFinish (s : State) : Outcome State Fault Refusal :=
  let ok := s.chip.spdm == 4
  let s := s.spdmAnswer 0xE5 0 ok (fun c => { c with spdm := 3, session := true }) [] false
  .next (if ok then { s with parts := mapVals (fun _ (p : Part) => { p with session := true }) s.parts } else s)

def execKeyUpdate (s : State) : Outcome State Fault Refusal := .next (s.spdmAnswer 0xE9 0 s.chip.session id [] false)
def execEndSession (s : State) : Outcome State Fault Refusal :=
  .next (s.spdmAnswer 0xEC 0 s.chip.session (fun c => { c with session := false }) [] false)

end Sys2Proof.Machine
end

