-- ==== Sys2Proof/Machine/Repair.lean ====
section
/-! DEFINITION. Hutur links, peers, metering records and repair: the events of chapter 19 (R406 to R414) and chapter 20. -/

namespace Sys2Proof.Machine

open Host (Outcome)

/-! ### Hutur links (19 R406, R407) -/

/-- The port exists (00 R1). -/
def isPort (n : Nat) : Bool := decide (n < 12)

/-- An event that the manual logs under no record kind. -/
def State.logged1 (s : State) : State := { s with chip := { s.chip with logged := s.chip.logged + 1 } }

/-- PORT_TRAINING: the port is admitted, with link keys of a new session, where the peer's identity digest and measurements stand in the admission list. -/
def execPortTraining (port chip digest meas : Nat) (s : State) : Outcome State Fault Refusal :=
  if ¬ isPort port then .next s
  else
    let ok := s.chip.admitted.any fun (a : Nat × Nat × Nat) => a == (chip, digest, meas)
    let n := s.chip.sessions
    let s := { s with chip := { s.chip with
      ports := put s.chip.ports port { up := ok, chip := chip, key := if ok then some n else none }, sessions := n + b2n ok } }
    .next (if ok then s else s.logged1)

/-- HUTUR_PORT_DOWN: the session of the port is gone. -/
def execHuturPortDown (port : Nat) (s : State) : Outcome State Fault Refusal :=
  .next { s with chip := { s.chip with ports := upd s.chip.ports port fun p => { p with up := false, key := none } } }

/-- Flits buffered ahead are accepted as far as they follow in sequence. -/
def Flits.drain : (fuel : Nat) → Flits → Flits
  | 0, f => f
  | n + 1, f =>
    match f.ahead.find? fun a => a.1 == f.expect with
    | some (_, d) => Flits.drain n { f with
        expect := (f.expect + 1) % 2 ^ 32, delivered := f.delivered ++ [d], ahead := f.ahead.filter fun a => a.1 != f.expect
        acks := f.acks ++ [f.expect] }
    | none => f

/-- A flit arrives: accepted in sequence and acknowledged, buffered up to 64 ahead, dropped beyond; a duplicate is discarded and
acknowledged again. -/
def Flits.receive (f : Flits) (seq data : Nat) : Flits :=
  let d := (seq + 2 ^ 32 - f.expect) % 2 ^ 32
  if d = 0 then
    { f with expect := (f.expect + 1) % 2 ^ 32, delivered := f.delivered ++ [data], acks := f.acks ++ [f.expect] }.drain 64
  else if d ≥ 2 ^ 31 then { f with acks := f.acks ++ [seq] }
  else if d ≤ 64 ∧ ¬ f.ahead.any fun a => a.1 == seq then { f with ahead := f.ahead ++ [(seq, data)] }
  else f

/-- The answer to a flit comes with poison: what the flit asked for is poisoned (20 R416). -/
def State.answerPoisoned (s : State) (f : Flits) (seq : Nat) : State :=
  (f.unacked.filter fun u => u.seq == seq).foldl (fun s u => (protWords u.flat u.len).foldl (fun s w => s.markPoison w true) s) s

/-- FLIT_RECEIVE: `data` 0 is the acknowledgement of a flit of this chip, 1 one whose answer carries poison, anything else a payload.
Log entry 103, DESIGN CHOICE. -/
def execFlitReceive (src seq data : Nat) (s : State) : Outcome State Fault Refusal :=
  if ¬ s.anyPort then .next s
  else
    let seq := seq % 2 ^ 32
    let f := get {} s.chip.flits src
    let s := if data = 1 then s.answerPoisoned f seq else s
    let f := if data ≤ 1 then { f with unacked := f.unacked.filter fun u => u.seq != seq } else f.receive seq data
    .next { s with chip := { s.chip with flits := put s.chip.flits src f } }

/-- The first flit that waited for a port or for the end of a containment, or whose acknowledgement is overdue, is sent, again up to 64
times. -/
def State.resendFirst (s : State) : List Flit → List Flit × Option Flit
  | [] => ([], none)
  | u :: us =>
    if ¬ s.flitsOut u.part then let (vs, r) := s.resendFirst us; (u :: vs, r)
    else if ¬ u.sent then let v := { u with sent := true, at_ := s.clock }; (v :: us, some v)
    else if u.at_ + 10000 ≤ s.clock ∧ u.tries < 64 then let v := { u with tries := u.tries + 1, at_ := s.clock }; (v :: us, some v)
    else let (vs, r) := s.resendFirst us; (u :: vs, r)

/-- FLIT_RESEND: after 10,000 cycles without an acknowledgement; the 64th resend makes the destination unreachable, which a
record reports (20 R420); a flit that could not leave before leaves now (20 R425). Log entry 64, DEDUCED. -/
def execFlitResend (dst : Nat) (s : State) : Outcome State Fault Refusal :=
  match find s.chip.flits dst with
  | none => .next s
  | some f =>
    match s.resendFirst f.unacked with
    | (_, none) => .next s
    | (us, some u) =>
      let s := { s with chip := { s.chip with flits := put s.chip.flits dst { f with unacked := us } } }
      let s := s.meterFlit u.part
      .next (if u.tries = 64 then (s.logError 7 none (Config.errorUnit s.free) 0 0).tick1 else s)

/-! ### Crossbar requests (19 R408) -/

/-- The deliveries of loads on their way: gang and delivery number. -/
def State.underway (s : State) : List (Nat × Nat) :=
  s.gangs.flatMap fun (g : Nat × Gang) => (g.2.work.flight.filter fun d => d.loads && d.entry.isNone).map fun d => (g.1, d.id)

/-- A request of a flow arrives once more at its unit, which knows its number: it suppresses the duplicate and acknowledges it. -/
def State.crossAgain (s : State) (c : Option (Nat × Nat)) : State :=
  match c with
  | none => s
  | some (k, n) => if n < (get {} s.chip.flows k).expect then s.crossAck c else s

/-- CROSSBAR_RESEND: the `i`-th request on its way has had no answer for 2,048 cycles and is sent again, through a die bridge where its
port is marked failing. -/
def execCrossbarResend (i : Nat) (s : State) : Outcome State Fault Refusal :=
  match s.underway[i]? with
  | none => .next s
  | some (gk, id) =>
    let g := s.gang gk
    let overdue := g.work.flight.find? fun d => d.id == id && decide (d.at_ + 2048 ≤ s.clock)
    match overdue with
    | none => .next s
    | some d =>
      let flight := g.work.flight.map fun (d : Deliv) => if d.id = id then { d with at_ := s.clock } else d
      let s := s.setGang gk { g with work := { g.work with flight := flight } }
      let beats := Config.beats s.free 0 * (if s.portFails (corePort g.core) then 2 else 1)
      .next (((s.crossAgain d.cross).charge (s.partOf g) 4 beats).tick1)

/-! ### Peers (19 R409, R410; 20 R416) -/

/-- What a peer's request does at a place of this chip: 0 read, 1 store, 2 to 9 the element operations of 07 R166 on type
`t`, 10 compare and swap, whose data holds the expected value and above it the new one; `bad` marks a store's data poisoned. -/
def State.servePeer (s : State) (kind t n data a : Nat) (bad : Bool) : State :=
  let reply (s : State) (r : Reply) : State := { s with chip := { s.chip with reply := r } }
  let old := s.num a n
  let d := data % 2 ^ (8 * n)
  match kind with
  | 0 => reply s { value := old, poison := s.poisoned a n }
  | 1 =>
    if bad then reply (s.storePoisoned a (toBytes n d)) {}
    else let (s, refused) := (s.setNum a n d, s.refusedByPoison a n); reply s { poison := refused }
  | _ =>
    if s.poisoned a n then reply s { poison := true }
    else
      let new := if kind = 10 then (casGroup old [(d, data / 2 ^ (8 * n) % 2 ^ (8 * n))]).2 else amo (kind - 2) t old d
      reply (s.setNum a n new) { value := old }

/-- PEER_WINDOW_ACCESS: `op` is the kind, plus 16 times the partition, plus 1,024 times the type code, plus 2^15 where the data is
poisoned. -/
def execPeerWindowAccess (op blk off n data world tier : Nat) (s : State) : Outcome State Fault Refusal :=
  let kind := op % 16
  let p := bits op 4 6
  let pt := s.part p
  if ¬ s.anyPort ∨ ¬ pt.live ∨ pt.hold ∨ kind > 10 ∨ n = 0 ∨ n > 128 then .next s
  else match s.secondStage p blk off n world tier (kind != 0) with
    | none => .next { s with chip := { s.chip with reply := { status := 1 } } }
    | some a =>
      if isHost a ∧ ¬ pt.linked then .next s
      else .next ((s.servePeer kind (bits op 10 5) n data a (bit op 15)).meter p 102 n a)

/-! ### Metering records (19 R413, R414) -/

/-- USAGE_RECORD_CLOSE. -/
def execUsageRecordClose (p : Nat) (s : State) : Outcome State Fault Refusal := .next (s.usageDue p)

/-- RING_RECORD_WRITE: rings 0–7 are the partitions' usage rings, 8 is the error ring. -/
def execRingRecordWrite (r : Nat) (s : State) : Outcome State Fault Refusal :=
  .next (if r < 8 then s.writeUsage r else if r = 8 then s.writeError else s)

/-! ### Scrubbing (20 R415, R416, R420) -/

/-- The unit behind an address: a stack of HBM, or the core of a pool or operand buffer. -/
def State.unitAt (s : State) (a : Nat) : Nat :=
  if isHbm a then unitOf (a / 2 ^ 36 / 3) 2 (a / 2 ^ 36 % 3)
  else
    let c := if a ≥ 2 ^ 60 then (a - 2 ^ 60) / 2 ^ 18 else (s.group ((a - 2 ^ 56) / 2 ^ 24)).core
    unitOf (c / 64) 0 (c % 64)

/-- The partition, world and context behind an address. -/
def State.ownerAt (s : State) (a : Nat) : Option (Nat × Nat × Nat) :=
  if isHbm a then
    match s.parts.find? fun (p : Nat × Part) => p.2.live && bit p.2.halves (a / halfSize) with
    | some p => some (p.1, if s.provOf a % 4 = 1 then s.provOf a / 4 else 255, 255)
    | none => none
  else
    let own (x : Nat) : Option (Nat × Nat × Nat) := some ((s.ctx x).part, s.worldOf x, x)
    if a ≥ 2 ^ 60 then (s.core ((a - 2 ^ 60) / 2 ^ 18)).ctx.bind own else own (s.group ((a - 2 ^ 56) / 2 ^ 24)).ctx

/-- A word of memory that the scrubber reads. -/
def State.scrubbed (s : State) (a : Nat) : Bool :=
  isHbm a || (decide (2 ^ 60 ≤ a) && decide (a < bufBase 256))
    || (decide (2 ^ 56 ≤ a) && decide (a < 2 ^ 60) && (s.group ((a - 2 ^ 56) / 2 ^ 24)).live)

/-- A corrected error is counted; 2^16 of one unit within 2^40 cycles raise a record. -/
def State.corrected (s : State) (unit pa : Nat) : State :=
  let c := s.chip
  let recent := (get [] c.corrUnit unit).filter fun t => decide (s.clock < t + 2 ^ 40)
  let all := recent ++ [s.clock]
  let due := decide (all.length ≥ 2 ^ 16)
  let s := { s with chip := { c with
    corr := min (c.corr + 1) (2 ^ 64 - 1), corrUnit := put c.corrUnit unit (if due then [] else all) } }
  if due then s.logError 1 (s.ownerAt pa) unit pa 0 else s

/-- The home slice that holds a place, as a unit. -/
def State.sliceUnit (s : State) (a : Nat) : Nat := unitOf (s.sliceOf a / 32) 1 (s.sliceOf a % 32)

/-- A word that a home slice held poisoned is written back poisoned to its word of HBM. -/
def State.writeBack (s : State) (w : Nat) : State := (s.markPoison w false).markPoison (protAt (markPlace w)) true

/-- What the scrubber finds in a 64-bit word of HBM that a home slice holds (R415): it is corrected (3), poisoned in a dirty line (4), or
the line is written back (5); an error in a clean line has the line fetched again. -/
def State.scrubSlice (s : State) (addr err : Nat) : State :=
  let w := sliceMark addr
  if ¬ isHbm addr then s
  else match err with
    | 3 => if s.isPoison w then s else s.corrected (s.sliceUnit addr) (markPlace w)
    | 4 => if s.isPoison w then s else (s.markPoison w true).logError 2 (s.ownerAt addr) (s.sliceUnit addr) (markPlace w) 0
    | 5 => if s.isPoison w then s.writeBack w else s
    | _ => s

/-- PATROL_SCRUB: the word reads well (0), is corrected in place (1), or is poisoned (2), which in host memory is the host's own doing
and reaches the device as EP; from 3 on the word is one that a home slice holds. Log entry 63, DESIGN CHOICE. -/
def execPatrolScrub (addr err : Nat) (s : State) : Outcome State Fault Refusal :=
  let w := protAt addr
  if isHost addr then .next (if err = 2 then s.markPoison w true else s)
  else if err ≥ 3 then .next (s.scrubSlice addr err)
  else if ¬ s.scrubbed addr ∨ s.isPoison w then .next s
  else match err with
    | 1 => .next (s.corrected (s.unitAt addr) w)
    | 2 => .next ((s.markPoison w true).logError 2 (s.ownerAt addr) (s.unitAt addr) w 0)
    | _ => .next s

/-! ### Repair (20 R421, R422) -/

/-- A home slice of a die serves an address, its neighbour's too where that has failed (11 R278). -/
def State.servedBy (s : State) (die sl a : Nat) : Bool := isHbm a && s.sliceOf a == 32 * die + sl

/-- The location of an access whose outcome is uncertain is poisoned. -/
def State.poisonAt (s : State) (a n : Nat) : State := (protWords a n).foldl (fun s w => s.markPoison w true) s

/-- The head of a gang's store queue was sent to a home slice whose acknowledgement is lost: in the lanes that it serves, the
location is poisoned and the gang takes deferred memory error. -/
def State.loseStore (s : State) (die sl gk : Nat) : State :=
  let g := s.gang gk
  match g.work.stores with
  | [] => s
  | q :: _ => match accessOf q.entry.mode q.entry.instr with
    | none => s
    | some x =>
      let m := q.entry.active
      let ads := x.lanes m q.entry.readV
      let lost := (s.laneAll gk x (if (redOp q.entry.instr).isSome then 3 else 1) true ads).1.filter fun p => s.servedBy die sl p.2
      let left := m &&& ~~~keyMask lost
      let keep (q : SqEntry) : SqEntry := { q with entry := { q.entry with lanes := left, guardPend := false } }
      if lost.isEmpty then s
      else
        let s := lost.foldl (fun s p => (s.poisonAt p.2 x.size).memError gk 4 (get 0 ads p.1) p.2) s
        s.mapGang gk fun g =>
          if left = 0 then g.retireHead q none else { g with work := { g.work with stores := modAt keep 0 g.work.stores } }

/-- The return of an atomic is lost in the lanes that a home slice serves: they take poison consumption, the others their
results. -/
def State.loseAtomic (s : State) (die sl gk : Nat) (d : Deliv) (e : Entry) : State :=
  match accessOf e.mode e.instr with
  | none => s
  | some x =>
    let ads := x.lanes e.lanes e.readV
    let lost := (s.laneAll gk x 3 true ads).1.filter fun p => s.servedBy die sl p.2
    if lost.isEmpty then s
    else
      let s := lost.foldl (fun s p => s.poisonAt p.2 x.size) s
      let bad : Store Flt := lost.map fun p =>
        (p.1, { code := cPoison, aux := memAux 0 (get 0 ads p.1), va := get 0 ads p.1, page := p.2 })
      let out := (lanesOf (e.lanes &&& ~~~keyMask lost)).map fun l =>
        (l, d.regs.map fun r => get 0 d.vals (128 * l + valName r.1))
      match (s.setGang gk ((s.gang gk).landed d.id)).loaded gk e true (.ran s out bad) with
      | .bad t p => t.post gk p
      | .ok t | .waits t => t

/-- The atomic that a slice of a gang is about to finish, without MODE.dfr, and where its lanes act. -/
def State.atomicNext (s : State) (gk i : Nat) : Option (Access × Store Nat) :=
  let s := { s with cur := { s.cur with gang := gk, slices := [i], pc := ((s.gang gk).slice i).pc } }
  match s.nextInstr gk i with
  | none => none
  | some ins =>
    match s.front ins with
    | .go e => match accessOf e.mode ins, atomicFn ins e.mode e.g.readV with
      | some x, some _ => if e.late ∨ ¬ e.g.work.stores.isEmpty then none else some (x, (s.laneAll gk x 3 true (x.lanes e.act e.g.readV)).1)
      | _, _ => none
    | _ => none

/-- The return of such an atomic is lost or not: its places are poisoned, and its lanes meet the poison (R422). -/
def State.loseNext (s : State) (die sl gk i : Nat) : State :=
  match (if (s.gang gk).runs i then s.atomicNext gk i else none) with
  | none => s
  | some (x, ok) =>
    let lost := ok.filter fun p => s.servedBy die sl p.2
    if lost.isEmpty then s
    else
      let (b, s) := s.pick [false, true]
      if b = some true then lost.foldl (fun s p => s.poisonAt p.2 x.size) s else s

/-- The acknowledgements that a failing slice owes a gang are lost or not: of the store at the head of its queue, of each atomic
under way and of those about to finish (R422). Log entry 65, DESIGN CHOICE. -/
def State.loseAcks (s : State) (die sl gk : Nat) : State :=
  let head := match (s.gang gk).work.stores with
    | q :: _ => (s.gang gk).headReady q
    | [] => false
  let (b, s) := if head then s.pick [false, true] else (some false, s)
  let s := if b = some true then s.loseStore die sl gk else s
  let s := (s.gang gk).sliceList.foldl (fun s i => s.loseNext die sl gk i) s
  (s.gang gk).work.flight.foldl (fun s d => match d.atom with
    | none => s
    | some e =>
      let (b, s) := s.pick [false, true]
      if b = some true then s.loseAtomic die sl gk d e else s) s

/-- The words that a home slice holds poisoned, and the lines of memory that it serves. -/
def State.heldWords (s : State) (die sl : Nat) : List Nat :=
  (s.poison.map Prod.fst).filter fun w => decide (w ≥ 2 ^ 80) && s.servedBy die sl (markPlace w)
def State.heldLines (s : State) (die sl : Nat) : List Nat :=
  ((s.mem.map fun c => c.1 / 128).eraseDups).filter fun l => s.servedBy die sl (128 * l)

/-- A failing slice's dirty lines are written back, poisoned where they cannot be read (R422): which lines are dirty and unreadable is
left open. Log entry 65, DESIGN CHOICE. -/
def State.flushSlice (s : State) (die sl : Nat) : State :=
  (s.heldLines die sl).foldl (fun s l =>
    let (b, s) := s.pick [false, true]
    if b = some true then s.poisonAt (128 * l) 128 else s) ((s.heldWords die sl).foldl State.writeBack s)

/-- A home slice that is not yet marked failing is: its acknowledgements may be lost, its lines are written back, and its partner takes
its interleave. -/
def State.failSlice (s : State) (die sl : Nat) : State :=
  let k := 32 * die + sl
  if s.chip.failing.contains k then s
  else
    let s := (s.liveGangs.foldl (fun s gk => s.loseAcks die sl gk) s).flushSlice die sl
    let f := s.hmapNum die 20 4
    let s := s.setHmap die 20 4 (if bit f sl then f else f + 2 ^ sl)
    { s with chip := { s.chip with failing := s.chip.failing ++ [k] } }

/-- SLICE_FAILING. -/
def execSliceFailing (die sl : Nat) (s : State) : Outcome State Fault Refusal :=
  .next (if die < 4 ∧ sl < 32 then s.failSlice die sl else s)

/-- The dirty lines of a failing way are written back, poisoned where a word of theirs is; which lines stand in the way is left open.
Log entry 65, DESIGN CHOICE. -/
def State.flushWay (s : State) (die sl : Nat) : State :=
  (s.heldWords die sl).foldl (fun s w =>
    let (b, s) := s.pick [false, true]
    if b = some true then s.writeBack w else s) s

/-- A usable spare way of the slice takes the place of the failing one; with none left the slice is failing. -/
def State.repairWay (s : State) (die sl way : Nat) : State :=
  let o := 224 + 2 * sl
  let es := [s.hmapNum die o 1, s.hmapNum die (o + 1) 1]
  if es.any (fun e => e % 32 == way) then s
  else match es.findIdx? fun e => bit e 5 with
    | none => s.failSlice die sl
    | some i => ((s.flushWay die sl).setHmap die o 2 (pairField 32 (es.set i (way + 128)))).logRepair die 1 sl o

/-- A core, or a logical row of it, fails: it waits for its spare, and with none left its consort is unavailable. -/
def State.breakCore (s : State) (c : Nat) (row : Option Nat) : State :=
  let b := (c, row.map (s.physicalRow c))
  if s.chip.broken.contains b then s
  else if s.hasSpare c row then { s with chip := { s.chip with broken := s.chip.broken ++ [b] } }
  else s.loseConsort c

/-- WAY_REPAIR: of die `die`, way `way` of home slice `sl` fails (below 32), or of core `sl - 32` the row `way` below 32 or, for 32,
the whole core. Log entry 63, DESIGN CHOICE. -/
def execWayRepair (die sl way : Nat) (s : State) : Outcome State Fault Refusal :=
  .next (if die ≥ 4 then s
    else if sl < 32 then (if way < 18 then s.repairWay die sl way else s)
    else if sl < 96 ∧ way ≤ 32 then s.breakCore (64 * die + (sl - 32)) (if way < 32 then some way else none)
    else s)

/-! ### Containment (20 R425) -/

/-- One partition behind a failed unit: every context stops, its Hutur traffic is held, and a record names unit and
partition. -/
def State.contain (s : State) (unit p : Nat) : State :=
  let s := s.linkStops p true
  (s.setPart p { s.part p with hold := true }).logError 8 (some (p, 255, 255)) unit 0 0

/-- CONTAINMENT: `unit` as an error record names it, `parts` the mask of the partitions concerned. -/
def execContainment (unit parts : Nat) (s : State) : Outcome State Fault Refusal :=
  let u := unit % 2 ^ 24
  let s := if bits u 4 4 = 3 then { s with chip := { s.chip with failingPorts := s.chip.failingPorts ++ [u] } } else s
  .next ((those 8 fun p => bit parts p && (s.part p).live).foldl (fun s p => s.contain u p) s)

end Sys2Proof.Machine
end

