-- ==== Sys2Proof/Machine/Dispatch.lean ====
section
/-! DEFINITION. Which meaning each instruction and event has. -/

namespace Sys2Proof.Machine

def exec (i : Instr) (s : State) : Host.Outcome State Fault Refusal :=
  match i with
  | .add d a b => Sys2Proof.Machine.execAdd d a b s
  | .sub d a b => Sys2Proof.Machine.execSub d a b s
  | .mul d a b => Sys2Proof.Machine.execMul d a b s
  | .mulh d a b => Sys2Proof.Machine.execMulh d a b s
  | .min d a b => Sys2Proof.Machine.execMin d a b s
  | .max d a b => Sys2Proof.Machine.execMax d a b s
  | .div d a b => Sys2Proof.Machine.execDiv d a b s
  | .rem d a b => Sys2Proof.Machine.execRem d a b s
  | .abs d a => Sys2Proof.Machine.execAbs d a s
  | .neg d a => Sys2Proof.Machine.execNeg d a s
  | .sqrt d a => Sys2Proof.Machine.execSqrt d a s
  | .rcp d a => Sys2Proof.Machine.execRcp d a s
  | .rsq d a => Sys2Proof.Machine.execRsq d a s
  | .exp2 d a => Sys2Proof.Machine.execExp2 d a s
  | .log2 d a => Sys2Proof.Machine.execLog2 d a s
  | .sin d a => Sys2Proof.Machine.execSin d a s
  | .cos d a => Sys2Proof.Machine.execCos d a s
  | .and d a b => Sys2Proof.Machine.execAnd d a b s
  | .or d a b => Sys2Proof.Machine.execOr d a b s
  | .xor d a b => Sys2Proof.Machine.execXor d a b s
  | .andn d a b => Sys2Proof.Machine.execAndn d a b s
  | .not d a => Sys2Proof.Machine.execNot d a s
  | .shl d a b => Sys2Proof.Machine.execShl d a b s
  | .shr d a b => Sys2Proof.Machine.execShr d a b s
  | .sar d a b => Sys2Proof.Machine.execSar d a b s
  | .rot d a b => Sys2Proof.Machine.execRot d a b s
  | .popc d a => Sys2Proof.Machine.execPopc d a s
  | .clz d a => Sys2Proof.Machine.execClz d a s
  | .brev d a => Sys2Proof.Machine.execBrev d a s
  | .cvt k d a b => Sys2Proof.Machine.execCvt k d a b s
  | .cmpEq d a b => Sys2Proof.Machine.execCmpEq d a b s
  | .cmpNe d a b => Sys2Proof.Machine.execCmpNe d a b s
  | .cmpLt d a b => Sys2Proof.Machine.execCmpLt d a b s
  | .cmpLe d a b => Sys2Proof.Machine.execCmpLe d a b s
  | .cmpGt d a b => Sys2Proof.Machine.execCmpGt d a b s
  | .cmpGe d a b => Sys2Proof.Machine.execCmpGe d a b s
  | .cmpUn d a b => Sys2Proof.Machine.execCmpUn d a b s
  | .cmpClass d a b => Sys2Proof.Machine.execCmpClass d a b s
  | .mov d a => Sys2Proof.Machine.execMov d a s
  | .movw d a => Sys2Proof.Machine.execMovw d a s
  | .wmov d a => Sys2Proof.Machine.execWmov d a s
  | .pand d a b => Sys2Proof.Machine.execPand d a b s
  | .por d a b => Sys2Proof.Machine.execPor d a b s
  | .pxor d a b => Sys2Proof.Machine.execPxor d a b s
  | .pnot d a => Sys2Proof.Machine.execPnot d a s
  | .pmov d a => Sys2Proof.Machine.execPmov d a s
  | .shfl d a b => Sys2Proof.Machine.execShfl d a b s
  | .shflup d a b => Sys2Proof.Machine.execShflup d a b s
  | .shfldn d a b => Sys2Proof.Machine.execShfldn d a b s
  | .shflx d a b => Sys2Proof.Machine.execShflx d a b s
  | .ballot d a => Sys2Proof.Machine.execBallot d a s
  | .vany d a => Sys2Proof.Machine.execVany d a s
  | .vall d a => Sys2Proof.Machine.execVall d a s
  | .match d a => Sys2Proof.Machine.execMatch d a s
  | .rngsplit a b => Sys2Proof.Machine.execRngsplit a b s
  | .rngnext d => Sys2Proof.Machine.execRngnext d s
  | .rngf d => Sys2Proof.Machine.execRngf d s
  | .srd d a => Sys2Proof.Machine.execSrd d a s
  | .mad d a b c => Sys2Proof.Machine.execMad d a b c s
  | .bfx d a b c => Sys2Proof.Machine.execBfx d a b c s
  | .bfi d a b c => Sys2Proof.Machine.execBfi d a b c s
  | .lea d a b c => Sys2Proof.Machine.execLea d a b c s
  | .sel d a b c => Sys2Proof.Machine.execSel d a b c s
  | .addi d a im => Sys2Proof.Machine.execAddi d a im s
  | .andi d a im => Sys2Proof.Machine.execAndi d a im s
  | .ori d a im => Sys2Proof.Machine.execOri d a im s
  | .xori d a im => Sys2Proof.Machine.execXori d a im s
  | .shli d a im => Sys2Proof.Machine.execShli d a im s
  | .shri d a im => Sys2Proof.Machine.execShri d a im s
  | .sari d a im => Sys2Proof.Machine.execSari d a im s
  | .ldi d im => Sys2Proof.Machine.execLdi d im s
  | .ldih d im => Sys2Proof.Machine.execLdih d im s
  | .br o => Sys2Proof.Machine.execBr o s
  | .brp c o => Sys2Proof.Machine.execBrp c o s
  | .bra c o => Sys2Proof.Machine.execBra c o s
  | .brn c o => Sys2Proof.Machine.execBrn c o s
  | .call o => Sys2Proof.Machine.execCall o s
  | .callr a => Sys2Proof.Machine.execCallr a s
  | .jmpr a => Sys2Proof.Machine.execJmpr a s
  | .jset d a => Sys2Proof.Machine.execJset d a s
  | .jsetAct d => Sys2Proof.Machine.execJsetAct d s
  | .regang a => Sys2Proof.Machine.execRegang a s
  | .setmv a => Sys2Proof.Machine.execSetmv a s
  | .getm d => Sys2Proof.Machine.execGetm d s
  | .trap c => Sys2Proof.Machine.execTrap c s
  | .bkpt c => Sys2Proof.Machine.execBkpt c s
  | .setm v => Sys2Proof.Machine.execSetm v s
  | .setmH v => Sys2Proof.Machine.execSetmH v s
  | .fanset d m => Sys2Proof.Machine.execFanset d m s
  | .rep n d a b c => Sys2Proof.Machine.execRep n d a b c s
  | .wait l st c t => Sys2Proof.Machine.execWait l st c t s
  | .ldxZb d a b => Sys2Proof.Machine.execLdxZb d a b s
  | .ldxSb d a b => Sys2Proof.Machine.execLdxSb d a b s
  | .ldxZh d a b => Sys2Proof.Machine.execLdxZh d a b s
  | .ldxSh d a b => Sys2Proof.Machine.execLdxSh d a b s
  | .ldxW d a b => Sys2Proof.Machine.execLdxW d a b s
  | .ldxD d a b => Sys2Proof.Machine.execLdxD d a b s
  | .stxB d a b => Sys2Proof.Machine.execStxB d a b s
  | .stxH d a b => Sys2Proof.Machine.execStxH d a b s
  | .stxW d a b => Sys2Proof.Machine.execStxW d a b s
  | .stxD d a b => Sys2Proof.Machine.execStxD d a b s
  | .lda st d a => Sys2Proof.Machine.execLda st d a s
  | .stl st d a => Sys2Proof.Machine.execStl st d a s
  | .pref d a => Sys2Proof.Machine.execPref d a s
  | .aadd st d a b => Sys2Proof.Machine.execAadd st d a b s
  | .amin st d a b => Sys2Proof.Machine.execAmin st d a b s
  | .amax st d a b => Sys2Proof.Machine.execAmax st d a b s
  | .aand st d a b => Sys2Proof.Machine.execAand st d a b s
  | .aor st d a b => Sys2Proof.Machine.execAor st d a b s
  | .axor st d a b => Sys2Proof.Machine.execAxor st d a b s
  | .axch st d a b => Sys2Proof.Machine.execAxch st d a b s
  | .ainc st d a b => Sys2Proof.Machine.execAinc st d a b s
  | .redAdd st a b => Sys2Proof.Machine.execRedAdd st a b s
  | .redMin st a b => Sys2Proof.Machine.execRedMin st a b s
  | .redMax st a b => Sys2Proof.Machine.execRedMax st a b s
  | .redAnd st a b => Sys2Proof.Machine.execRedAnd st a b s
  | .redOr st a b => Sys2Proof.Machine.execRedOr st a b s
  | .redXor st a b => Sys2Proof.Machine.execRedXor st a b s
  | .fence st => Sys2Proof.Machine.execFence st s
  | .xfence a b => Sys2Proof.Machine.execXfence a b s
  | .cas st d a b c => Sys2Proof.Machine.execCas st d a b c s
  | .ld d a im => Sys2Proof.Machine.execLd d a im s
  | .st d a im => Sys2Proof.Machine.execSt d a im s
  | .ld2 d a im => Sys2Proof.Machine.execLd2 d a im s
  | .st2 d a im => Sys2Proof.Machine.execSt2 d a im s
  | .ld4 d a im => Sys2Proof.Machine.execLd4 d a im s
  | .st4 d a im => Sys2Proof.Machine.execSt4 d a im s
  | .lds d a im => Sys2Proof.Machine.execLds d a im s
  | .sts d a im => Sys2Proof.Machine.execSts d a im s
  | .mstr a b => Sys2Proof.Machine.execMstr a b s
  | .mstrP a => Sys2Proof.Machine.execMstrP a s
  | .mzero a => Sys2Proof.Machine.execMzero a s
  | .mpark d a => Sys2Proof.Machine.execMpark d a s
  | .munpark a b => Sys2Proof.Machine.execMunpark a b s
  | .mlds a b => Sys2Proof.Machine.execMlds a b s
  | .obrel a => Sys2Proof.Machine.execObrel a s
  | .credAdd d a => Sys2Proof.Machine.execCredAdd d a s
  | .credMax d a => Sys2Proof.Machine.execCredMax d a s
  | .credMin d a => Sys2Proof.Machine.execCredMin d a s
  | .credSmerge d a => Sys2Proof.Machine.execCredSmerge d a s
  | .obres d a b => Sys2Proof.Machine.execObres d a b s
  | .mdrn d a b c => Sys2Proof.Machine.execMdrn d a b c s
  | .obld d a im => Sys2Proof.Machine.execObld d a im s
  | .mstat d im => Sys2Proof.Machine.execMstat d im s
  | .binit a b => Sys2Proof.Machine.execBinit a b s
  | .barr a b => Sys2Proof.Machine.execBarr a b s
  | .bexp d a b => Sys2Proof.Machine.execBexp d a b s
  | .bwait a b => Sys2Proof.Machine.execBwait a b s
  | .btest d a b => Sys2Proof.Machine.execBtest d a b s
  | .sestop a => Sys2Proof.Machine.execSestop a s
  | .seresume a => Sys2Proof.Machine.execSeresume a s
  | .seqry d a => Sys2Proof.Machine.execSeqry d a s
  | .qpush d a => Sys2Proof.Machine.execQpush d a s
  | .qpop d a => Sys2Proof.Machine.execQpop d a s
  | .qown d a => Sys2Proof.Machine.execQown d a s
  | .qownRel a => Sys2Proof.Machine.execQownRel a s
  | .bxcopy a => Sys2Proof.Machine.execBxcopy a s
  | .sego d a e => Sys2Proof.Machine.execSego d a e s
  | .catset a e => Sys2Proof.Machine.execCatset a e s
  | .wrel a e => Sys2Proof.Machine.execWrel a e s
  | .dectbl a st => Sys2Proof.Machine.execDectbl a st s
  | .catclr e => Sys2Proof.Machine.execCatclr e s
  | .catqry d st e => Sys2Proof.Machine.execCatqry d st e s
  | .tld d a b => Sys2Proof.Machine.execTld d a b s
  | .tst d a b => Sys2Proof.Machine.execTst d a b s
  | .axperm d a => Sys2Proof.Machine.execAxperm d a s
  | .axqry d a b => Sys2Proof.Machine.execAxqry d a b s
  | .axinvCore a => Sys2Proof.Machine.execAxinvCore a s
  | .axinvCns a => Sys2Proof.Machine.execAxinvCns a s
  | .axinvDev a => Sys2Proof.Machine.execAxinvDev a s
  | .axset a b => Sys2Proof.Machine.execAxset a b s
  | .axins a b => Sys2Proof.Machine.execAxins a b s
  | .axdel a b => Sys2Proof.Machine.execAxdel a b s
  | .tdld d a im => Sys2Proof.Machine.execTdld d a im s
  | .tdst d a im => Sys2Proof.Machine.execTdst d a im s
  | .lqcancel d a b => Sys2Proof.Machine.execLqcancel d a b s
  | .exitc a b => Sys2Proof.Machine.execExitc a b s
  | .lqpush d a q => Sys2Proof.Machine.execLqpush d a q s
  | .lqstat d st q => Sys2Proof.Machine.execLqstat d st q s
  | .swr d a => Sys2Proof.Machine.execSwr d a s
  | .tlbinv a b => Sys2Proof.Machine.execTlbinv a b s
  | .quiesce d a => Sys2Proof.Machine.execQuiesce d a s
  | .ctxsave d a b => Sys2Proof.Machine.execCtxsave d a b s
  | .ctxload d a b => Sys2Proof.Machine.execCtxload d a b s
  | .splv a b => Sys2Proof.Machine.execSplv a b s
  | .filv a b => Sys2Proof.Machine.execFilv a b s
  | .keysel d a b => Sys2Proof.Machine.execKeysel d a b s
  | .halt a => Sys2Proof.Machine.execHalt a s
  | .seSet ra rb rc imm => Sys2Proof.Machine.execSeSet ra rb rc imm s
  | .seAdd ra rb rc imm => Sys2Proof.Machine.execSeAdd ra rb rc imm s
  | .seMul ra rb rc imm => Sys2Proof.Machine.execSeMul ra rb rc imm s
  | .seLoop ra rb rc imm => Sys2Proof.Machine.execSeLoop ra rb rc imm s
  | .seNext ra rb rc imm => Sys2Proof.Machine.execSeNext ra rb rc imm s
  | .seJmp ra rb rc imm => Sys2Proof.Machine.execSeJmp ra rb rc imm s
  | .seStop ra rb rc imm => Sys2Proof.Machine.execSeStop ra rb rc imm s
  | .seCoord ra rb rc imm => Sys2Proof.Machine.execSeCoord ra rb rc imm s
  | .seFetch ra rb rc imm => Sys2Proof.Machine.execSeFetch ra rb rc imm s
  | .seWaitf ra rb rc imm => Sys2Proof.Machine.execSeWaitf ra rb rc imm s
  | .seExpect ra rb rc imm => Sys2Proof.Machine.execSeExpect ra rb rc imm s
  | .seGather ra rb rc imm => Sys2Proof.Machine.execSeGather ra rb rc imm s
  | .seKvfetch ra rb rc imm => Sys2Proof.Machine.execSeKvfetch ra rb rc imm s
  | .seSignal ra rb rc imm => Sys2Proof.Machine.execSeSignal ra rb rc imm s
  | .seFence ra rb rc imm => Sys2Proof.Machine.execSeFence ra rb rc imm s
  | .seMark ra rb rc imm => Sys2Proof.Machine.execSeMark ra rb rc imm s
  | .joinComplete g m => Sys2Proof.Machine.execJoinComplete g m s
  | .rejoinTimeout g m => Sys2Proof.Machine.execRejoinTimeout g m s
  | .regangComplete g sl => Sys2Proof.Machine.execRegangComplete g sl s
  | .regangTimeout g sl => Sys2Proof.Machine.execRegangTimeout g sl s
  | .storeQueueRetire g => Sys2Proof.Machine.execStoreQueueRetire g s
  | .taggedDelivery g im => Sys2Proof.Machine.execTaggedDelivery g im s
  | .residualRun g im => Sys2Proof.Machine.execResidualRun g im s
  | .postedFaultTake g => Sys2Proof.Machine.execPostedFaultTake g s
  | .matrixPass c => Sys2Proof.Machine.execMatrixPass c s
  | .slabLoad c => Sys2Proof.Machine.execSlabLoad c s
  | .bandDrain c => Sys2Proof.Machine.execBandDrain c s
  | .bandPark c => Sys2Proof.Machine.execBandPark c s
  | .cruRoundComplete u => Sys2Proof.Machine.execCruRoundComplete u s
  | .decoderTableLoad c => Sys2Proof.Machine.execDecoderTableLoad c s
  | .decodeChunk g => Sys2Proof.Machine.execDecodeChunk g s
  | .windowPresent grp e im => Sys2Proof.Machine.execWindowPresent grp e im s
  | .credit im => Sys2Proof.Machine.execCredit im s
  | .bulkCopyComplete b => Sys2Proof.Machine.execBulkCopyComplete b s
  | .queueReceive l => Sys2Proof.Machine.execQueueReceive l s
  | .queueReplay l => Sys2Proof.Machine.execQueueReplay l s
  | .activeSetEntry c => Sys2Proof.Machine.execActiveSetEntry c s
  | .displacement c => Sys2Proof.Machine.execDisplacement c s
  | .starvationPriority c => Sys2Proof.Machine.execStarvationPriority c s
  | .drainStallPark g => Sys2Proof.Machine.execDrainStallPark g s
  | .hangDetect g => Sys2Proof.Machine.execHangDetect g s
  | .gangFinish g => Sys2Proof.Machine.execGangFinish g s
  | .launchDispatch p q => Sys2Proof.Machine.execLaunchDispatch p q s
  | .dependencePoll p q => Sys2Proof.Machine.execDependencePoll p q s
  | .queueReserving p q => Sys2Proof.Machine.execQueueReserving p q s
  | .groupPlace p q c => Sys2Proof.Machine.execGroupPlace p q c s
  | .groupFinish grp => Sys2Proof.Machine.execGroupFinish grp s
  | .budgetPeriod p => Sys2Proof.Machine.execBudgetPeriod p s
  | .faultRingRetry p => Sys2Proof.Machine.execFaultRingRetry p s
  | .quiescent x => Sys2Proof.Machine.execQuiescent x s
  | .flitResend dst => Sys2Proof.Machine.execFlitResend dst s
  | .crossbarResend im => Sys2Proof.Machine.execCrossbarResend im s
  | .usageRecordClose p => Sys2Proof.Machine.execUsageRecordClose p s
  | .ringRecordWrite r => Sys2Proof.Machine.execRingRecordWrite r s
  | .obldCopy im => Sys2Proof.Machine.execObldCopy im s
  | .ret => Sys2Proof.Machine.execRet s
  | .exit => Sys2Proof.Machine.execExit s
  | .jarr => Sys2Proof.Machine.execJarr s
  | .jwait => Sys2Proof.Machine.execJwait s
  | .drain => Sys2Proof.Machine.execDrain s
  | .nop => Sys2Proof.Machine.execNop s
  | .yield => Sys2Proof.Machine.execYield s
  | .tret => Sys2Proof.Machine.execTret s
  | .mswap => Sys2Proof.Machine.execMswap s
  | .axfence => Sys2Proof.Machine.execAxfence s
  | .doorbell p q v => Sys2Proof.Machine.execDoorbell p q v s
  | .pageWalk x c va => Sys2Proof.Machine.execPageWalk x c va s
  | .pageExport x pa buf => Sys2Proof.Machine.execPageExport x pa buf s
  | .pageImport p t pa buf => Sys2Proof.Machine.execPageImport p t pa buf s
  | .qbind p => Sys2Proof.Machine.execQbind p s
  | .ctxnew p => Sys2Proof.Machine.execCtxnew p s
  | .ctxstop p => Sys2Proof.Machine.execCtxstop p s
  | .ctxend p => Sys2Proof.Machine.execCtxend p s
  | .fresume p => Sys2Proof.Machine.execFresume p s
  | .fend p => Sys2Proof.Machine.execFend p s
  | .thaw p => Sys2Proof.Machine.execThaw p s
  | .bind p => Sys2Proof.Machine.execBind p s
  | .accession p => Sys2Proof.Machine.execAccession p s
  | .pgset p => Sys2Proof.Machine.execPgset p s
  | .sstab p => Sys2Proof.Machine.execSstab p s
  | .pcreate => Sys2Proof.Machine.execPcreate s
  | .preset => Sys2Proof.Machine.execPreset s
  | .pdestroy => Sys2Proof.Machine.execPdestroy s
  | .chipset => Sys2Proof.Machine.execChipset s
  | .registerWrite page off val => Sys2Proof.Machine.execRegisterWrite page off val s
  | .hotReset => Sys2Proof.Machine.execHotReset s
  | .vfFlr p => Sys2Proof.Machine.execVfFlr p s
  | .linkDown p => Sys2Proof.Machine.execLinkDown p s
  | .hostMemoryAccess op addr n data cmp => Sys2Proof.Machine.execHostMemoryAccess op addr n data cmp s
  | .getVersion => Sys2Proof.Machine.execGetVersion s
  | .getCapabilities => Sys2Proof.Machine.execGetCapabilities s
  | .negotiateAlgorithms => Sys2Proof.Machine.execNegotiateAlgorithms s
  | .getDigests => Sys2Proof.Machine.execGetDigests s
  | .getCertificate => Sys2Proof.Machine.execGetCertificate s
  | .challenge nonce => Sys2Proof.Machine.execChallenge nonce s
  | .getMeasurements nonce => Sys2Proof.Machine.execGetMeasurements nonce s
  | .keyExchange nonce => Sys2Proof.Machine.execKeyExchange nonce s
  | .finish => Sys2Proof.Machine.execFinish s
  | .keyUpdate => Sys2Proof.Machine.execKeyUpdate s
  | .endSession => Sys2Proof.Machine.execEndSession s
  | .portTraining port chip digest meas => Sys2Proof.Machine.execPortTraining port chip digest meas s
  | .flitReceive src seq data => Sys2Proof.Machine.execFlitReceive src seq data s
  | .patrolScrub addr err => Sys2Proof.Machine.execPatrolScrub addr err s
  | .wayRepair die sl way => Sys2Proof.Machine.execWayRepair die sl way s
  | .sliceFailing die sl => Sys2Proof.Machine.execSliceFailing die sl s
  | .containment unit parts => Sys2Proof.Machine.execContainment unit parts s
  | .linkReturn p => Sys2Proof.Machine.execLinkReturn p s
  | .huturPortDown port => Sys2Proof.Machine.execHuturPortDown port s
  | .ideKeyProgramming p => Sys2Proof.Machine.execIdeKeyProgramming p s
  | .peerWindowAccess op blk off n data world tier => Sys2Proof.Machine.execPeerWindowAccess op blk off n data world tier s

end Sys2Proof.Machine
end

