-- ==== Sys2Proof/Machine/Run.lean ====
section
/-! DEFINITION. One step of the device (log entry 2, DESIGN CHOICE): one act of one agent, or the end of a cycle. An issue grant
fetches, decodes and executes one instruction of a cohort (03 R67, R75, R80; 10 R218), or runs deferred work. -/

namespace Sys2Proof.Machine

open Host (Outcome)

/-- What follows a step of a meaning. -/
def after (f : State → State) : Outcome State Fault Refusal → Outcome State Fault Refusal
  | .next s => .next (f s)
  | .fault r => .fault r
  | .refused r => .refused r

/-! ### Words (03 R67, R68) -/

/-- The lanes in which a word executes of which no entry is known (01 R15): the path under the guard, or those that a return
re-executes. Log entry 32, DEDUCED. -/
def Gang.wordLanes (g : Gang) (ss : List Nat) : Mask :=
  let sl := g.slice (ss.headD 0)
  let path := g.path &&& slicesMask ss
  match sl.reexec with
  | some m => path &&& m
  | none => path &&& g.guardMask sl.mode

/-- A word that fails step 2 of 03 R75, or the cond of a BR or CALL, which are unguarded (05 R125, R133). -/
def State.badWordTrap (s : State) (gk : Nat) (ss : List Nat) (pc : W64) (w : W32) (err : DecodeError) : State :=
  let g := s.gang gk
  let m := g.wordLanes ss
  let path := g.path &&& slicesMask ss &&& ((g.slice (ss.headD 0)).reexec.getD 0xFFFFFFFF#32)
  match err with
  | .badCond => s.trap gk ss { code := cIllOp, aux := opAux 4 (bits w.toNat 18 6), tmask := path, tpc := pc }
  | _ => s.trap gk ss { code := cIllInstr, aux := w64 w.toNat, tmask := m, tpc := pcMake (pcAddr pc) 0 }

/-- The word is decoded and executed by a cohort. -/
def State.runWord (s : State) (gk : Nat) (ss : List Nat) (pc : W64) (w : W32) : Outcome State Fault Refusal :=
  match decodeWord w with
  | .ok i => exec i { s with cur := { gang := gk, slices := ss, pc := pc, word := w } }
  | .error err => .next (s.badWordTrap gk ss pc w err)

/-- A repetition is decoded and executed by a cohort. Log entry 74, DEDUCED. -/
def State.runRep (s : State) (gk : Nat) (ss : List Nat) (pc : W64) (r : RepSeq) : Outcome State Fault Refusal :=
  let (w, hd, ha, hb, hc) := stepWord r (pcIdx pc)
  match decodeWord w with
  | .ok i => exec i { s with cur := { gang := gk, slices := ss, pc := pc, word := w, hiD := hd, hiA := ha, hiB := hb, hiC := hc } }
  | .error _ => .fault .notAWord

/-! ### An issue grant (10 R218, R227; 05 R123, R134) -/

/-- The slices that issue with slice `i`. -/
def Gang.issuing (g : Gang) (i : Nat) : List Nat := (g.cohortSlices (g.slice i).cohort).filter g.runs

/-- A slice whose window must be filled before its cohort goes on; the supervisor's handler moves it (05 R134), and a CALL that is
issued again after its spill is due no fill (01 R18). -/
def Gang.fillDue (g : Gang) (ss : List Nat) : Option Nat :=
  if g.supH ∨ (g.slice (ss.headD 0)).reexec.isSome then none else ss.find? fun j => decide ((g.slice j).base < (g.slice j).low)

/-- The cohort of slice `i` executes the instruction, or the repetition, at its program counter. -/
def State.issueCohort (s : State) (gk i : Nat) : Outcome State Fault Refusal :=
  let g := s.gang gk
  let sl := g.slice i
  let ss := g.issuing i
  match g.fillDue ss with
  | some j =>
    let t : Trap := { code := cFill, aux := windowAux j (g.slice j).low, tdone := g.path &&& slicesMask ss, tpc := sl.pc }
    .next (s.trap gk ss t)
  | none =>
    match sl.rep with
    | some r => s.runRep gk ss sl.pc r
    | none =>
      match s.fetch gk (pcAddr sl.pc) with
      | .error f => .next (s.failFetch gk ss f (g.wordLanes ss) sl.pc)
      | .ok w =>
        let s := s.fillTlb g.core (s.ctxOf g) (pcAddr sl.pc)
        if pcIdx sl.pc ≠ 0 ∧ major w ≠ 0xC0 then .next (s.badWordTrap gk ss sl.pc w .unusedField)
        else s.runWord gk ss sl.pc w

/-- A stall that follows an effect of the instruction: an accepted command, a stop, removal or fill that has begun. -/
def Stall.begun : Stall → Bool
  | .swap _ | .context _ | .fills _ | .removal | .window _ | .flits _ => true
  | _ => false

/-- The attempt of slice `i`'s cohort issued: no stall stands against it. -/
def State.didIssue (s : State) (gk i : Nat) : Bool := ((s.gang gk).slice i).stall.isNone

/-- After an attempt of the cohort of slices `ss`: one that issued, or began to, uses its grant, and its wait for the next issue
starts anew (05 R123); once it has issued it is charged to the partition's issue budget (R218; 16 R365). One that met a stall was
not ready, and no slot is used. -/
def State.issued (s : State) (c gk i : Nat) (ss : List Nat) (u : ExecUnit) : State :=
  let begun := s.didIssue gk i || (((s.gang gk).slice i).stall.map Stall.begun) == some true
  let s := if s.didIssue gk i then s.charge (s.partOf (s.gang gk)) 0 1 else s
  if begun then (s.noteGrant c gk u).mapGang gk fun g => g.onSlices ss fun _ x => { x with last := s.clock } else s

/-- A cohort that nothing is known to hold up is tried when a cycle begins: where its instruction meets a stall, that stands
against it, and otherwise it can issue (R217). -/
def State.probe (s : State) (gk i : Nat) : State :=
  let g := s.gang gk
  let ss := g.issuing i
  if ss.headD 8 ≠ i ∨ ¬ s.canIssue gk i ∨ g.postedReady ∨ ¬ s.mayStart (s.partOf g) 0 then s
  else match s.issueCohort gk i with
    | .next t => match ((t.gang gk).slice i).stall with
      | some r => if r.begun then s else if r = .residualFull then t else s.stall gk ss r
      | none => s
    | _ => s

/-- The cohorts of an active gang are tried, and what of it can issue is noted (R217). -/
def State.judge (s : State) (gk : Nat) : State :=
  let g := s.gang gk
  let s := if g.sched.active ∧ s.grantsOpen gk then g.sliceList.foldl (fun s i => s.probe gk i) s else s
  s.mapGang gk fun g => { g with sched := { g.sched with can := s.canNow gk } }

/-- Write parts that a grant does not leave to come: all of them, but where the cohort chosen performs an atomic those of other
gangs, which the point decides (14 R322). -/
def State.beforeGrant (s : State) (gk late : Nat) : State :=
  if s.halves.isEmpty then s
  else
    let amo := !s.defers gk late && ((s.chosenSlice gk late).bind (s.nextInstr gk)).any fun i => (scopeOf i).isSome
    s.finishHalves fun h => !amo || h.gang == gk

/-- A grant of core `c` to a gang: a posted fault is taken, the oldest ready deferred work runs, or the chosen cohort issues.
Log entry 72, DEDUCED. -/
def State.grant (s : State) (c gk late : Nat) : Outcome State Fault Refusal :=
  let s := s.beforeGrant gk late
  if (s.gang gk).postedReady then execPostedFaultTake gk s
  else
    let u := s.nextUnit gk late
    let (t, ran) := if s.defers gk late then s.tryDeferred gk else (s, false)
    if ran then .next (t.noteGrant c gk u)
    else match t.chosenSlice gk late with
      | some i => after (fun x => x.issued c gk i ((t.gang gk).issuing i) (t.nextUnit gk (Nat.lor late 256))) (t.issueCohort gk i)
      | none => .next t

/-- The gangs of a list are noted to be in latency stalls. -/
def State.noteLate (s : State) (c : Nat) (late : List (Nat × Nat)) : State :=
  if late.isEmpty then s else s.setCore c { s.core c with late := (s.core c).late ++ late }

/-- The next issue grant of a core (R218). -/
def State.issueNext (s : State) (c : Nat) (late : List (Nat × Nat)) : Outcome State Fault Refusal :=
  match s.nextGrant c late with
  | some gk => (s.noteLate c late).grant c gk (get 0 late gk)
  | none => .next (s.noteLate c late)

/-! ### A stream context (11 R254, R257, R266) -/

/-- The word at a stream context's program counter. -/
def State.streamWord (s : State) (h : Nat) (c : StreamCtx) : Except State (W64 × State) :=
  let s1 (ps : List (Nat × Nat)) : State := ps.foldl (fun s p => s.meter (s.streamPart c) (corePort (s.streamCore c)) p.2 p.1) s
  match s.engPlaces (streamDie h) (s.streamCtxOf c) c.regs.pc 8 false with
  | .error (va, r) => .error (s.streamXl h va r)
  | .ok ps =>
    if ¬ (s.part (s.streamPart c)).linked ∧ ps.any (fun p => isHost p.1) then .error s
    else if ps.any fun p => s.poisoned p.1 p.2 then .error (s.streamFault h 0x0B)
    else if ps.any fun p => s.unreachable p.1 then .error (s.streamFault h 0x11)
    else .ok (w64 (fromBytes (ps.flatMap fun p => s.pathBytes 1 (s.streamCore c) p.1 p.2)), s1 ps)

/-- The operations that move data through a crossbar (16 R365). -/
def movesData : Instr → Bool
  | .seFetch _ _ _ _ | .seGather _ _ _ _ | .seKvfetch _ _ _ _ | .seSignal _ _ _ _ => true
  | _ => false

/-- Some gang of a group is live; its stream contexts stop where they stand when the last one has exited (11 R254). -/
def State.groupRuns (s : State) (grp : Nat) : Bool := s.gangs.any fun p => p.2.live && p.2.group == grp

/-- A context is ready for its engine: to move a beat or a return-port entry of the operation under way, which goes on while its
owner stops (11 R268), or for its next operation (11 R254; 16 R365). -/
def State.streamReady (s : State) (h : Nat) (c : StreamCtx) : Bool :=
  let p := s.streamPart c
  let x := (s.ctx (s.streamCtxOf c)).state
  s.groupRuns c.group && s.mayStart p 1 && !s.streamParked p h && s.answered c.flits
    && if ¬ c.between then
        c.state == 1 && (x == .resident || x == .stopping) && s.mayStart p 4 && (!c.beats.isEmpty || s.portReady c)
      else
        x == .resident && (c.state == 1 && !(c.pausing && s.owed h) || c.state == 2 && (s.mayOpen c || !s.castAgrees c))

/-- The context that an engine serves next: round-robin, one operation or beat in a cycle (11 R254). -/
def State.nextStream (s : State) (n : Nat) : Option Nat :=
  let e : Engine := get {} s.engines n
  if e.at_ = some s.clock then none
  else
    let hs := (s.streams.filter fun (h, c) => h / 16 == n && s.streamReady h c).map Prod.fst
    (hs.find? fun h => match e.last with
      | some l => decide (l < h)
      | none => true).or hs.head?

/-- A context does its next operation. -/
def State.streamOperate (s : State) (h : Nat) (c : StreamCtx) : Outcome State Fault Refusal :=
  if c.regs.pc % 8 ≠ 0 then .next (s.streamFault h 0x04)
  else match s.streamWord h c with
    | .error t => .next t
    | .ok (w, s) =>
      match decodeStream w with
      | .ok i => if movesData i ∧ ¬ s.mayStart (s.streamPart c) 4 then .next s else exec i { s with cur := { ctx := h } }
      | .error .reservedOp => .next (s.streamFault h 0x01)
      | .error _ => .next (s.streamFault h 0x02)

/-- A stream engine serves its next context. Log entry 44, DEDUCED. -/
def State.streamStep (s : State) (n : Nat) : Outcome State Fault Refusal :=
  match s.nextStream n with
  | none => .next s
  | some h =>
    let c := s.stream h
    let s := { s with engines := put s.engines n { last := some h, at_ := some s.clock } }
    if ¬ c.beats.isEmpty then .next (s.moveBeat h)
    else if ¬ c.out.isEmpty then .next (s.flushPort h)
    else s.streamOperate h c

/-! ### Time -/

/-- Budgets of which a class is spent (16 R365). Log entry 58, DESIGN CHOICE. -/
def State.budgetWait (s : State) (p : Nat) : Bool := !(List.range 5).all fun cls => s.mayStart p cls

/-- The cores that hold a group of a partition. -/
def State.partCores (s : State) (p : Nat) : Nat :=
  ((s.groups.filter fun g => g.2.live && g.2.part == p).map fun g => g.2.core).eraseDups.length

/-- What a cycle adds to the counts: the gangs' (R218 to R223), residency and budget waits (19 R413), queues that cannot place
(16 R359), and the idle tree of a stopping context (18 R384). -/
def State.elapse (s : State) : State :=
  { s with
    gangs := mapVals (fun k (g : Gang) => s.elapseGang k g) s.gangs
    parts := mapVals (fun p (x : Part) => { x with
      meters := modAt (· + b2n (s.budgetWait p)) 8 (modAt (· + s.partCores p) 7 x.meters) }) s.parts
    queues := mapVals (fun k (q : Queue) => s.queueElapse (k / 64) (k % 64) q) s.queues
    ctxs := mapVals (fun x (c : Ctx) =>
      if c.state = .stopping then { c with quietFor := if s.stopSettled x then c.quietFor + 1 else 0 } else c) s.ctxs }

/-- The budgets of every partition are refilled where a period begins (16 R365), a fault ring for which records wait is read again once
in 25,000 cycles (18 R376), usage records are closed where they are due (19
R414), and queues that have waited long enough reserve (16 R359). -/
def State.startPeriods (s : State) : State :=
  let s := if s.clock % 25000 = 0 then s.parts.foldl (fun s p => s.refill p.1) s else s
  let s := if s.clock % 25000 = 0 then (s.parts.filter fun p => !p.2.waiting.isEmpty).foldl (fun s p => s.ringTurn p.1) s else s
  let s := s.parts.foldl (fun s p => s.usageDue p.1) s
  s.queues.foldl (fun s q => s.reserve (q.1 / 64) (q.1 % 64)) s

/-- A cycle ends and the next one begins, for which the readiness of the gangs is judged (R217 to R223; 05 R129 to R131; 16 R359,
R365). -/
def State.cycle (s : State) : State :=
  let s := s.elapse.endGangs.settleAllOwed
  let s := ({ s with clock := s.clock + 1 } : State).startCores.startPeriods.startFills
  s.liveGangs.foldl State.judge s

/-- `n` cycles end. -/
def State.cycles : (n : Nat) → State → State
  | 0, s => s
  | n + 1, s => State.cycles n s.cycle

/-! ### Acts -/

/-- The rows of the table that no word encodes: the steps of the device. -/
def isEvent (i : Instr) : Bool := (encode i).isNone && (encodeStream i).isNone

/-- What an act does, who sees its writes aside. -/
def State.perform (s : State) : Act → Outcome State Fault Refusal
  | .event i => if isEvent i then exec i s else .next s
  | .issue c late => s.issueNext c late
  | .stream n => s.streamStep n
  | .idle n => .next (s.cycles n)
  | .axinv gk => .next (s.axRemove gk)
  | .bulk b => .next (s.bulkStep b)
  | .aside => .next { s with aside := true }
  | .show_ k n => .next (s.showVeil k n)
  | .reread c => .next (s.passReread c)
  | .rebox h k n => .next (s.boxReread h k n)
  | .dropLine c l => .next (s.setCore c { s.core c with cache := del (s.core c).cache l })
  | .dropTlb u i => .next { s with tlb := put s.tlb u (dropAt i (get [] s.tlb u)) }
  | .dropAx u i => .next { s with axis := put s.axis u (dropAt i (get [] s.axis u)) }

/-- Acts before which an atomic's write part may still be to come (14 R322): a grant, which sees to it, and a store leaving its
queue. -/
def Act.mayPart : Act → Bool
  | .issue _ _ | .event (.storeQueueRetire _) | .aside => true
  | _ => false

/-- What an act does. `aside` holds for one act. Log entry 76, DESIGN CHOICE. -/
def State.act (s : State) (a : Act) : Outcome State Fault Refusal :=
  let s := if a.mayPart || s.halves.isEmpty then s else s.finishHalves fun _ => true
  if a = .aside then s.perform a else after (fun t => { t with aside := false }) (s.perform a)

/-- The acts that a gang may have a use for. -/
def State.gangActs (s : State) (gk : Nat) : List Act :=
  let g := s.gang gk
  (if g.work.stores.isEmpty then [] else [.event (.storeQueueRetire gk)])
    ++ (List.range g.work.flight.length).map (fun i => .event (.taggedDelivery gk i))
    ++ (if g.work.posted.isEmpty then [] else [.event (.postedFaultTake gk)])
    ++ (if g.axinv.isEmpty then [] else [.axinv gk])
    ++ [.event (.decodeChunk gk), .event (.gangFinish gk)]

/-- The acts that a core may have a use for. -/
def State.coreActs (s : State) (c : Nat) : List Act :=
  List.replicate 4 (.issue c []) ++ [.event (.cruRoundComplete (c / 4))]
    ++ (if (s.core c).array.isEmpty then [] else
        [.event (.matrixPass c), .event (.slabLoad c), .event (.bandDrain c), .event (.bandPark c)])
    ++ (if (s.core c).decLoad.isEmpty then [] else [.event (.decoderTableLoad c)])

/-- The acts that a launch queue may have a use for. -/
def State.queueActs (s : State) (p q : Nat) : List Act :=
  if ¬ (s.queue p q).on ∧ ¬ (s.queue p q).reread then []
  else [.event (.dependencePoll p q), .event (.launchDispatch p q)]
    ++ (List.range 256).filterMap fun c => if bit (s.part p).consorts (c / 4) then some (.event (.groupPlace p q c)) else none

/-- Everything of the device's own that may have something to do. -/
def State.candidates (s : State) : List Act :=
  let live := (s.gangs.filter fun g => g.2.live).map Prod.fst
  let cores := (live.map fun k => (s.gang k).core).eraseDups
  live.flatMap s.gangActs ++ cores.flatMap s.coreActs
    ++ ((s.streams.map fun h => h.1 / 16).eraseDups.map Act.stream)
    ++ s.streams.filterMap (fun h => h.2.touch.map fun i => .event (.windowPresent h.2.group h.2.entry i))
    ++ (List.range s.credits.length).map (fun i => .event (.credit i))
    ++ s.bulks.flatMap (fun b => [.bulk b.1, .event (.bulkCopyComplete b.1)])
    ++ s.oblds.map (fun o => .event (.obldCopy o.1))
    ++ s.links.flatMap (fun l => [.event (.queueReceive l.1), .event (.queueReplay l.1)])
    ++ s.groups.map (fun g => .event (.groupFinish g.1))
    ++ s.queues.flatMap (fun k => s.queueActs (k.1 / 64) (k.1 % 64))
    ++ s.parts.flatMap (fun p => [.event (.faultRingRetry p.1), .event (.usageRecordClose p.1),
        .event (.ringRecordWrite p.1)])
    ++ (s.ctxs.filter fun x => x.2.state == .stopping).map (fun x => .event (.quiescent x.1))
    ++ s.chip.flits.map (fun f => .event (.flitResend f.1))
    ++ (List.range s.underway.length).map (fun i => .event (.crossbarResend i))
    ++ (if s.chip.errors.isEmpty then [] else [.event (.ringRecordWrite 8)])
    ++ [.idle 1]

/-- The act that comes next: the agenda's, or with none left one of the device's own in turn, the end of the cycle among them
(log entry 2, DESIGN CHOICE). -/
def State.nextAct (s : State) : Act × State :=
  match s.agenda with
  | a :: rest => (a, { s with agenda := rest })
  | [] =>
    let cs := s.candidates
    ((cs[s.turn % cs.length]?).getD (.idle 1), { s with turn := s.turn + 1 })

/-- One step of the device. -/
def State.run (s : State) : Outcome State Fault Refusal :=
  let (a, t) := s.nextAct
  t.act a

/-! ### Placing one instruction (log entry 24, DESIGN CHOICE) -/

/-- The page table of the bench: tables at 0, 64, 128 and 192 KiB of HBM map the first 64 KiB of addresses to the page at
256 KiB. -/
def benchTables : List (Nat × Nat) := [(0, 0x10001), (0x10000, 0x20001), (0x20000, 0x30001), (0x30000, 0x40005)]

/-- A machine in which one runtime gang of one slice, or one stream context, executes next the word at address 0 of its
context. -/
def State.bench (s : State) (stream : Bool) (bs : List Byte) : State :=
  let grp := s.names
  let gk := s.names + 1
  let s := { s with
    names := s.names + 2
    mem := (writeBytes (benchTables.foldl (fun m (e : Nat × Nat) => writeBytes m e.1 (toBytes 8 e.2)) s.mem) 0x40000 bs)
    poison := s.poison.filter fun (w : Nat × Bool) => decide (0x50000 ≤ markPlace w.1)
    prov := (List.range 5).foldl (fun m i => put m i 1) s.prov
    tlb := del (del s.tlb 0) (dieTlb 0)
    gangs := mapVals (fun _ (g : Gang) => if g.core = 0 then { g with sched := { g.sched with active := false } } else g) s.gangs
    agenda := [if stream then .stream 0 else .issue 0 []] }
  let s := s.setPart 0 { s.part 0 with
    live := true, up := true, tdi := .run, closing := 0, consorts := 1, halves := 1, budgets := List.replicate 5 0xFFFFFFFF,
    balance := List.replicate 5 0 }
  let s := s.setCtx 0 { state := .resident, part := 0, root := 0, world := 0, runtime := true }
  let s := s.setCore 0 { s.core 0 with ctx := some 0, granted := [], used := [] }
  let entry : CatEntry := { valid := true, ctx := some 0 }
  let s := s.setGroup grp
    { ctx := 0, part := 0, core := 0, live := true, peers := [grp], cat := if stream then [(0, entry)] else [] }
  let g : Gang :=
    { group := grp, core := 0, live := true, slices := [{}], path := 0xF#32, level := 1
      sched := { active := true, born := s.clock, can := 1 } }
  let s := s.setGang gk g
  if stream then { s.setStream 0 { group := grp, gang := gk, entry := 0 } with engines := del s.engines 0 } else s

end Sys2Proof.Machine
end

