-- ==== Sys2Proof/Machine/Step.lean ====
section
/-! DEFINITION. The step of the device, and the machine in which a given instruction is the next to execute. -/

namespace Sys2Proof.Machine

/-- One step (log entry 2, DESIGN CHOICE). -/
def step (s : State) : Host.Outcome State Fault Refusal := s.run

/-- The device with an instruction of `nbits` bits where its next step fetches: 64 bits are a stream word, which a stream
context reaches; any other word is fetched by a gang (log entry 24, DESIGN CHOICE). -/
def State.withFetchWord (s : State) (nbits w : Nat) : State :=
  if nbits = 64 then s.bench true (toBytes 8 w) else s.bench false (toBytes 8 (w % 2 ^ 32))

end Sys2Proof.Machine
end

