-- ==== Sys2Proof/Safety.lean ====
section
/-! DEFINITION. What counts as a safe state and a safe run, and the terms in which statements say what an instruction changes
and what it leaves alone. -/

namespace Sys2Proof.Machine

/-- Memory is in its canonical form: addresses strictly rising, and no cell that equals what an unlisted address reads as. -/
abbrev Memory.wf (m : List Host.Cell) : Prop := canonical Config.unwritten m = true

/-- The step neither faults nor is refused. -/
def Completes (o : Host.Outcome State Fault Refusal) : Prop := ∃ t, o = .next t

/-- The device as an act finds it that the agenda names: the write parts of atomics that may not wait for it have been made (14
R322). -/
def State.taken (s : State) (a : Act) (rest : List Act) : State :=
  let v := { s with agenda := rest }
  if a.mayPart || v.halves.isEmpty then v else v.finishHalves fun _ => true

/-- A run of `n` steps from a state neither faults nor is refused. -/
def SafeFor (n : Nat) (s : State) : Prop := ∃ t, Sys2Proof.core.run n s = .next t

/-- The instruction answers a next state, and that state is as `P` says. -/
abbrev EndsIn (i : Instr) (s : State) (P : State → Prop) : Prop := ∃ t, exec i s = .next t ∧ P t

/-! ### An instruction that issues -/

/-- The instruction passes its issue checks as `e`, and is not captured to wait for a pending source (03 R75; 10 R225). -/
abbrev Issues (s : State) (i : Instr) (e : Issue) : Prop := s.front i = .go e ∧ e.cap = false

/-- Nothing but one gang differs: memory, poison, caches, queues, every other gang and the whole device beside them stand as
before. -/
abbrev OnlyGang (s t : State) (gk : Nat) : Prop := t = { s with gangs := t.gangs } ∧ ∀ k, k ≠ gk → t.gang k = s.gang k

/-- Nothing but one gang and the queues that results are sent to differs. -/
abbrev OnlyGangLinks (s t : State) (gk : Nat) : Prop :=
  t = { s with gangs := t.gangs, links := t.links } ∧ ∀ k, k ≠ gk → t.gang k = s.gang k

/-- The requests of an access to some places, if they lie on other chips, have been sent and answered (19 R407). -/
abbrev Answered (s : State) (fs : List (Nat × Nat)) (m : Mask) (flat : (lane : Nat) → Nat) : Prop :=
  (∀ l, has m l = true → peerOf (flat l) = none) ∨ fs ≠ [] ∧ s.answered fs = true

/-- Every byte of memory reads as before. -/
abbrev SameMemory (s t : State) : Prop := ∀ a, t.byte a = s.byte a

/-- The cohort's instruction has retired: its slices go on at their next repetition or word, no other slice changes, and the
scheduler notes it (03 R67, R80; 10 R218). -/
abbrev Retires (s t : State) (e : Issue) : Prop :=
  (t.gang e.gk).slices = ((s.gang e.gk).onSlices e.ss fun _ x => x.advance s.clock).slices
    ∧ (t.gang e.gk).sched = (s.gang e.gk).sched.retire

/-- The cohort's slices stand at an address `dst i` of their own, the others where they stood. -/
abbrev JumpsTo (s t : State) (e : Issue) (dst : Nat → Nat) : Prop :=
  (∀ i, i < (s.gang e.gk).slices.length →
    ((t.gang e.gk).slice i).pc = if e.ss.contains i then pcMake (dst i) 0 else ((s.gang e.gk).slice i).pc)
    ∧ (t.gang e.gk).sched = (s.gang e.gk).sched.retire

/-- In the lanes of `m` the vector registers `ns` read as `f` says; every other lane and register, and the other bank of
v0 to v7, reads as before (01 R16, R39). -/
abbrev WritesV (g h : Gang) (m : Mask) (ns : List Nat) (f : (lane reg : Nat) → W32) : Prop :=
  (∀ l n, l < 32 → h.readV l n = if has m l = true ∧ n ∈ ns then f l n else g.readV l n)
    ∧ (g.supH = false → h.regs.shadow = g.regs.shadow)
    ∧ (g.supH = true → ∀ l n, l < 32 → n < 8 → get 0 h.regs.vec (slotKey l n) = get 0 g.regs.vec (slotKey l n))

/-- In the lanes of `m` the predicates `ns` read as `f` says, every other lane and predicate as before (01 R20). -/
abbrev WritesP (g h : Gang) (m : Mask) (ns : List Nat) (f : (lane : Nat) → Bool) : Prop :=
  ∀ l n, l < 32 → h.readP l n = if has m l = true ∧ n ∈ ns then f l else g.readP l n

/-- The random state of a lane of `m` has made `f` steps, every other lane's none (01 R32). -/
abbrev DrawsXs (g h : Gang) (m : Mask) (f : (lane : Nat) → Nat) : Prop :=
  ∀ l, l < 32 → h.xsOf l = if has m l = true then (g.xsOf l).steps (f l) else g.xsOf l

/-- The fan-out set of an instruction's result: that of MODE.fan where the instruction has one, else the register file alone
(03 R77, R78). -/
def Issue.fanOf (e : Issue) (i : Instr) : Nat := if (desc i).fan then e.g.fanSet (mFan e.mode) else 1

/-- The vector registers, and the predicates, that a computing instruction writes: those that its destination names, the
vector registers only where its fan-out set holds the register file. -/
def State.vecDests (s : State) (e : Issue) (i : Instr) : List Nat :=
  match destOf i with
  | some o =>
    if o.kind = .pred ∨ bit (e.fanOf i) 0 = false then []
    else if (s.opNames e o).length = 2 then [s.cur.num o, s.cur.num o + 1] else [s.cur.num o]
  | none => []
def State.predDests (s : State) (i : Instr) : List Nat :=
  match destOf i with
  | some o => if o.kind = .pred then [s.cur.num o] else []
  | none => []

/-- The word that a result leaves in a destination register: a pair's even register has the low half (01 R19). -/
def State.outReg (s : State) (i : Instr) (o : Out) (n : Nat) : W32 :=
  match destOf i with
  | some d => if n = s.cur.num d then lo32 o.val else hi32 o.val
  | none => 0

/-- Of a gang nothing differs but registers, program counters and issue counts, and its sticky flags are as given. -/
abbrev OnlyRegs (g h : Gang) (x : Sys) : Prop := h = { g with regs := h.regs, slices := h.slices, sched := h.sched, sys := x }

/-- What a computing instruction does in a gang's registers: the lanes of `m` have the results `os` in its destinations and
have drawn, their later writer it is, and every other register stands (01 R16, R20, R32; 10 R224). -/
abbrev Delivers (s : State) (e : Issue) (i : Instr) (g h : Gang) (m : Mask) (os : (lane : Nat) → Out) : Prop :=
  WritesV g h m (s.vecDests e i) (fun l n => s.outReg i (os l) n)
    ∧ WritesP g h m (s.predDests i) (fun l => (os l).p)
    ∧ DrawsXs g h m (fun l => (os l).draws)
    ∧ h.regs.pend = (g.laterWriters m (s.vecDests e i ++ (s.predDests i).map (64 + ·))).regs.pend

/-- The instruction completes in `t`, with the results `os` of its active lanes: it retires, its flags stick (01 R37), a
result goes to queues only where its fan-out set holds one (03 R77), and nothing else of the device changes. -/
abbrev Finishes (s t : State) (e : Issue) (i : Instr) (os : (lane : Nat) → Out) (f : Flags) (sat : Bool) : Prop :=
  OnlyGangLinks s t e.gk ∧ SameMemory s t ∧ Retires s t e ∧ (e.fanOf i = 1 → t.links = s.links)
    ∧ OnlyRegs (s.gang e.gk) (t.gang e.gk) ((s.gang e.gk).sys.raise f sat)
    ∧ Delivers s e i (s.gang e.gk) (t.gang e.gk) e.act os

/-! ### What computing instructions leave in their elements (chapter 04) -/

/-- The value of a register, or of the pair of a 64-bit type, in a lane (02 R41; 01 R19), and one element of it: as bits, and
as the integer that an integer type gives them. -/
def Gang.value (g : Gang) (t l n : Nat) : Nat := if is64 t then (g.readPair l n).toNat else (g.readV l n).toNat
def Gang.elem (g : Gang) (t l n j : Nat) : Nat := element t j (g.value t l n)
def Gang.int (g : Gang) (t l n j : Nat) : Int := intVal t (g.elem t l n j)

/-- An integer instruction's exact result before it is fitted into its element (04 R96 to R100, R106); `v` gives the operands'
elements. DIV and REM by zero, which are given as bits, are not here. -/
def exactInt (t : Nat) (v : (reg : BitVec 6) → Int) : Instr → Option Int
  | .add _ a b => some (v a + v b)
  | .sub _ a b => some (v a - v b)
  | .mul _ a b => some (v a * v b)
  | .mad _ a b c => some (v a * v b + v c)
  | .mulh _ a b => some (v a * v b / 2 ^ tyWidth t)
  | .min _ a b => some (min (v a) (v b))
  | .max _ a b => some (max (v a) (v b))
  | .div _ a b => if v b = 0 then none else some ((v a).tdiv (v b))
  | .rem _ a b => some (if v b = 0 then v a else (v a).tmod (v b))
  | .abs _ a => some |v a|
  | .neg _ a => some (-v a)
  | .addi _ a i => some (v a + i.toInt)
  | _ => none

/-- The bounds of an integer type of width `w`, and an exact result fitted into its element: reduced modulo `2^w`, or under
MODE.sat clamped to the nearest bound (02 R42). MULH and REM never leave their range once reduced. -/
def fitInt (t : Nat) (sat : Bool) (x : Int) : Nat := wrap (tyWidth t) (if sat then max (intMin t) (min (intMax t) x) else x)

/-- The element that a bitwise, shifting or counting instruction leaves (04 R101 to R103); `v` gives the operands' elements
and `n` a shift count. -/
def bitsElem (t : Nat) (v : (reg : BitVec 6) → Nat) (n : (reg : BitVec 6) → Nat) : Instr → Option Nat
  | .and _ a b => some (Nat.land (v a) (v b))
  | .or _ a b => some (Nat.lor (v a) (v b))
  | .xor _ a b => some (Nat.xor (v a) (v b))
  | .andn _ a b => some (Nat.land (v a) (2 ^ tyWidth t - 1 - v b))
  | .not _ a => some (2 ^ tyWidth t - 1 - v a)
  | .shl _ a b => some (v a * 2 ^ n b % 2 ^ tyWidth t)
  | .shr _ a b => some (v a / 2 ^ n b)
  | .sar _ a b => some (wrap (tyWidth t) (signed (tyWidth t) (v a) / 2 ^ n b))
  | .rot _ a b => some ((v a * 2 ^ (n b % tyWidth t) + v a / 2 ^ (tyWidth t - n b % tyWidth t)) % 2 ^ tyWidth t)
  | .popc _ a => some ((List.range (tyWidth t)).countP fun k => (v a).testBit k)
  | .clz _ a => some (tyWidth t - Nat.size (v a))
  | .brev _ a => some ((List.range (tyWidth t)).foldl (fun r k => r + b2n ((v a).testBit (tyWidth t - 1 - k)) * 2 ^ k) 0)
  | .andi _ a i => some (Nat.land (v a) i.toNat)
  | .ori _ a i => some (Nat.lor (v a) i.toNat)
  | .xori _ a i => some (Nat.xor (v a) i.toNat)
  | .shli _ a i => some (v a * 2 ^ i.toNat % 2 ^ tyWidth t)
  | .shri _ a i => some (v a / 2 ^ i.toNat)
  | .sari _ a i => some (wrap (tyWidth t) (signed (tyWidth t) (v a) / 2 ^ i.toNat))
  | _ => none

/-- Bit `k` of what BFX leaves of `x`: `len` bits of it from `pos` on, above its top extended by its type's signedness (04 R104). -/
def bfxBit (t x pos len k : Nat) : Bool :=
  let w := tyWidth t
  let n := min len w
  let ext (j : Nat) : Bool := if j < w then x.testBit j else tySigned t && x.testBit (w - 1)
  decide (n ≠ 0) && if tySigned t then ext (pos + min k (n - 1)) else decide (k < n) && ext (pos + k)

/-- Bit `k` of what BFI leaves of `x` with `y` put in (04 R104). -/
def bfiBit (x y pos len k : Nat) : Bool := if pos ≤ k ∧ k < pos + len then y.testBit (k - pos) else x.testBit k

/-- The class of a floating element's bits, by its fields (04 R108); under MODE.ftz a subnormal is a zero of its sign. -/
def classNumber (f : Fmt) (ftz : Bool) (x : Nat) : Nat :=
  let neg := x.testBit (f.eb + f.fb)
  let exp := x / 2 ^ f.fb % 2 ^ f.eb
  let frac := x % 2 ^ f.fb
  if exp = 2 ^ f.eb - 1 ∧ frac ≠ 0 then (if frac.testBit (f.fb - 1) then 1 else 0)
  else if exp = 2 ^ f.eb - 1 then (if neg then 2 else 9)
  else if exp ≠ 0 then (if neg then 3 else 8)
  else if frac = 0 ∨ ftz = true then (if neg then 5 else 6)
  else if neg then 4 else 7

/-- A floating instruction's exact result before it is rounded, and the invalid and divide-by-zero flags that it raises
(02 R55, R60; 04 R97 to R100); `x` gives the operands' elements as bits. -/
def exactFlt (t : Nat) (m : W32) (x : (reg : BitVec 6) → Nat) : Instr → Option (Exact × Flags)
  | .add _ a b => some (addE (mRnd m == 2) (v a) (v b))
  | .sub _ a b => some (addE (mRnd m == 2) (v a) (negV (v b)))
  | .mul _ a b => some (mulE (v a) (v b))
  | .div _ a b => some (divE (v a) (v b))
  | .mad _ a b c => some (fmaE (mRnd m == 2) (v a) (v b) (v c))
  | .sqrt _ a => some (sqrtE (v a))
  | .rcp _ a => some (rcpE (v a))
  | .rsq _ a => some (rsqE (v a))
  | .exp2 _ a => some (exp2E t (x a) (v a))
  | .log2 _ a => some (log2E t (x a) (v a))
  | .sin _ a => some (sinE t (x a) (v a))
  | .cos _ a => some (cosE t (x a) (v a))
  | _ => none
where
  /-- An operand's value, a subnormal read as zero under MODE.ftz (02 R54). -/
  v (r : BitVec 6) : Val := (tyFmt t).decodeZ (mFtz m) (x r)

/-- Floating MIN, MAX, ABS and NEG, which do not round: the element that they leave, and whether they raise invalid (04 R97, R99;
02 R54). A lone NaN yields the other operand, two NaNs the first made quiet; −0 stands below +0; ABS and NEG change the sign bit
alone. -/
def unrounded (t : Nat) (m : W32) (x : (reg : BitVec 6) → Nat) : Instr → Option (Nat × Bool)
  | .min _ a b => some (choose (below (v b) (v a)) a b, sig a || sig b)
  | .max _ a b => some (choose (below (v a) (v b)) a b, sig a || sig b)
  | .abs _ a => some (z a % 2 ^ (tyWidth t - 1), false)
  | .neg _ a => some ((z a + 2 ^ (tyWidth t - 1)) % 2 ^ tyWidth t, false)
  | _ => none
where
  /-- An operand's value, its bits with a subnormal read as zero under MODE.ftz, and whether it is a signalling NaN. -/
  v (r : BitVec 6) : Val := (tyFmt t).decodeZ (mFtz m) (x r)
  z (r : BitVec 6) : Nat :=
    if mFtz m = true ∧ x r / 2 ^ (tyFmt t).fb % 2 ^ (tyFmt t).eb = 0 then x r / 2 ^ (tyWidth t - 1) * 2 ^ (tyWidth t - 1) else x r
  sig (r : BitVec 6) : Bool := v r == .nan true
  choose (second : Bool) (a b : BitVec 6) : Nat :=
    if isNan (v a) ∧ isNan (v b) then Nat.lor (x a) (2 ^ ((tyFmt t).fb - 1))
    else if isNan (v a) then z b
    else if isNan (v b) then z a
    else if second then z b else z a

/-! Conversions (02 R57 to R59; 04 R110, R111). -/

/-- A value in a floating type: rounded once, with the cases of R57's table where the type has no counterpart. -/
def toFloat (t : Nat) (m : W32) (u : Nat) : Val → Nat × Flags
  | .nan s => if t = 14 then (0, nvF) else ((tyFmt t).nan, if s then nvF else 0)
  | .inf neg =>
    if t = 14 then (top neg, nvF)
    else if mSat m = true ∧ t ≠ 9 then (top neg, 0)
    else if t = 12 then ((tyFmt t).nan, nvF)
    else ((tyFmt t).inf neg, 0)
  | .fin neg k q =>
    let r := (tyFmt t).deliver (mRnd m) u (mFtz m) (exactOf neg k q)
    if r.2.testBit 2 = false then r
    else if t = 14 ∨ mSat m = true ∧ t ≠ 9 then (top neg, r.2)
    else if t = 12 then ((tyFmt t).nan, r.2)
    else r
where
  /-- The largest finite value. -/
  top (neg : Bool) : Nat := (tyFmt t).withSign neg (tyFmt t).maxPat

/-- A value in an integer type: rounded, and outside the range the nearer bound with invalid (R58). -/
def toInteger (t : Nat) (m : W32) (u : Nat) : Val → Nat × Flags
  | .nan _ => (0, nvF)
  | .inf neg => (wrap (tyWidth t) (if neg then intMin t else intMax t), nvF)
  | .fin neg k q =>
    let i := (roundInt (mRnd m) u neg k q).1
    let x := max (intMin t) (min (intMax t) i)
    (wrap (tyWidth t) x, if x ≠ i then nvF else if (roundInt (mRnd m) u neg k q).2 then nxF else 0)

/-- A value as a trit plus one: clamped to −1 and +1 and rounded (R58). -/
def toTrit (m : W32) (u : Nat) : Val → Nat × Flags
  | .nan _ => (1, nvF)
  | .inf neg => (if neg then 0 else 2, nxF)
  | .fin neg k q =>
    if cmpV (.fin false k q) (.fin false 1 0) = .gt then (if neg then 0 else 2, nxF)
    else (((roundInt (mRnd m) u neg k q).1 + 1).toNat, if (roundInt (mRnd m) u neg k q).2 then nxF else 0)

/-- A value as a scale `2^k`, which `x = c · 2^q` gives with `j = floor(log2 x)` and the rounding of R59. -/
def toScale (m : W32) (u : Nat) : Val → Nat × Flags
  | .fin false c q =>
    let b := Nat.log2 c
    let j : Int := b + q
    let up : Bool := match mRnd m with
      | 0 => decide (3 * 2 ^ b < 2 * c) || (decide (3 * 2 ^ b = 2 * c) && decide (j % 2 = 1))
      | 1 | 2 => false
      | 3 => decide (2 ^ b < c)
      | 4 => decide (3 * 2 ^ b ≤ 2 * c)
      | _ => decide (2 ^ 32 ≤ (c - 2 ^ b) * 2 ^ 32 / 2 ^ b + u)
    let k := if up then j + 1 else j
    if c = 0 then (0xFF, nvF)
    else if 127 < k then (0xFE, orF ofF nxF)
    else if k < -127 then (0, orF ufF nxF)
    else ((k + 127).toNat, if c = 2 ^ b then 0 else nxF)
  | _ => (0xFF, nvF)

/-- Element `j` of a register as CVT counts it: of tern a trit plus one, a reserved byte reading as zero trits. -/
def cvtElement (t x j : Nat) : Nat :=
  if t = 16 then (if x / 2 ^ (8 * (j / 5)) % 256 > 242 then 1 else x / 2 ^ (8 * (j / 5)) % 256 / 3 ^ (j % 5) % 3) else element t j x

/-- Conv (04 R111) of element `j` of a source register: the element of the destination type, the flags, and whether sys.gflags.isat
is set. -/
def converted (m : W32) (u x j : Nat) : Nat × Flags × Bool :=
  let t := mType m
  let t₂ := mType2 m
  let i := intVal t₂ (cvtElement t₂ x j)
  let of (v : Val) (f : Flags) : Nat × Flags × Bool :=
    let r := if isInt t then toInteger t m u v else if t = 16 then toTrit m u v else if t = 17 then toScale m u v else toFloat t m u v
    (r.1, orF f r.2, false)
  if isInt t₂ ∧ isInt t then
    if t = t₂ ∨ tyWidth t₂ < tyWidth t then (wrap (tyWidth t) i, 0, false)
    else (fitInt t (mSat m) i, 0, mSat m && decide (i < intMin t ∨ intMax t < i))
  else if isInt t₂ then of (.fin (decide (i < 0)) i.natAbs 0) 0
  else if t₂ = 16 then
    if x / 2 ^ (8 * (j / 5)) % 256 > 242 then of (.nan false) nvF
    else of (.fin (decide (cvtElement 16 x j = 0)) (if cvtElement 16 x j = 1 then 0 else 1) 0) 0
  else if t₂ = 17 then (if element 17 j x = 0xFF then of (.nan false) 0 else of (.fin false 1 ((element 17 j x : Int) - 127)) 0)
  else
    let v := (tyFmt t₂).decodeZ (mFtz m) (element t₂ j x)
    of v (if v = .nan true then nvF else 0)

/-- The stochastic word of the `j`-th element that a lane rounds; 0 where MODE.rnd is not the stochastic code (02 R53). -/
def Issue.stochastic (e : Issue) (l j : Nat) : Nat :=
  if mRnd e.mode = 5 then (((e.g.xsOf l).steps j).step.2.toNat) % 2 ^ 32 else 0

/-- The bit that a comparison of two values leaves (04 R107): integers by their order, floating values by theirs, NaN being
unordered and unequal. -/
def comparison (t : Nat) (m : W32) (x : (reg : BitVec 6) → Nat) : Instr → Option Bool
  | .cmpEq _ a b => some (!un a b && ord a b == .eq)
  | .cmpNe _ a b => some (un a b || ord a b != .eq)
  | .cmpLt _ a b => some (!un a b && ord a b == .lt)
  | .cmpLe _ a b => some (!un a b && ord a b != .gt)
  | .cmpGt _ a b => some (!un a b && ord a b == .gt)
  | .cmpGe _ a b => some (!un a b && ord a b != .lt)
  | .cmpUn _ a b => some (un a b)
  | _ => none
where
  /-- The value, the order, and whether some operand is a NaN. -/
  v (r : BitVec 6) : Val := (tyFmt t).decodeZ (mFtz m) (x r)
  ord (a b : BitVec 6) : Ordering := if isFlt t then cmpV (v a) (v b) else compare (intVal t (x a)) (intVal t (x b))
  un (a b : BitVec 6) : Bool := isFlt t && (isNan (v a) || isNan (v b))

/-- No lane raises a floating-point flag that sys.fpctl enables (02 R56). -/
abbrev NoFpTrap (i : Instr) (e : Issue) : Prop :=
  ∀ k, kernelOf i = some k → raisingLanes (outcomes k (e.env 0)) e.g.sys.fpctl = 0

/-- The lane that SHFL and its kin read: `j` where it is an active lane, the lane itself elsewhere (04 R116). -/
def Issue.source (e : Issue) (l j : Nat) : Nat := if j < 32 ∧ has e.act j = true then j else l

/-! ### Control and traps -/

/-- Of a gang nothing differs but its slices, paths, exited lanes, rejoin registers and issue counts: every register, flag,
queue and count of accesses stands. -/
abbrev OnlyControl (g h : Gang) : Prop :=
  h = { g with slices := h.slices, path := h.path, exited := h.exited, rejoin := h.rejoin, sched := h.sched }

/-- Only control of one gang differs in the whole device. -/
abbrev Steers (s t : State) (gk : Nat) : Prop := OnlyGang s t gk ∧ OnlyControl (s.gang gk) (t.gang gk)

/-- Entry `j` of rejoin register `k` may be exchanged for slice `i`'s path at a branch to `target` (10 R222). -/
abbrev Exchangeable (g : Gang) (i target k j : Nat) (p : Path) : Prop :=
  k < 8 ∧ (g.rejoinReg k).paths[j]? = some p ∧ p.mask &&& sliceMask i ≠ 0 ∧ 4096 ≤ p.count ∧ p.base = (g.slice i).base
    ∧ g.anyWaits k = false ∧ ((g.rejoinReg k).paths.length < 8 ∨ ∃ q ∈ (g.rejoinReg k).paths, q.pc = target)

/-- Slice `i` exchanges its path for the entry held longest of those that qualify, and keeps it where none does (10 R222): its own
lanes are pending at the target, the entry's lanes of the slice are its path, the slice stands at the entry's address in a cohort
of its own, and what remains of the entry counts afresh. -/
abbrev Exchanges (target i : Nat) (g h : Gang) : Prop :=
  ((∀ k j p, ¬ Exchangeable g i target k j p) → h = g)
    ∧ (i < g.slices.length → (∃ k j p, Exchangeable g i target k j p) → ∃ k j p, Exchangeable g i target k j p
        ∧ (∀ k' j' p', Exchangeable g i target k' j' p' → p'.count ≤ p.count)
        ∧ h = { g with slices := h.slices, path := h.path, rejoin := h.rejoin }
        ∧ (∀ n, n ≠ i → h.slice n = g.slice n ∧ (n < g.slices.length → (h.slice n).cohort ≠ (h.slice i).cohort))
        ∧ (h.slice i).pc = pcMake p.pc 0 ∧ (h.slice i).base = (g.slice i).base
        ∧ (((g.rejoinReg k).paths.map (·.pc)).Nodup →
            h.path = (g.path &&& ~~~sliceMask i) ||| ((if p.pc = target then p.mask ||| g.path else p.mask) &&& sliceMask i)
            ∧ (∀ q ∈ (h.rejoinReg k).paths, q.pc = p.pc → q.count = 0)
            ∧ ∀ x l, l < 32 → ((∃ q ∈ (h.rejoinReg k).paths, q.pc = x ∧ has q.mask l = true) ↔
                (∃ q ∈ (g.rejoinReg k).paths, q.pc = x ∧ has q.mask l = true) ∧ ¬ (x = p.pc ∧ l / 4 = i)
                  ∨ x = target ∧ x ≠ p.pc ∧ l / 4 = i ∧ has g.path l = true))
        ∧ ∀ n, n ≠ k → h.rejoinReg n = g.rejoinReg n)

/-- The slices of a list exchange their paths one after another. -/
def ExchangesAll (target : Nat) : List Nat → Gang → Gang → Prop
  | [], g, h => h = g
  | i :: is, g, h => ∃ m, Exchanges target i g m ∧ ExchangesAll target is m h

/-- No write of sys.stvec is younger than 800 cycles, so that a trap finds the value that the register holds (01 R40). -/
abbrev StvecSettled (s : State) (p : Nat) : Prop := ∀ o ∈ (s.part p).stvecOld, o.1 + 800 ≤ s.clock

/-- The gang has entered a handler: the frame is as given, the slices of the trapping cohort run at the vector with MODE 0 and
no repeat sequence, the other running slices are held until the handler's TRET, the level is the handler's, and the user
context's registers, predicates and random states stand (05 R140; 01 R28, R39). -/
abbrev Handling (g h : Gang) (ss : List Nat) (f : Frame) (sup : Bool) (vec : W64) : Prop :=
  h.frame = f
    ∧ (∀ i, i < g.slices.length →
        if ss.contains i then (h.slice i).pc = pcMake (pcAddr vec / 4 * 4) 0 ∧ (h.slice i).mode = 0 ∧ (h.slice i).rep = none
          ∧ (h.slice i).base = (g.slice i).base
        else (h.slice i).pc = (g.slice i).pc
          ∧ (h.slice i).held = (if (g.slice i).held = 0 then (if sup then 2 + h.nest else 1) else (g.slice i).held))
    ∧ h.level = (if sup then 1 else g.level) ∧ h.supH = (sup || g.supH) ∧ h.userH = (!sup || g.userH)
    ∧ h.nest = (if sup ∧ g.supH then g.nest + 1 else g.nest)
    ∧ h.path = g.path ∧ h.exited = g.exited
    ∧ h.regs.vec = g.regs.vec ∧ h.regs.pred = g.regs.pred ∧ h.regs.xs = g.regs.xs
    ∧ (sup = true → h.regs.shadow.kept = [])

/-- A trap in the device changes no memory, and beside the gang only the number of free values used. -/
abbrev TrapFrame (s t : State) (gk : Nat) : Prop :=
  t = { s with gangs := t.gangs, free := t.free } ∧ ∀ k, k ≠ gk → t.gang k = s.gang k

/-! ### Memory accesses -/

/-- The loads, each with whether the core's load cache serves it (07 R158, R160). -/
def loadCached : Instr → Option Bool
  | .ld _ _ _ | .ld2 _ _ _ | .ld4 _ _ _ | .ldxZb _ _ _ | .ldxSb _ _ _ | .ldxZh _ _ _ | .ldxSh _ _ _ | .ldxW _ _ _ | .ldxD _ _ _ =>
    some true
  | .lds _ _ _ | .lda _ _ _ => some false
  | _ => none

/-- The stores and reductions, each with whether host memory supports it (07 R158, R168). -/
def storeHost (m : W32) : Instr → Option Bool
  | .st _ _ _ | .st2 _ _ _ | .st4 _ _ _ | .sts _ _ _ | .stxB _ _ _ | .stxH _ _ _ | .stxW _ _ _ | .stxD _ _ _ | .stl _ _ _ => some true
  | .redAdd _ _ _ => some (isInt (mType m))
  | .redMin _ _ _ | .redMax _ _ _ | .redAnd _ _ _ | .redOr _ _ _ | .redXor _ _ _ => some false
  | _ => none

/-- The atomics that return a value (07 R166): what memory becomes and whether host memory supports it (07 R168); `v` gives the
operands of the lane and `old` what stood there. -/
def atomicStep (m : W32) (v : (reg : BitVec 6) → Nat) (old : Nat) : Instr → Option Nat
  | .aadd _ _ _ b => some (amo 0 (mType m) old (v b))
  | .amin _ _ _ b => some (amo 1 (mType m) old (v b))
  | .amax _ _ _ b => some (amo 2 (mType m) old (v b))
  | .aand _ _ _ b => some (Nat.land old (v b))
  | .aor _ _ _ b => some (Nat.lor old (v b))
  | .axor _ _ _ b => some (Nat.xor old (v b))
  | .axch _ _ _ b => some (v b)
  | .ainc _ _ _ b => some (if old ≥ v b then 0 else old + 1)
  | .cas _ _ _ b c => some (if old = v b then v c else old)
  | _ => none
def atomicHost (m : W32) : Instr → Bool
  | .aadd _ _ _ _ => isInt (mType m)
  | .axch _ _ _ _ | .cas _ _ _ _ _ => true
  | _ => false

/-- The lanes' addresses, and the device once it holds the translations that the access makes (18 R375). -/
def Issue.addresses (e : Issue) (x : Access) : List (Nat × Nat) := x.lanes e.act e.g.readV
def Issue.warmed (e : Issue) (s : State) (x : Access) : State := s.warm e.gk x (e.addresses x)

/-- Every active lane's access passes the checks of 07 R154 and reaches the place `flat` gives it. -/
abbrev Placed (s : State) (e : Issue) (x : Access) (kind : Nat) (pcie : Bool) (flat : (lane : Nat) → Nat) : Prop :=
  ∀ l, has e.act l = true → (e.warmed s x).laneAt e.gk x kind pcie (x.addr (e.g.readV l)) = .ok (flat l)

/-- Nothing holds the access up at those places: crossbar balance, the host link, requests to other chips that are not answered,
and for a scratchpad access the on-touch windows (11 R252; 16 R365; 19 R399, R407). -/
abbrev Unhindered (s : State) (e : Issue) (x : Access) (flat : (lane : Nat) → Nat) : Prop :=
  s.crossbarOk e.gk x = true
    ∧ ((s.part (s.partOf e.g)).linked = true ∨ ∀ l, has e.act l = true → isHost (flat l) = false)
    ∧ Answered s e.flits e.act flat
    ∧ (x.spad = true → ∀ l, has e.act l = true → s.winAt e.g.group (flat l) x.size (x.addr (e.g.readV l)) = .free)

/-- No byte at those places is poisoned or out of reach (20 R416; 19 R407). -/
abbrev Sound (s : State) (e : Issue) (x : Access) (flat : (lane : Nat) → Nat) : Prop :=
  ∀ l, has e.act l = true → s.poisoned (flat l) x.size = false
    ∧ ∀ j, j < x.size → s.poisoned (flat l + j) 1 = false ∧ s.unreachable (flat l + j) = false

/-- The bytes that a load of a gang reads at a place: a held line's where the load cache serves it and the gang has acquired
nothing since it was filled, else those that the core path sees in memory (07 R160; 14 R315, R318). -/
def State.seen (s : State) (gk : Nat) (cache : Bool) (a n : Nat) : List Byte :=
  let g := s.gang gk
  (List.range n).map fun j =>
    if cache then (s.cached g.core g.since (a + j)).getD (s.coreByte gk (a + j)) else s.coreByte gk (a + j)

/-- The same in the device that knows what the gang reads in the lanes of its access (14 R323, R324). -/
def Issue.seen (e : Issue) (s : State) (x : Access) (cache : Bool) (flat : (lane : Nat) → Nat) (l : Nat) : List Byte :=
  (s.readNear e.gk ((lanesOf e.act).map fun k => (flat k, x.size))).seen e.gk cache (flat l) x.size

/-- The word that a load leaves in a data register. -/
def Access.word (x : Access) (bs : List Byte) (n : Nat) : W32 := ((x.words bs)[x.regs.idxOf n]?).getD 0

/-- A write is seen by every core on a path (14 R315). -/
abbrev Veil.shownTo (v : Veil) (p : Nat) : Prop := ∀ c, c < 256 → v.hides (seat p c) = false

/-- An access changes nothing of the device but the gang, held translations, cache lines, who sees which write, which passes may
still read, what the partition is charged and metered, and the flits that it sends to another chip. -/
abbrev AccessFrame (s t : State) (gk : Nat) : Prop :=
  t = { s with gangs := t.gangs, tlb := t.tlb, cores := t.cores, parts := t.parts, free := t.free, chip := t.chip, mem := t.mem
               inked := t.inked, poison := t.poison, veils := t.veils, rereads := t.rereads, aside := t.aside }
    ∧ ∀ k, k ≠ gk → t.gang k = s.gang k

/-- The running sum of a floating reduction's operands, each addition rounded to nearest even (07 R170). -/
def floatSum (t : Nat) : List Nat → Nat
  | [] => 0
  | y :: ys => ys.foldl (fAdd t) y

/-- No atomic's write part is to come, and the act keeps none apart (14 R322). -/
abbrev Whole (s : State) : Prop := s.halves = [] ∧ s.aside = false

/-- The host's root port supports the operation at those places (07 R168). -/
abbrev Supported (s : State) (m : Mask) (flat : (lane : Nat) → Nat) : Prop :=
  ∀ l, has m l = true → isHost (flat l) = true → Config.unsupported s.free (flat l) = false

/-- A place lies outside the bytes that the lanes of a mask reach. -/
abbrev Outside (m : Mask) (flat : (lane : Nat) → Nat) (n a : Nat) : Prop := ∀ l, has m l = true → a < flat l ∨ flat l + n ≤ a

/-! ### The SRAM pool, queues and the other families -/

/-- A slice stands as before, but that what it waits for has been tested again. -/
abbrev Retested (x y : Slice) : Prop := y = { x with stall := y.stall }

/-- A pool instruction changes nothing of the device but its gang, groups, cores, memory and who sees which write; of other gangs only where their
spans of uniform registers end and where they wait for a phase of the object. -/
abbrev PoolFrame (s t : State) (gk : Nat) : Prop :=
  t = { s with gangs := t.gangs, groups := t.groups, cores := t.cores, mem := t.mem, inked := t.inked, poison := t.poison
               veils := t.veils }
    ∧ ∀ k, k ≠ gk → t.gang k = { s.gang k with lastRead := (t.gang k).lastRead, slices := (t.gang k).slices }
        ∧ ∀ i, Retested ((s.gang k).slice i) ((t.gang k).slice i)

/-- The cohort's instruction has retired, and waits for a phase of a barrier object may have been tested again (11 R240). -/
abbrev RetiresTesting (s t : State) (e : Issue) : Prop :=
  (∀ i, i < (s.gang e.gk).slices.length →
    if e.ss.contains i then (t.gang e.gk).slice i = ((s.gang e.gk).slice i).advance s.clock
    else Retested ((s.gang e.gk).slice i) ((t.gang e.gk).slice i))
    ∧ (t.gang e.gk).sched = (s.gang e.gk).sched.retire

/-- The gang's registers stand. -/
abbrev KeepsRegs (s t : State) (gk : Nat) : Prop := (t.gang gk).regs = (s.gang gk).regs

/-- The instruction retires with one word in its destination in every active lane. -/
abbrev Answers (s t : State) (e : Issue) (d : BitVec 6) (x : Nat) : Prop :=
  WritesV (s.gang e.gk) (t.gang e.gk) e.act [d.toNat] (fun _ _ => w32 x) ∧ Retires s t e

/-- The cohort did not issue: it stands where it stood, and nothing but control of its gang differs. -/
abbrev StandsStill (s t : State) (e : Issue) : Prop :=
  Steers s t e.gk ∧ SameMemory s t ∧ ∀ i, ((t.gang e.gk).slice i).pc = ((s.gang e.gk).slice i).pc

/-- The cohort's instruction traps with a cause, in its active lanes. -/
abbrev TrapsWith (i : Instr) (s : State) (e : Issue) (code : Nat) (aux : W64) : Prop :=
  exec i s = .next (s.trap e.gk e.ss { code := code, aux := aux, tmask := e.act, tpc := e.pc })

/-- A fault record is posted to a partition (18 R376): under the number that the ring's prod gives it where the ring has room and
no record waits, and kept behind the records that wait where it has none. Nothing but the ring's memory changes. -/
abbrev Posts (s t : State) (p : Nat) (r : FaultRec) : Prop :=
  let h := hostBase + (s.part p).fring
  (if s.ringRoom p = true then (s.part p).waiting = [] → (s.part p).hangs = [] → find (t.part p).faults (s.num h 4) = some r ∧ (t.part p).waiting = []
    else (t.part p).waiting = (s.part p).waiting ++ [r] ∧ (t.part p).faults = (s.part p).faults)
    ∧ (∀ c, (c < h ∨ h + 2 ^ 23 ≤ c) → t.byte c = s.byte c)
    ∧ ∀ q, q ≠ p → t.part q = s.part q

/-- The instructions of the supervisor level (01 R28; 18 R392), and the one system register that it alone reads (01
R36): `hiA` counts the 64s of a stepped selector. -/
def privileged (hiA : Nat) : Instr → Bool
  | .swr _ _ | .tlbinv _ _ | .quiesce _ _ | .ctxsave _ _ _ | .ctxload _ _ _ | .splv _ _ | .filv _ _ | .keysel _ _ _ | .halt _ => true
  | .srd _ a => a.toNat + 64 * hiA == 20
  | _ => false

end Sys2Proof.Machine
end

