-- ==== Sys2Proof/WellFormed.lean ====
section
/-! DEFINITION. Which terms name something: operand numbers inside their kinds, whatever MODE holds (03 R69, R75 step 4);
operands of stream words inside the ranges of their operation (11 R258 to R265); and units that the device has (00 R1). -/

namespace Sys2Proof

open Sys2Proof.Machine

/-- The operand is legal under some MODE and some descriptor. -/
def operandOk (o : Opnd) : Bool :=
  match o.kind with
  | .val | .sval | .merge | .tdata _ => decide (o.num ≤ 63)
  | .coord _ => decide (o.num ≤ 63)
  | k => (kindFault 0#32 (fun _ => false) (fun _ => 1) k o.num).isNone

/-- An e register, and one or "none" (11 R257). -/
def eReg (n : BitVec 4) : Bool := decide (n.toNat ≤ 7)
def eReg15 (n : BitVec 4) : Bool := eReg n || n == 15#4

/-- An immediate that stands where rb is "none", and is zero elsewhere. -/
def immOr (rb : BitVec 4) (imm : BitVec 40) : Bool := if rb = 15#4 then decide (imm.toNat < 2 ^ 32) else imm == 0

/-- The number of a core, a die, a partition and a page. -/
def coreOk (c : Nat) : Bool := decide (c < 256)
def dieOk (d : Nat) : Bool := decide (d < 4)
def partOk (p : Nat) : Bool := decide (p < 8)

/-- The term names an instruction, a stream operation or a step of the device. -/
def wellFormed (i : Instr) : Bool :=
  match i with
  | .seSet ra rb rc _ => eReg ra && rb == 0 && rc == 0
  | .seAdd ra rb rc _ => eReg ra && eReg rb && eReg15 rc
  | .seMul ra rb rc imm => eReg ra && eReg rb && eReg15 rc && (rc == 15#4 || imm == 0)
  | .seLoop ra rb rc imm => decide (ra.toNat ≤ 3) && eReg15 rb && rc == 0 && immOr rb imm
  | .seNext ra rb rc imm => decide (ra.toNat ≤ 3) && rb == 0 && rc == 0 && imm == 0
  | .seJmp ra rb rc _ => ra == 0 && eReg15 rb && rc == 0
  | .seStop ra rb rc imm | .seWaitf ra rb rc imm | .seFence ra rb rc imm => ra == 0 && rb == 0 && rc == 0 && imm == 0
  | .seCoord ra rb rc imm =>
    decide (ra.toNat ≤ 3) && decide (rb.toNat ≤ 5) && eReg rc && decide (1 ≤ imm.toNat) && decide (imm.toNat < 2 ^ 32)
  | .seFetch ra rb rc imm => decide (ra.toNat ≤ 3) && rb == 0 && rc == 0 && decide (imm.toNat < 2 ^ 32) && imm.toNat % 4 == 0
  | .seExpect ra rb rc imm => ra == 0 && eReg15 rb && rc == 0 && immOr rb imm
  | .seGather ra rb rc imm =>
    decide (ra.toNat ≤ 3) && decide (rb.toNat ≤ 5) && eReg rc && decide (1 ≤ imm.toNat) && decide (imm.toNat ≤ 65536)
  | .seKvfetch ra rb rc imm => decide (ra.toNat ≤ 3) && rb == 0 && rc == 0 && imm == 0
  | .seSignal ra rb rc imm => ra == 0 && eReg15 rb && eReg rc && immOr rb imm
  | .seMark ra rb rc imm => ra == 0 && rb == 0 && rc == 0 && decide (imm.toNat < 2 ^ 32)
  | .matrixPass c | .slabLoad c | .bandDrain c | .bandPark c | .decoderTableLoad c | .activeSetEntry c | .displacement c
  | .starvationPriority c => coreOk c
  | .cruRoundComplete u => decide (u < 64)
  | .joinComplete _ m | .rejoinTimeout _ m | .regangComplete _ m | .regangTimeout _ m => decide (m < 8)
  | .windowPresent _ e _ => decide (e < 32)
  | .dependencePoll p q | .launchDispatch p q | .queueReserving p q | .doorbell p q _ => partOk p && decide (q < 64)
  | .groupPlace p q c => partOk p && decide (q < 64) && coreOk c
  | .budgetPeriod p | .faultRingRetry p | .usageRecordClose p | .qbind p | .ctxnew p | .ctxstop p | .ctxend p | .fresume p | .fend p
  | .thaw p | .bind p | .accession p | .pgset p | .sstab p | .vfFlr p | .linkDown p | .linkReturn p | .ideKeyProgramming p => partOk p
  | .quiescent x | .pageExport x _ _ => decide (x < 64)
  | .pageImport p _ _ _ => partOk p
  | .pageWalk x c va => decide (x < 64) && (coreOk c || (decide (1024 ≤ c) && decide (c < 1028))) && decide (va < 2 ^ 56)
  | .registerWrite page _ _ => decide (page ≤ 11)
  | .hostMemoryAccess op _ n _ _ => decide (op ≤ 5) && decide (0 < n)
  | .portTraining port chip _ _ => decide (port < 12) && decide (chip < 4096)
  | .huturPortDown port => decide (port < 12)
  | .flitReceive src seq _ => decide (src < 4096) && decide (seq < 2 ^ 32)
  | .flitResend dst => decide (dst < 4096)
  | .ringRecordWrite r => decide (r ≤ 8)
  | .patrolScrub _ err => decide (err ≤ 2)
  | .wayRepair die sl way => dieOk die && (if sl < 32 then decide (way < 18) else decide (sl < 96) && decide (way ≤ 32))
  | .sliceFailing die sl => dieOk die && decide (sl < 32)
  | .containment unit parts => decide (unit < 2 ^ 24) && decide (parts < 256)
  | .peerWindowAccess op blk off n _ world tier =>
    decide (op % 16 ≤ 10) && decide (blk < 2 ^ 22) && decide (off < 2 ^ 32) && decide (0 < n) && decide (world < 64) && decide (tier ≤ 2)
  | i => (desc i).ops.all operandOk

end Sys2Proof
end

