-- ==== Sys2Proof/Certificates/Slice0/Obligations.lean ====
section
/-! DEFINITION. The statements for the provers. Each says in its docstring what it states and the rules of spec/ it follows;
where a clause rests on a choice of the model's own, the docstring names the log entry. -/

open Sys2Proof Sys2Proof.Machine

/-! ### A. The instruction word -/

/-- Instructions and words agree both ways. Decoding the word that the encoder gives an instruction gives that instruction back,
with every operand at every value that its field holds: all 198 core instructions, and the sixteen stream words for
operands inside the ranges of their operation. And a word that decodes is the word of the instruction that it decodes to: no
bit of a word is ignored, so no two words stand for one instruction (03 R68, R70, R79, R84 to R86; 11 R257). -/
def Obligations.WordsAndInstructionsAgree : Prop :=
  (∀ (i : Instr) (w : BitVec 32), encode i = some w → decodeWord w = .ok i)
    ∧ (∀ (i : Instr) (w : BitVec 64), Sys2Proof.wellFormed i = true → encodeStream i = some w → decodeStream w = .ok i)
    ∧ (∀ (w : BitVec 32) (i : Instr), decodeWord w = .ok i → encode i = some w)
    ∧ ∀ (w : BitVec 64) (i : Instr), decodeStream w = .ok i → encodeStream i = some w

/-- Words written out bit by bit from the encoding tables decode to the instructions that they stand for: one or more of every
form and family, negative offsets and immediates among them, and three stream words. Words that name nothing are refused by
name: a reserved major, minor or stream op, an unused field, a BR with a condition other than 63 (03 R68 to R72, R79, R84 to
R86; 05 R125; 11 R257). -/
def Obligations.WordsDecodeAsTheTablesSay : Prop :=
  decodeWord 0b00000001_000000_000000_000010_000011#32 = .ok (.add 0 2 3)
    ∧ decodeWord 0b00000010_001000_010001_101000_000000#32 = .ok (.cos 17 40)
    ∧ decodeWord 0b00000011_000111_000101_000110_000111#32 = .ok (.sar 5 6 7)
    ∧ decodeWord 0b00000100_000001_110001_101010_101101#32 = .ok (.cvt 1 49 42 45)
    ∧ decodeWord 0b00000101_000010_011111_000001_000010#32 = .ok (.cmpLt 31 1 2)
    ∧ decodeWord 0b00000110_000001_001001_111111_000000#32 = .ok (.movw 9 63)
    ∧ decodeWord 0b00000111_000011_000100_100001_000000#32 = .ok (.pnot 4 33)
    ∧ decodeWord 0b00001000_000011_010000_000100_111101#32 = .ok (.shflx 16 4 61)
    ∧ decodeWord 0b00001010_000010_000010_000000000000#32 = .ok (.rngf 2)
    ∧ decodeWord 0b00001011_000000_010000_000100_000000#32 = .ok (.srd 16 4)
    ∧ decodeWord 0b00111011_000001_000000_011111_010011#32 = .ok (.barr 31 19)
    ∧ decodeWord 0b00111100_000001_100100_011000_000000#32 = .ok (.qpop 36 24)
    ∧ decodeWord 0b00110100_000001_100100_011000_010001#32 = .ok (.ldxSb 36 24 17)
    ∧ decodeWord 0b00110100_001011_000010_110110_101111#32 = .ok (.stxD 2 54 47)
    ∧ decodeWord 0b00110101_0100_11_100111_100000_100011#32 = .ok (.aor 3 39 32 35)
    ∧ decodeWord 0b00110110_0000_01_000000_011000_010001#32 = .ok (.redAdd 1 24 17)
    ∧ decodeWord 0b00111000_000000_000000_000111_111011#32 = .ok (.mstr 7 59)
    ∧ decodeWord 0b00111101_000000_101001_011101_010110#32 = .ok (.tld 41 29 22)
    ∧ decodeWord 0b00111110_000000_000000_010000_000100#32 = .ok (.axset 16 4)
    ∧ decodeWord 0b00110011_000111_101110_100010_011011#32 = .ok (.keysel 46 34 27)
    ∧ decodeWord 0b01000000_001000_000010_000011_001000#32 = .ok (.mad 8 2 3 8)
    ∧ decodeWord 0b01100001_010101_001001_001000000010#32 = .ok (.andi 21 9 514)
    ∧ decodeWord 0b01101100_001010_010100_111111111000#32 = .ok (.ld 10 20 4088)
    ∧ decodeWord 0b10000000_000001_111111111111111111#32 = .ok (.ldi 1 262143)
    ∧ decodeWord 0b10001001_000000000000000001000001#32 = .ok (.setm 65)
    ∧ decodeWord 0b10100000_111111_111111111111111101#32 = .ok (.br 262141)
    ∧ decodeWord 0b10100001_101001_000000101100011101#32 = .ok (.brp 41 2845)
    ∧ decodeWord 0b10001000_000000_11010_01110_00111_010#32 = .ok (.wait 26 14 7 2)
    ∧ decodeWord 0b00110000_000011_000000000000000000#32 = .ok (.exit)
    ∧ decodeWord 0b00110010_000110_000000000000000000#32 = .ok (.tret)
    ∧ decodeWord 0b10001101_001100_000000000000_1_11001#32 = .ok (.catqry 12 1 25)
    ∧ decodeWord 0b01111111_110011_0000000000_11_100000#32 = .ok (.lqstat 51 3 32)
    ∧ decodeWord 0b11000000_011010_110_111_010_001_000000#32 = .ok (.rep 26 6 7 2 1)
    ∧ decodeStream 0b00000010_0001_0011_1111_0000_1111111111111111111111111111111111111110#64 = .ok (.seAdd 1 3 15 0xFFFFFFFFFE)
    ∧ decodeStream 0b00001100_0010_0001_0100_0000_0000000000000000000000000000000001000000#64 = .ok (.seGather 2 1 4 64)
    ∧ decodeStream 0b00010000_0000_0000_0000_0000_0000000000000000000000000000000000101010#64 = .ok (.seMark 0 0 0 42)
    ∧ decodeWord 0#32 = .error .reservedMajor
    ∧ decodeWord 0xFFFFFFFF#32 = .error .reservedMajor
    ∧ decodeWord 0b00000001_001000_000000_000010_000011#32 = .error .reservedMinor
    ∧ decodeWord 0b00000010_000000_000001_000010_000001#32 = .error .unusedField
    ∧ decodeWord 0b10100000_000101_000000000000000001#32 = .error .badCond
    ∧ decodeStream 0b00010001_0000_0000_0000_0000_0000000000000000000000000000000000000000#64 = .error .reservedOp
    ∧ decodeStream 0b00000001_0001_0000_0000_0001_0000000000000000000000000000000000000000#64 = .error .streamUnused

/-! ### B. The device, its steps and the issue checks -/

/-- The machine right after reset: cycle 0, no gang, group, stream context, launch queue or context, no partition and no control
page at work, no translation held; memory lists nothing and is canonical. A unit never used reads as at its start: registers,
predicates and flags 0, user level, no handler, every band and plane free, sys.qbackoff 32 (01 R15 to R40; 18 R372; 19 R399). A
byte that nothing has written reads as 0 (log entry 4, DESIGN CHOICE), and where the manual gives no start value the model does
(log entry 10, DESIGN CHOICE). -/
def Obligations.ResetState : Prop :=
  let s := State.reset
  s.clock = 0 ∧ Memory.wf s.mem ∧ (∀ a, s.byte a = 0) ∧ (∀ w, s.isPoison w = false)
    ∧ (∀ k, find s.gangs k = none ∧ find s.groups k = none ∧ find s.streams k = none ∧ find s.launches k = none
        ∧ (s.ctx k).state = .none ∧ (s.part k).live = false ∧ (s.part k).stvec = 0 ∧ (s.page k).busy = false ∧ (s.queue k k).on = false
        ∧ s.axItems k = [] ∧ (∀ x v, s.tlbAt k x v = none))
    ∧ (∀ k b, (s.core k).backoff = 32 ∧ ((s.core k).band b).inUse = false ∧ ((s.core k).band b).owner = none
        ∧ ((s.core k).plane b).loaded = false ∧ (s.core k).array = [] ∧ (s.core k).ctx = none)
    ∧ ∀ k l n, (s.gang k).readV l n = 0 ∧ (s.gang k).readP l n = false ∧ (s.gang k).sys = {} ∧ (s.gang k).counts = {}
        ∧ (s.gang k).level = 0 ∧ (s.gang k).userH = false ∧ (s.gang k).supH = false ∧ (s.gang k).frame = {}
        ∧ (s.gang k).rejoinReg n = {} ∧ (s.gang k).fanSet n = 1 ∧ ((s.gang k).pend n).on = false
        ∧ (s.gang k).xsOf l = rngSplit 0 0 l ∧ get 0 (s.group k).wreg n = 0

/-- Every step keeps memory in its canonical form: addresses strictly rising, no cell that equals what an unlisted address
reads as; so equal memories are equal data. -/
def Obligations.MemoryStaysCanonical : Prop :=
  ∀ s t : State, Memory.wf s.mem → step s = .next t → Memory.wf t.mem

/-- A step runs the decoded instruction. The gang that its core grants next, with neither a posted fault to take nor deferred work to
run, whose chosen cohort is at a word that decodes to `i`, executes `i`, and the grant is noted; so does a stream context that its
engine serves next at a stream word; and an event of the device (03 R67, R75; 05 R123; 10 R218; 11 R254). -/
def Obligations.StepRunsTheDecodedInstruction : Prop :=
  (∀ (s : State) (c gk j : Nat) (late : List (Nat × Nat)) (rest : List Act) (w : W32) (i : Instr),
    let u := s.taken (.issue c late) rest
    let m := get 0 late gk
    let v := (u.noteLate c late).beforeGrant gk m
    let g := v.gang gk
    let sl := g.slice j
    s.agenda = .issue c late :: rest → u.nextGrant c late = some gk → g.postedReady = false → v.defers gk m = false →
    v.chosenSlice gk m = some j → g.fillDue (g.issuing j) = none → sl.rep = none → pcIdx sl.pc = 0 →
    v.fetch gk (pcAddr sl.pc) = .ok w → decodeWord w = .ok i →
    step s = after (fun t => { t.issued c gk j (g.issuing j) (v.nextUnit gk (Nat.lor m 256)) with aside := false })
      (exec i { v.fillTlb g.core (v.ctxOf g) (pcAddr sl.pc) with cur := { gang := gk, slices := g.issuing j, pc := sl.pc, word := w } }))
  ∧ (∀ (s x : State) (n h : Nat) (rest : List Act) (w : W64) (i : Instr),
    let u := s.taken (.stream n) rest
    let c := u.stream h
    let v := { u with engines := put u.engines n { last := some h, at_ := some u.clock } }
    s.agenda = .stream n :: rest → u.nextStream n = some h → c.beats = [] → c.out = [] → c.regs.pc % 8 = 0 →
    v.streamWord h c = .ok (w, x) → decodeStream w = .ok i → (movesData i = true → x.mayStart (x.streamPart c) 4 = true) →
    step s = after (fun t => { t with aside := false }) (exec i { x with cur := { ctx := h } }))
  ∧ ∀ (s : State) (rest : List Act) (i : Instr),
    s.agenda = .event i :: rest → isEvent i = true →
    step s = after (fun t => { t with aside := false }) (exec i (s.taken (.event i) rest))

/-- Every instruction answers: a core instruction a next state wherever its gang exists, a stream operation wherever its context
does, an event always. Nothing is refused. That one without an issuer faults is the model's own guard (log entry 73, DEDUCED). -/
def Obligations.EveryInstructionAnswers : Prop :=
  ∀ (i : Instr) (s : State),
    ((encode i).isSome = true → find s.gangs s.cur.gang ≠ none → Completes (exec i s))
    ∧ ((encodeStream i).isSome = true → find s.streams s.cur.ctx ≠ none → Completes (exec i s))
    ∧ (isEvent i = true → Completes (exec i s))
    ∧ ((encode i).isSome = true → find s.gangs s.cur.gang = none → exec i s = .fault .noIssuer)
    ∧ ((encodeStream i).isSome = true → find s.streams s.cur.ctx = none → exec i s = .fault .noIssuer)

/-- The checks of an instruction come in the order of 03 R75: privilege, the operand fields, the queue registers, the type, the
rounding mode; the first that fails is the trap, with sys.taux as 03 R76 says. An instruction that passes them, with nothing
pending, no acquire outstanding, room in its counter and no queue to fill, issues. At user level an instruction of the
supervisor's, or a read of sys.stvec, does nothing but trap to the supervisor: cause privilege with the word in sys.taux, level
1, MODE 0 at the supervisor's vector; registers and memory stand (03 R75, R76; 01 R28, R36, R38 to R40; 18 R392). A register
number in sys.taux is taken modulo 128 (log entry 30, DEDUCED). -/
def Obligations.DecodeTrapsInOrder : Prop :=
  (∀ (s : State) (i : Instr) (e : Issue), privileged s.cur.hiA i = true → s.issueOf i = some e → e.g.level = 0 →
    (s.part (s.partOf e.g)).stvec ≠ 0 → StvecSettled s (s.partOf e.g) →
    EndsIn i s fun t => TrapFrame s t e.gk ∧ SameMemory s t
      ∧ Handling (s.gang e.gk) (t.gang e.gk) e.ss
          { tcause := 0x205, taux := w64 s.cur.word.toNat, tmask := e.act, tdone := 0, tpc := e.pc
            tmode := (e.g.slice (e.ss.headD 0)).mode } true (s.part (s.partOf e.g)).stvec)
  ∧ ∀ (s : State) (i : Instr) (e : Issue), (encode i).isSome = true → s.issueOf i = some e →
    let word := s.cur.word.toNat
    let traps (c : Nat) (aux : W64) : Prop := TrapsWith i s e c aux
    let priv : Bool := privFault e.g s.cur.hiA i
    (priv = true → traps 0x05 (w64 word))
    ∧ ∀ fo qo ty, s.operandFault e i = fo → s.queueFault e i = qo → typeReason i e.mode s.cur.hiB = ty → priv = false →
      let rnd : Bool := roundsIn (desc i).rnd e.mode && decide (mRnd e.mode ≥ 6)
      (∀ f n, fo = some (f, n) → traps 0x02 (w64 (f + n % 128 * 2 ^ 8)))
      ∧ (fo = none → ∀ q, qo = some q → traps 0x07 (w64 q))
      ∧ (fo = none → qo = none → ∀ r, ty = some r →
          traps 0x03 (w64 (word + (if r = 1 then mType2 e.mode else mType e.mode) * 2 ^ 32 + r * 2 ^ 37)))
      ∧ (fo = none → qo = none → ty = none → rnd = true → traps 0x04 (w64 (word + mRnd e.mode * 2 ^ 32)))
      ∧ (fo = none → qo = none → ty = none → rnd = false → e.g.regs.pend = [] → e.g.ldaOut = false →
          e.g.counts.full (desc i).cnt = false → fanOther e i = false → s.front i = .go e)

/-! ### C. Computing -/

/-- A computing instruction that issues completes: it leaves in its destination, in every active lane, what its kernel gives
there, retires, ORs its flags into the sticky flags, and changes nothing else of the device. Names every instruction of class
C: arithmetic, logic, shifts, counts, bit fields, addresses, immediates, comparison, selection, moves, conversion, predicate
logic, votes, lane exchange and GETM (04 R91 to R117; 05 R136; 01 R15, R37; 03 R77). -/
def Obligations.ComputeCompletes : Prop :=
  ∀ (s : State) (i : Instr) (k : Kernel) (e : Issue),
    kernelOf i = some k → (∀ d a, i ≠ .movw d a) → Issues s i e → NoFpTrap i e →
    EndsIn i s fun t =>
      Finishes s t e i (k (e.env 0)) (flagsOf (outcomes k (e.env 0)) e.act) (satOf (outcomes k (e.env 0)))

/-- Integer ADD, SUB, MUL, MULH, DIV, REM, MIN, MAX, ABS, NEG, MAD and ADDI: each element of the destination is the exact
result reduced modulo `2^w`, or under MODE.sat clamped to the nearest bound; a clamped element sets sys.gflags.isat, and no
floating flag is touched; a division by zero leaves all ones (02 R42; 04 R96 to R100, R106). -/
def Obligations.IntegerResults : Prop :=
  ∀ (s : State) (i : Instr) (e : Issue) (o : Opnd),
    Issues s i e → isInt (mType e.mode) = true → destOf i = some o → bit (e.fanOf i) 0 = true →
    (exactInt (mType e.mode) (fun _ => 1) i).isSome = true →
    let T := mType e.mode
    let exact (l j : Nat) := exactInt T (fun r => e.g.int T l r.toNat j) i
    EndsIn i s fun t =>
      (∀ l j x, has e.act l = true → j < tyCount T → exact l j = some x →
          (t.gang e.gk).elem T l (s.cur.num o) j = fitInt T (mSat e.mode) x)
      ∧ (∀ l j, has e.act l = true → j < tyCount T → exact l j = none →
          (t.gang e.gk).elem T l (s.cur.num o) j = 2 ^ tyWidth T - 1)
      ∧ (t.gang e.gk).sys.fpflags = (s.gang e.gk).sys.fpflags
      ∧ ((t.gang e.gk).sys.gflags.getLsbD 2 = true ↔
          (s.gang e.gk).sys.gflags.getLsbD 2 = true
            ∨ mSat e.mode = true ∧ ∃ l j x, has e.act l = true ∧ j < tyCount T ∧ exact l j = some x ∧ (x < intMin T ∨ intMax T < x))

/-- AND, OR, XOR, ANDN, NOT, SHL, SHR, SAR, ROT, POPC, CLZ and BREV, element by element; the shift count of a packed element is
the element of b, else the 32-bit value of b. ANDI, ORI and XORI take a zero-extended immediate, SHLI, SHRI and SARI a count. BFX
leaves a field of an element extended by its type's signedness, BFI puts one in. CMP.EQ, NE, LT, LE, GT, GE and UN leave in their
predicate, in every active lane, what the order of the two values says, a NaN being unordered with and unequal to every value;
CMP.CLASS leaves the bit of the mask that the class of the value names (04 R101 to R104, R106 to R108). -/
def Obligations.BitwiseAndComparisonResults : Prop :=
  ∀ (s : State) (i : Instr) (e : Issue) (o : Opnd),
    Issues s i e → destOf i = some o →
    let T := mType e.mode
    let V (l : Nat) (r : BitVec 6) := e.g.value T l r.toNat
    let W (l : Nat) (r : BitVec 6) := (e.g.readV l r.toNat).toNat
    (∀ (l j x : Nat), has e.act l = true → j < tyCount T → bit (e.fanOf i) 0 = true →
      bitsElem T (fun r => e.g.elem T l r.toNat j)
        (fun r => if tyWidth T < 32 then e.g.elem T l r.toNat j else (e.g.readV l r.toNat).toNat) i = some x →
      EndsIn i s fun t => (t.gang e.gk).elem T l (s.cur.num o) j = x)
    ∧ (∀ (l : Nat) (b : Bool), has e.act l = true → NoFpTrap i e →
      comparison T e.mode (fun r => e.g.value T l r.toNat) i = some b →
      EndsIn i s fun t => (t.gang e.gk).readP l (s.cur.num o) = b)
    ∧ (∀ (d a b : BitVec 6) (l : Nat), i = .cmpClass d a b → has e.act l = true →
      EndsIn i s fun t => (t.gang e.gk).readP l (s.cur.num o) = (W l b).testBit (classNumber (tyFmt T) (mFtz e.mode) (V l a)))
    ∧ ∀ (d a b c : BitVec 6) (l k : Nat), has e.act l = true → bit (e.fanOf i) 0 = true → k < tyWidth T →
      (i = .bfx d a b c → EndsIn i s fun t =>
          ((t.gang e.gk).value T l (s.cur.num o)).testBit k = bfxBit T (V l a) (W l b) (W l c) k)
        ∧ (i = .bfi d a b c → EndsIn i s fun t =>
          ((t.gang e.gk).value T l (s.cur.num o)).testBit k = bfiBit (V l d) (V l a) (W l b) (W l c) k)

/-- Floating ADD, SUB, MUL, DIV, MAD, SQRT, RCP, RSQ, EXP2, LOG2, SIN and COS: each element is the exact result rounded once
under MODE.rnd and MODE.ftz. MIN, MAX, ABS and NEG do not round: the lesser or greater with −0 below +0 and a lone NaN giving the
other, or the sign bit changed alone; a signalling operand of MIN or MAX raises invalid. CVT leaves each element of its part
converted by R57 to R59 and takes the others from b, each ternary byte in its range. Of the sticky flags those are set that were,
or that the operation or the rounding of some element raises (02 R49, R52 to R55, R57 to R59; 04 R97 to R100, R110, R111). That a
ternary source goes to an integer as a floating value does, and an infinity to a trit with inexact alone, are log entries 92 and 20,
DEDUCED. -/
def Obligations.FloatingResults : Prop :=
  ∀ (s : State) (i : Instr) (e : Issue) (o : Opnd),
    Issues s i e → destOf i = some o → bit (e.fanOf i) 0 = true → NoFpTrap i e →
    let T := mType e.mode
    let sticks (raised : Nat → Prop) (t : State) : Prop := ∀ n, n < 5 →
      ((t.gang e.gk).sys.fpflags.getLsbD n = true ↔ (s.gang e.gk).sys.fpflags.getLsbD n = true ∨ raised n)
    let x (l j : Nat) (r : BitVec 6) := e.g.elem T l r.toNat j
    let d (l j : Nat) (r : Exact) := (tyFmt T).deliver (mRnd e.mode) (e.stochastic l j) (mFtz e.mode) r
    (isFlt T = true → (exactFlt T e.mode (fun _ => 0) i).isSome = true → EndsIn i s fun t =>
      (∀ l j r f, has e.act l = true → j < tyCount T → exactFlt T e.mode (x l j) i = some (r, f) →
          (t.gang e.gk).elem T l (s.cur.num o) j = (d l j r).1 % 2 ^ tyWidth T)
        ∧ sticks (fun n => ∃ l j r f, has e.act l = true ∧ j < tyCount T ∧ exactFlt T e.mode (x l j) i = some (r, f)
            ∧ (orF f (d l j r).2).testBit n = true) t)
    ∧ (isFlt T = true → (unrounded T e.mode (fun _ => 0) i).isSome = true → EndsIn i s fun t =>
      (∀ l j y b, has e.act l = true → j < tyCount T → unrounded T e.mode (x l j) i = some (y, b) →
          (t.gang e.gk).elem T l (s.cur.num o) j = y)
        ∧ sticks (fun n => n = 0 ∧ ∃ l j y, has e.act l = true ∧ j < tyCount T ∧ unrounded T e.mode (x l j) i = some (y, true)) t)
    ∧ ∀ k d a b : BitVec 6, i = .cvt k d a b →
      let nt := cvtCount T
      let ns := cvtCount (mType2 e.mode)
      let first := if nt < ns then k.toNat * nt else 0
      let part := if ns < nt then k.toNat * ns else 0
      let y (l j : Nat) := converted e.mode (e.stochastic l j) (e.g.value (mType2 e.mode) l a.toNat) (first + j)
      EndsIn i s fun t =>
        (∀ l j, has e.act l = true → j < nt → cvtElement T ((t.gang e.gk).value T l (s.cur.num o)) j
            = if part ≤ j ∧ j < part + min nt ns then (y l (j - part)).1 else cvtElement T (e.g.value T l b.toNat) j)
          ∧ (T = 16 → ∀ l j, has e.act l = true → j < 4 → (t.gang e.gk).elem 17 l (s.cur.num o) j ≤ 242)
          ∧ sticks (fun n => ∃ l j, has e.act l = true ∧ j < min nt ns ∧ (y l j).2.1.testBit n = true) t
          ∧ ((t.gang e.gk).sys.gflags.getLsbD 2 = true ↔ (s.gang e.gk).sys.gflags.getLsbD 2 = true
              ∨ ∃ l j, has e.act l = true ∧ j < min nt ns ∧ (y l j).2.2 = true)

/-- MOV copies a value, SEL one of two by a predicate, LDI and LDIH build a constant, LEA an address, and GETM delivers the MODE
that it runs under; PAND, POR, PXOR, PNOT and PMOV combine predicates; SHFL and its kin read another active lane or their own;
BALLOT collects the predicate over the active lanes, VANY and VALL join it, and MATCH compares every lane with the lowest: in
every active lane (04 R105, R109, R112, R113, R115 to R117; 05 R136; 01 R13, R20). -/
def Obligations.MovesExchangesAndVotes : Prop :=
  ∀ (s : State) (e : Issue) (d a b c : BitVec 6) (i18 : BitVec 18) (l : Nat),
    let T := mType e.mode
    let n := d.toNat
    let P (r : BitVec 6) := e.g.readP l r.toNat
    let k := (e.g.readV l b.toNat).toNat
    let got (t : State) (j : Nat) : Prop := (t.gang e.gk).value T l n = e.g.value T (e.source l j) a.toNat
    let yes (j : Nat) : Prop := has e.act j = true ∧ e.g.readP j a.toNat = true
    has e.act l = true → bit (e.g.fanSet (mFan e.mode)) 0 = true →
      (Issues s (.mov d a) e → EndsIn (.mov d a) s fun t => (t.gang e.gk).value T l n = e.g.value T l a.toNat)
      ∧ (Issues s (.sel d a b c) e → EndsIn (.sel d a b c) s fun t =>
          (t.gang e.gk).value T l n = e.g.value T l (if e.g.readP l c.toNat then a else b).toNat)
      ∧ (Issues s (.ldi d i18) e → EndsIn (.ldi d i18) s fun t => (t.gang e.gk).readV l n = i18.signExtend 32)
      ∧ (Issues s (.ldih d i18) e → EndsIn (.ldih d i18) s fun t =>
          (t.gang e.gk).readV l n = i18 ++ (e.g.readV l n).setWidth 14)
      ∧ (Issues s (.lea d a b c) e → EndsIn (.lea d a b c) s fun t =>
          (t.gang e.gk).readPair l n
            = e.g.readPair l a.toNat + ((e.g.readV l b.toNat).signExtend 64 <<< ((e.g.readV l c.toNat).toNat % 64)))
      ∧ (Issues s (.getm d) e → EndsIn (.getm d) s fun t => (t.gang e.gk).readV l n = e.mode &&& 0x7FFFFFFF#32)
      ∧ (Issues s (.pand d a b) e → EndsIn (.pand d a b) s fun t => (t.gang e.gk).readP l n = (P a && P b))
      ∧ (Issues s (.por d a b) e → EndsIn (.por d a b) s fun t => (t.gang e.gk).readP l n = (P a || P b))
      ∧ (Issues s (.pxor d a b) e → EndsIn (.pxor d a b) s fun t => (t.gang e.gk).readP l n = (P a ^^ P b))
      ∧ (Issues s (.pnot d a) e → EndsIn (.pnot d a) s fun t => (t.gang e.gk).readP l n = !P a)
      ∧ (Issues s (.pmov d a) e → EndsIn (.pmov d a) s fun t => (t.gang e.gk).readP l n = P a)
      ∧ (Issues s (.shfl d a b) e → EndsIn (.shfl d a b) s fun t => got t k)
      ∧ (Issues s (.shflup d a b) e → EndsIn (.shflup d a b) s fun t => got t (if k ≤ l then l - k else l))
      ∧ (Issues s (.shfldn d a b) e → EndsIn (.shfldn d a b) s fun t => got t (l + k))
      ∧ (Issues s (.shflx d a b) e → EndsIn (.shflx d a b) s fun t => got t (Nat.xor l k))
      ∧ (Issues s (.ballot d a) e → EndsIn (.ballot d a) s fun t => ∀ j, j < 32 → (((t.gang e.gk).readV l n).getLsbD j = true ↔ yes j))
      ∧ (Issues s (.vany d a) e → EndsIn (.vany d a) s fun t => ((t.gang e.gk).readP l n = true ↔ ∃ j, yes j))
      ∧ (Issues s (.vall d a) e → EndsIn (.vall d a) s fun t => ((t.gang e.gk).readP l n = true ↔ ∀ j, has e.act j = true → yes j))
      ∧ (Issues s (.match d a) e → EndsIn (.match d a) s fun t =>
          ((t.gang e.gk).readP l n = true ↔ ∀ j, has e.act j = true → e.g.value T j a.toNat = e.g.value T (lowest e.act) a.toNat))

/-- RNGNEXT delivers the 64 bits of one step of each active lane's generator, and RNGSPLIT seeds the generators of the active
lanes from the uniform register, the stream number and the lane; RNGF delivers the high bits of a step as a binary fraction in
[0, 1) without rounding, 24 bits in binary32 and 53 in binary64; no other lane draws. SRD delivers the system register that its
selector names, as each active lane sees it, and changes nothing else, but that the core's counter never shows less than a read of
sys.clock has shown, nor more than that or 8 above the device's clock (04 R118 to R120; 01 R32, R36, R37). -/
def Obligations.RandomNumbersAndSystemRegisters : Prop :=
  ∀ (s : State) (e : Issue) (d a b : BitVec 6),
    let T := mType e.mode
    let p := if T = 9 then 53 else 24
    let n := a.toNat + 64 * s.cur.hiA
    let gr := s.group e.g.group
    (Issues s (.srd d a) e → EndsIn (.srd d a) s fun t =>
      Finishes (s.noteClock e.g.core n) t e (.srd d a) (fun l => { val := w64 (s.sysRead e.g l n) }) 0 false
        ∧ (n ≠ 8 → s.noteClock e.g.core n = s)
        ∧ (n = 8 → ∀ l, (s.core e.g.core).clockSeen ≤ s.sysRead e.g l n ∧ s.clock ≤ s.sysRead e.g l n
            ∧ s.sysRead e.g l n ≤ max (s.core e.g.core).clockSeen (s.clock + 8) ∧ (t.core e.g.core).clockSeen = s.sysRead e.g l n))
    ∧ (Issues s (.rngnext d) e → EndsIn (.rngnext d) s fun t =>
      Finishes s t e (.rngnext d) (fun l => { val := (e.g.xsOf l).step.2, draws := 1 }) 0 false)
    ∧ (Issues s (.rngsplit a b) e → (find gr.span n = none ∨ find gr.owner n = some e.gk) → EndsIn (.rngsplit a b) s fun t =>
      OnlyGang s t e.gk ∧ SameMemory s t ∧ Retires s t e
        ∧ (∀ l, l < 32 → (t.gang e.gk).xsOf l
            = if has e.act l = true then rngSplit (get 0 gr.wreg n) (e.g.readV l b.toNat).toNat l else e.g.xsOf l)
        ∧ ∀ l m, l < 32 → (t.gang e.gk).readV l m = e.g.readV l m ∧ (t.gang e.gk).readP l m = e.g.readP l m)
    ∧ (Issues s (.rngf d) e → bit (e.g.fanSet (mFan e.mode)) 0 = true → EndsIn (.rngf d) s fun t => ∀ l, has e.act l = true →
        ∃ m q, (tyFmt T).decode ((t.gang e.gk).value T l d.toNat) = .fin false m q
          ∧ (m : ℚ) * (2 : ℚ) ^ q = (((e.g.xsOf l).step.2.toNat / 2 ^ (64 - p) : Nat) : ℚ) / 2 ^ p)

/-- MOVW delivers a uniform register: the value it holds, where the reading gang owns it or nothing was written in the span; else
one of the values of the span not older than the gang's last read of it (01 R24; 04 R114). Which one is a free choice. A write to
a register that another gang owns in this span traps with nothing written, the register and the owner's number in sys.taux
(01 R23): here from user level with a user handler. -/
def Obligations.UniformReadsAndConflicts : Prop :=
  ∀ (s : State) (e : Issue) (d a : BitVec 6),
    let n := a.toNat + 64 * s.cur.hiA
    let k := d.toNat + 64 * s.cur.hiD
    let gr := s.group e.g.group
    let low (x : W64) : Out := { val := if is64 (mType e.mode) then x else w64 (x.toNat % 2 ^ 32) }
    (Issues s (.movw d a) e → (find gr.span n = none ∨ find gr.owner n = some e.gk) → EndsIn (.movw d a) s fun t =>
      Finishes s t e (.movw d a) (fun _ => low (get 0 gr.wreg n)) 0 false)
    ∧ (Issues s (.movw d a) e → ∀ hist, find gr.span n = some hist → find gr.owner n ≠ some e.gk → get 0 e.g.lastRead n < hist.length →
      EndsIn (.movw d a) s fun t => SameMemory s t ∧ ∃ k x, get 0 e.g.lastRead n ≤ k ∧ hist[k]? = some x
        ∧ get 0 (t.gang e.gk).lastRead n = k
        ∧ Delivers s e (.movw d a) (s.gang e.gk) (t.gang e.gk) e.act (fun _ => low x))
    ∧ (Issues s (.wmov d a) e → e.act ≠ 0 → ∀ o, find gr.owner k = some o → o ≠ e.gk →
      e.g.level = 0 → e.g.userH = false → e.g.sys.utvec ≠ 0 →
      EndsIn (.wmov d a) s fun t => TrapFrame s t e.gk ∧ t.groups = s.groups
        ∧ Handling (s.gang e.gk) (t.gang e.gk) e.ss
            { tcause := 0x06, taux := w64 (k % 32 + (s.gang o).gangid % 32 * 2 ^ 8), tmask := e.act, tdone := 0
              tpc := e.pc, tmode := (e.g.slice (e.ss.headD 0)).mode } false e.g.sys.utvec)

/-- WMOV writes a uniform register from the lowest active lane of the writing path, and where no lane is active it writes
nothing and makes no claim (01 R22). -/
def Obligations.UniformWritesTakeTheLowestLane : Prop :=
  ∀ (s : State) (e : Issue) (d a : BitVec 6),
    Issues s (.wmov d a) e →
    let n := d.toNat + 64 * s.cur.hiD
    let gr := s.group e.g.group
    let l := lowest e.act
    let x : W64 := if is64 (mType e.mode) then e.g.readPair l a.toNat
      else if mType e.mode = 0 then (e.g.readV l a.toNat).signExtend 64 else (e.g.readV l a.toNat).setWidth 64
    (e.act = 0 → EndsIn (.wmov d a) s fun t => OnlyGang s t e.gk ∧ Retires s t e ∧ (t.gang e.gk).regs = (s.gang e.gk).regs)
    ∧ (e.act ≠ 0 → find gr.owner n = none ∨ find gr.owner n = some e.gk → EndsIn (.wmov d a) s fun t =>
        t = { s with gangs := t.gangs, groups := t.groups } ∧ SameMemory s t ∧ Retires s t e
          ∧ (t.gang e.gk).regs = (s.gang e.gk).regs ∧ (∀ k, k ≠ e.g.group → t.group k = s.group k)
          ∧ get 0 (t.group e.g.group).wreg n = x ∧ find (t.group e.g.group).owner n = some e.gk
          ∧ ∀ m, m ≠ n → get 0 (t.group e.g.group).wreg m = get 0 gr.wreg m)

/-- A floating-point trap is taken lane by lane: the lanes that raise an enabled flag write nothing and stand in sys.tmask, the
others complete and stand in sys.tdone, every raised flag sticks, and the gang runs its handler (02 R56; 05 R140). Here
from user level with a user handler. -/
def Obligations.FloatingTrapsLaneByLane : Prop :=
  ∀ (s : State) (i : Instr) (k : Kernel) (e : Issue),
    kernelOf i = some k → (∀ d a, i ≠ .movw d a) → Issues s i e →
    e.g.level = 0 → e.g.userH = false → e.g.supH = false → e.g.sys.utvec ≠ 0 →
    let os := outcomes k (e.env 0)
    let raising := raisingLanes os e.g.sys.fpctl
    raising ≠ 0 →
    EndsIn i s fun t => SameMemory s t
      ∧ (t.gang e.gk).frame = { tcause := 0x10, taux := fpAux os raising e.act e.g.sys.fpctl, tmask := raising
                                tdone := e.act &&& ~~~raising, tpc := e.pc, tmode := (e.g.slice (e.ss.headD 0)).mode }
      ∧ (∀ j, e.ss.contains j = true → j < (s.gang e.gk).slices.length →
          ((t.gang e.gk).slice j).pc = pcMake (pcAddr e.g.sys.utvec / 4 * 4) 0 ∧ ((t.gang e.gk).slice j).mode = 0)
      ∧ (t.gang e.gk).sys = (s.gang e.gk).sys.raise (flagsOf os e.act) (satOf os)
      ∧ WritesV (s.gang e.gk) (t.gang e.gk) (e.act &&& ~~~raising) (s.vecDests e i) (fun l n => s.outReg i (k (e.env 0) l) n)
      ∧ WritesP (s.gang e.gk) (t.gang e.gk) (e.act &&& ~~~raising) (s.predDests i) (fun l => (k (e.env 0) l).p)

/-! ### D. Control -/

/-- BR, BRA and BRN move the whole cohort: a taken branch to its target, an untaken one to the next word (05 R125). BRA is taken
where the predicate holds in every active lane and there is one, BRN where it holds in none, and on a rejoin register as every
expected lane has arrived. In an ageing group each slice of a taken backward branch then exchanges its path for the pending one
held longest of those that qualify, and keeps it where none does (10 R222); nothing else changes. -/
def Obligations.BranchesMoveTheCohort : Prop :=
  ∀ (s : State) (e : Issue) (c : BitVec 6) (o : BitVec 18),
    let target := jTarget e.pc o
    let quiet : Prop := (s.group e.g.group).ageing = false ∨ pcAddr e.pc < target
    let goes (i : Instr) (b : Prop) : Prop := Issues s i e → EndsIn i s fun t => ∃ u, Steers s u e.gk ∧ SameMemory s t
      ∧ (u.gang e.gk).path = (s.gang e.gk).path ∧ (u.gang e.gk).rejoin = (s.gang e.gk).rejoin
      ∧ (∀ n, ((u.gang e.gk).slice n).base = ((s.gang e.gk).slice n).base)
      ∧ (b → JumpsTo s u e fun _ => target) ∧ (¬ b → JumpsTo s u e fun _ => pcAddr e.pc + 4)
      ∧ (¬ b ∨ quiet → t = u)
      ∧ (b → ¬ quiet → Steers u t e.gk ∧ ExchangesAll target e.ss (u.gang e.gk) (t.gang e.gk))
    let m := e.g.rejoinReg (c.toNat - 32)
    goes (.br o) True
      ∧ (c.toNat < 32 → goes (.bra c o) (e.act ≠ 0 ∧ ∀ l, has e.act l = true → e.g.readP l c.toNat = true))
      ∧ (c.toNat < 32 → goes (.brn c o) (∀ l, has e.act l = true → e.g.readP l c.toNat = false))
      ∧ (32 ≤ c.toNat → goes (.bra c o) (m.expect ≠ 0 ∧ m.arrived = m.expect)
          ∧ goes (.brn c o) (¬ (m.expect ≠ 0 ∧ m.arrived = m.expect)))

/-- BRP takes lane by lane: a slice with a taking lane goes to the target with those lanes, any other to the next word with all
of its path; the lanes that do not take in a slice that divides are a pending path of the selected rejoin register at the
next word. A register with eight other paths makes it trap (05 R126). In an ageing group the slices that take a backward branch then
exchange their paths (10 R222). -/
def Obligations.BrpDividesSlices : Prop :=
  ∀ (s : State) (e : Issue) (c : BitVec 6) (o : BitVec 18),
    Issues s (.brp c o) e →
    let k := mJsel e.mode
    let target := jTarget e.pc o
    let fall := (pcAddr e.pc + 4) % 2 ^ 56
    let guard (l : Nat) : Bool := e.g.readP l (mGuard e.mode) != mNeg e.mode
    let takes (l : Nat) : Bool := has e.path l
      && if c.toNat = 63 then guard l else (!mGen e.mode || guard l) && e.g.readP l c.toNat
    let some_ (i : Nat) (p : Nat → Bool) : Prop := ∃ l, l < 32 ∧ l / 4 = i ∧ has e.path l = true ∧ p l = true
    let splits (i : Nat) : Prop := some_ i takes ∧ some_ i fun l => !takes l
    let full : Prop := 8 ≤ (e.g.rejoinReg k).paths.length ∧ ∀ p ∈ (e.g.rejoinReg k).paths, p.pc ≠ fall
    let quiet : Prop := (s.group e.g.group).ageing = false ∨ pcAddr e.pc < target
    ((∃ i ∈ e.ss, splits i) → full → exec (.brp c o) s
        = .next (s.trap e.gk e.ss { code := cIllOp, aux := opAux 4 (32 + k), tmask := e.act, tpc := e.pc }))
    ∧ (¬ ((∃ i ∈ e.ss, splits i) ∧ full) → EndsIn (.brp c o) s fun t' => ∃ t, (quiet → t' = t)
        ∧ (¬ quiet → ∃ tk : List Nat, tk.Sublist e.ss ∧ (∀ i ∈ e.ss, i ∈ tk ↔ some_ i takes) ∧ Steers t t' e.gk
            ∧ ExchangesAll target tk (t.gang e.gk) (t'.gang e.gk))
        ∧ Steers s t e.gk ∧ SameMemory s t'
        ∧ (∀ i, ((t.gang e.gk).slice i).base = ((s.gang e.gk).slice i).base)
        ∧ (∀ i, e.ss.contains i = true → i < (s.gang e.gk).slices.length →
            (some_ i takes → ((t.gang e.gk).slice i).pc = pcMake target 0)
              ∧ (¬ some_ i takes → ((t.gang e.gk).slice i).pc = pcMake fall 0))
        ∧ (∀ i, e.ss.contains i = false → (t.gang e.gk).slice i = (s.gang e.gk).slice i)
        ∧ (∀ l, l < 32 → (has (t.gang e.gk).path l = true ↔
            has (s.gang e.gk).path l = true ∧ ¬ (e.ss.contains (l / 4) = true ∧ splits (l / 4) ∧ takes l = false)))
        ∧ (∀ i ∈ e.ss, splits i → ∃ p ∈ ((t.gang e.gk).rejoinReg k).paths, p.pc = fall
            ∧ ∀ l, l < 32 → l / 4 = i → has e.path l = true → takes l = false → has p.mask l = true)
        ∧ ∀ j, j ≠ k → (t.gang e.gk).rejoinReg j = (s.gang e.gk).rejoinReg j)

/-- JSET and JSET.ACT set what a free rejoin register expects, with nothing arrived; a register in use makes them trap. JARR
records the path's lanes as arrived where the register expects them all, and traps elsewhere (05 R127, R128). -/
def Obligations.RejoinRegistersSetAndArrive : Prop :=
  ∀ (s : State) (e : Issue) (d a : BitVec 6),
    let trap (f n : Nat) : Host.Outcome State Fault Refusal :=
      .next (s.trap e.gk e.ss { code := cIllOp, aux := opAux f n, tmask := e.act, tpc := e.pc })
    let r := e.g.rejoinReg d.toNat
    let busy : Prop := r.paths ≠ [] ∨ r.parked ≠ 0 ∨ e.g.anyWaits d.toNat = true
    let sets (i : Instr) (m : Mask) : Prop := Issues s i e →
      (busy → exec i s = trap 0 d.toNat) ∧ (¬ busy → EndsIn i s fun t => OnlyGang s t e.gk ∧ SameMemory s t ∧ Retires s t e
        ∧ OnlyControl (s.gang e.gk) (t.gang e.gk)
        ∧ (t.gang e.gk).rejoinReg d.toNat = { r with expect := m, arrived := 0, age := 0 }
        ∧ ∀ k, k ≠ d.toNat → (t.gang e.gk).rejoinReg k = e.g.rejoinReg k)
    let k := mJsel e.mode
    let q := e.g.rejoinReg k
    sets (.jset d a) (e.g.readV (lowest e.path) a.toNat &&& e.g.present)
    ∧ sets (.jsetAct d) e.path
    ∧ (Issues s .jarr e →
        (e.path &&& ~~~q.expect ≠ 0 → exec .jarr s = trap 1 k)
        ∧ (e.path &&& ~~~q.expect = 0 → EndsIn .jarr s fun t => OnlyGang s t e.gk ∧ SameMemory s t ∧ Retires s t e
            ∧ OnlyControl (s.gang e.gk) (t.gang e.gk)
            ∧ (t.gang e.gk).rejoinReg k = { q with
                arrived := q.arrived ||| e.path
                age := if (s.group e.g.group).ageing = true ∧ e.path &&& ~~~q.arrived ≠ 0 then 0 else q.age }
            ∧ ∀ j, j ≠ k → (t.gang e.gk).rejoinReg j = e.g.rejoinReg j))

/-- JWAIT makes its slices wait on the selected rejoin register, each with its path, or leave at once to run a pending path of that
register with its own lanes parked; REGANG makes its slices wait until every slice named waits there too, and goes on at
once where it names no other (05 R129, R131). That the slices whose window base must agree at a REGANG are those that wait at the
same address with the same mask is log entry 83, DEDUCED. -/
def Obligations.SlicesWaitToRejoin : Prop :=
  ∀ (s : State) (e : Issue) (a : BitVec 6),
    let k := mJsel e.mode
    let q := e.g.rejoinReg k
    let base := (e.g.slice (e.ss.headD 0)).base
    let m := (e.g.readV (lowest e.path) a.toNat).toNat % 256
    (Issues s .jwait e → e.path &&& ~~~q.expect = 0 → (∀ i, e.g.waitsOn k i = true → (e.g.slice i).base = base) →
      EndsIn .jwait s fun t => Steers s t e.gk ∧ SameMemory s t
        ∧ ∀ i ∈ e.ss, i < 8 → i < e.g.slices.length →
          ((t.gang e.gk).slice i).wait = some (.join k (pcAddr e.pc))
            ∧ (t.gang e.gk).path &&& sliceMask i = e.g.path &&& sliceMask i
          ∨ ((t.gang e.gk).slice i).wait = none ∧ ∃ p ∈ q.paths, ((t.gang e.gk).slice i).pc = pcMake p.pc 0
            ∧ (t.gang e.gk).path &&& sliceMask i = p.mask &&& sliceMask i ∧ p.mask &&& sliceMask i ≠ 0
            ∧ ((t.gang e.gk).rejoinReg k).parked &&& (e.g.path &&& sliceMask i) = e.g.path &&& sliceMask i)
    ∧ (Issues s (.regang a) e → (∀ i ∈ e.ss, i < 8 → bit m i = true) → (∀ i ∈ e.ss, i < 8) → (∀ i, i < 8 → bit m i = true → i < e.g.nslices) →
        (∀ i t', i ∉ e.ss → (e.g.slice i).wait = some (.regang m (pcAddr e.pc) t') → (e.g.slice i).base = base) →
        EndsIn (.regang a) s fun t => Steers s t e.gk ∧ SameMemory s t ∧ (t.gang e.gk).path = e.g.path
          ∧ ∀ i ∈ e.ss, i < e.g.slices.length →
            ((∀ j, j < 8 → bit m j = true → j ∈ e.ss) →
              ((t.gang e.gk).slice i).wait = none ∧ ((t.gang e.gk).slice i).pc = pcMake (pcAddr e.pc + 4) 0)
            ∧ ((∃ j, j < 8 ∧ bit m j = true ∧ j ∉ e.ss) →
              ∃ since, ((t.gang e.gk).slice i).wait = some (.regang m (pcAddr e.pc) since) ∧ ((t.gang e.gk).slice i).pc = (e.g.slice i).pc))

/-- The word after a call's own, as the pair v62, v63 of the caller holds it, which the callee names v30, v31. CALL and CALLR
save it in every lane of the path, slide the window on by 32 and go to their target; JMPR only goes. The fixed registers stand,
and the caller's v48 to v63 are the callee's v16 to v31 (05 R133, R134; 01 R16, R18). -/
def Obligations.CallsSlideTheWindow : Prop :=
  ∀ (s : State) (e : Issue) (a : BitVec 6) (o : BitVec 18),
    let room : Prop := ∀ i ∈ e.ss, (e.g.slice i).base + 80 ≤ (s.group e.g.group).ring + (e.g.slice i).low
    let target := e.target a.toNat
    let calls (i : Instr) (to_ : Nat) : Prop := Issues s i e → room → EndsIn i s fun t =>
      OnlyGang s t e.gk ∧ SameMemory s t ∧ JumpsTo s t e (fun _ => to_) ∧ (t.gang e.gk).path = e.g.path
        ∧ ∀ l n, l < 32 → l / 4 < e.g.slices.length →
          if e.ss.contains (l / 4) then
            ((t.gang e.gk).slice (l / 4)).base = (e.g.slice (l / 4)).base + 32
              ∧ (n < 16 → (t.gang e.gk).readV l n = e.g.readV l n)
              ∧ (16 ≤ n → (has e.path l = true → n ≠ 30 ∧ n ≠ 31) → (t.gang e.gk).readV l n = e.g.readV l (n + 32))
              ∧ (has e.path l = true → (t.gang e.gk).readPair l 30 = w64 ((pcAddr e.pc + 4) % 2 ^ 56))
          else (t.gang e.gk).readV l n = e.g.readV l n
    calls (.call o) (jTarget e.pc o)
    ∧ (target % 4 = 0 → calls (.callr a) target)
    ∧ (target % 4 = 0 → Issues s (.jmpr a) e → EndsIn (.jmpr a) s fun t =>
        Steers s t e.gk ∧ SameMemory s t ∧ JumpsTo s t e (fun _ => target) ∧ (t.gang e.gk).path = e.g.path)
    ∧ (target % 4 ≠ 0 → ∀ i, i = .callr a ∨ i = .jmpr a → Issues s i e → exec i s
        = .next (s.trap e.gk e.ss { code := cAlign, aux := memAux 0 target, tmask := e.act, tpc := e.pc }))

/-- RET slides the window back by 32 and goes to the address in v30, v31 of the lowest lane: the callee's v16 to v31 are the
caller's v48 to v63 again. Where that is below the low mark of a slice it traps there for a fill, at the return target with every
lane done; with no caller's window it traps before any effect, and so it does at an address that is not a word's. A CALL or CALLR
with no room for another window takes the spill trap, its lanes to be executed again (05 R133, R134; 01 R18). That sys.taux names
the lowest slice that is due is log entry 28, DEDUCED. -/
def Obligations.ReturnsSlideBack : Prop :=
  ∀ (s : State) (e : Issue) (a : BitVec 6) (o : BitVec 18),
    let b := (e.g.slice (e.ss.headD 0)).base
    let target := e.target 30
    let slid (t : State) : Prop :=
      OnlyGang s t e.gk ∧ SameMemory s t ∧ JumpsTo s t e (fun _ => target) ∧ (t.gang e.gk).path = e.g.path
        ∧ ∀ l n, l < 32 → l / 4 < e.g.slices.length →
          if e.ss.contains (l / 4) then
            ((t.gang e.gk).slice (l / 4)).base = (e.g.slice (l / 4)).base - 32
              ∧ (n < 16 → (t.gang e.gk).readV l n = e.g.readV l n)
              ∧ (16 ≤ n → 32 ≤ (e.g.slice (l / 4)).base → (t.gang e.gk).readV l (n + 32) = e.g.readV l n)
          else (t.gang e.gk).readV l n = e.g.readV l n
    (Issues s .ret e → b ≠ 0 → target % 4 = 0 → (∀ i ∈ e.ss, (e.g.slice i).low ≤ b - 32) → EndsIn .ret s slid)
    ∧ (∀ i, Issues s .ret e → b ≠ 0 → target % 4 = 0 → e.ss.find? (fun i => decide (b - 32 < (e.g.slice i).low)) = some i →
        ∃ u, slid u ∧ exec .ret s = .next (u.trap e.gk e.ss
          { code := cFill, aux := w64 (i + (e.g.slice i).low * 2 ^ 16), tmask := 0, tdone := e.path, tpc := pcMake target 0 }))
    ∧ (Issues s .ret e → b = 0 → exec .ret s = .next (s.trap e.gk e.ss { code := cEmpty, tmask := e.path, tpc := e.pc }))
    ∧ (Issues s .ret e → b ≠ 0 → target % 4 ≠ 0 → exec .ret s
        = .next (s.trap e.gk e.ss { code := cAlign, aux := memAux 0 target, tmask := e.act, tpc := e.pc }))
    ∧ ∀ i c, (c = .call o ∨ c = .callr a ∧ e.target a.toNat % 4 = 0) → Issues s c e →
        e.ss.find? (fun i => decide ((s.group e.g.group).ring + (e.g.slice i).low < (e.g.slice i).base + 80)) = some i →
        exec c s = .next (s.trap e.gk e.ss
          { code := cSpill, aux := w64 (i + (e.g.slice i).low * 2 ^ 16), tmask := e.path, tpc := e.pc })

/-- EXIT ends the lanes of its path, which leave every rejoin register; the slices with no pending path and no parked lanes run no
more. It waits while a captured instruction is held, or one that faulted is to be executed again (05 R132, R138; 10 R230). -/
def Obligations.ExitEndsLanes : Prop :=
  ∀ (s : State) (e : Issue), Issues s .exit e →
    let held : Prop := e.g.residualCount ≠ 0 ∨ e.g.work.faulted.isSome = true
    (¬ held → EndsIn .exit s fun t => Steers s t e.gk ∧ SameMemory s t
      ∧ (t.gang e.gk).exited = e.g.exited ||| e.path
      ∧ (∀ k, ((t.gang e.gk).rejoinReg k).expect = (e.g.rejoinReg k).expect &&& ~~~e.path
          ∧ ((t.gang e.gk).rejoinReg k).arrived = (e.g.rejoinReg k).arrived &&& ~~~e.path)
      ∧ ((∀ k, k < 8 → (e.g.rejoinReg k).paths = [] ∧ (e.g.rejoinReg k).parked = 0) → (t.gang e.gk).path = e.g.path &&& ~~~e.path))
    ∧ (held → EndsIn .exit s fun t => Steers s t e.gk ∧ (t.gang e.gk).exited = e.g.exited
        ∧ ∀ i, ((t.gang e.gk).slice i).pc = (e.g.slice i).pc)

/-- NOP, FANSET, SETM, SETM.H, SETMV, YIELD, and DRAIN and WAIT once what they wait for has come about, retire with the one effect
that each has on MODE, on a fan-out set or on the active set; DRAIN and WAIT stand still before that. A WAIT with a limit of 0 puts
later loads after what it waited for; with no store left every core path sees the gang's stores, and with no copy or no tile
operation left the gang has observed their writes complete (05 R135 to R138; 03 R77, R84; 07 R176; 14 R318, R319). -/
def Obligations.IssueControlCompletes : Prop :=
  ∀ (s : State) (e : Issue) (v : BitVec 24) (h : BitVec 8) (d a : BitVec 6) (f : BitVec 7) (l st c : BitVec 5) (x : BitVec 3),
    let only (i : Instr) : Prop := Issues s i e → EndsIn i s fun t => OnlyGang s t e.gk ∧ SameMemory s t ∧ Retires s t e
      ∧ (t.gang e.gk) = { s.gang e.gk with slices := (t.gang e.gk).slices, sched := (t.gang e.gk).sched }
    let mode (i : Instr) (m : W32 → W32) : Prop := Issues s i e → EndsIn i s fun t => Steers s t e.gk ∧ SameMemory s t
      ∧ (t.gang e.gk).sched = (s.gang e.gk).sched.retire ∧ (t.gang e.gk).path = e.g.path ∧ (t.gang e.gk).rejoin = e.g.rejoin
      ∧ ∀ i, i < (s.gang e.gk).slices.length → (t.gang e.gk).slice i
          = if e.ss.contains i then { ((s.gang e.gk).slice i).advance s.clock with mode := m ((s.gang e.gk).slice i).mode &&& 0x7FFFFFFF#32 }
            else (s.gang e.gk).slice i
    let stays (i : Instr) : Prop := Issues s i e → EndsIn i s fun t => Steers s t e.gk ∧ SameMemory s t
      ∧ (t.gang e.gk).sched = (s.gang e.gk).sched ∧ ∀ i, ((t.gang e.gk).slice i).pc = ((s.gang e.gk).slice i).pc
    let settled : Prop := e.g.residualCount = 0 ∧ e.g.work.faulted = none ∧ ∀ p ∈ e.g.regs.pend, p.2.on = false
    let zero : Prop := l = 0 ∨ st = 0 ∨ c = 0 ∨ x = 0
    let few : Prop := e.g.counts.loads ≤ l.toNat ∧ e.g.counts.stores ≤ st.toNat ∧ e.g.counts.copies ≤ c.toNat ∧ e.g.counts.tiles ≤ x.toNat
    only .nop
    ∧ (settled → only .drain) ∧ (¬ settled → stays .drain)
    ∧ (few → Issues s (.wait l st c x) e → EndsIn (.wait l st c x) s fun t =>
        t = { s with gangs := t.gangs, veils := t.veils } ∧ (∀ k, k ≠ e.gk → t.gang k = s.gang k) ∧ SameMemory s t ∧ Retires s t e
        ∧ t.gang e.gk = { s.gang e.gk with
            slices := (t.gang e.gk).slices, sched := (t.gang e.gk).sched, since := if zero then (s.core e.g.core).fills + 1 else e.g.since }
        ∧ (st ≠ 0 → c ≠ 0 → x ≠ 0 → t.veils = s.veils)
        ∧ (st = 0 → ∀ y ∈ t.veils, y.path = 0 → y.gang = e.gk → y.shownTo 0)
        ∧ ∀ y ∈ t.veils, y.gang = e.gk → c = 0 ∧ (y.path = 2 ∨ y.path = 3) ∨ x = 0 ∧ y.path = 3 → e.gk ∈ y.known)
    ∧ (¬ few → stays (.wait l st c x))
    ∧ (Issues s (.fanset d f) e → EndsIn (.fanset d f) s fun t => OnlyGang s t e.gk ∧ SameMemory s t ∧ Retires s t e
        ∧ (t.gang e.gk).regs = (s.gang e.gk).regs
        ∧ get 1 (t.gang e.gk).fan d.toNat = f.toNat ∧ ∀ n, n ≠ d.toNat → get 1 (t.gang e.gk).fan n = get 1 e.g.fan n)
    ∧ mode (.setm v) (fun m => m.extractLsb' 24 8 ++ v)
    ∧ mode (.setmH h) (fun m => h ++ m.setWidth 24)
    ∧ mode (.setmv a) (fun _ => e.g.readV (lowest e.path) a.toNat)
    ∧ (Issues s .yield e → EndsIn .yield s fun t => Steers s t e.gk ∧ SameMemory s t
        ∧ (t.gang e.gk).slices = ((s.gang e.gk).onSlices e.ss fun _ x => x.advance s.clock).slices
        ∧ (t.gang e.gk).sched.active = false ∧ (t.gang e.gk).sched.yielded = true)

/-- TRAP and BKPT complete in the path and then enter a handler, the resume address being the next word: the user's, or the
supervisor's for the codes that the manual reserves to it and where the user has none. A trap to the supervisor of a partition
whose sys.stvec is 0 enters no handler: the context stops as HALT stops it, and a kind 7 record with the trap's address and
cause is posted (05 R139, R140; 01 R38 to R40). -/
def Obligations.SoftwareTrapsEnterAHandler : Prop :=
  ∀ (s : State) (e : Issue) (c : BitVec 18),
    let fr (code : Nat) (sup : Bool) : Frame :=
      { tcause := w32 (code + b2n sup * 2 ^ 9), taux := w64 c.toNat, tmask := 0, tdone := e.path, tpc := pcNext e.pc
        tmode := (e.g.slice (e.ss.headD 0)).mode }
    let stvec := (s.part (s.partOf e.g)).stvec
    let user : Prop := e.g.level = 0 ∧ e.g.userH = false ∧ e.g.sys.utvec ≠ 0
    let sup : Prop := e.g.level = 1 ∨ e.g.userH = true ∨ e.g.sys.utvec = 0
    let settled : Prop := stvec ≠ 0 ∧ StvecSettled s (s.partOf e.g)
    let enters (i : Instr) (code : Nat) (b : Bool) (vec : W64) : Prop := Issues s i e → EndsIn i s fun t =>
      TrapFrame s t e.gk ∧ SameMemory s t ∧ Handling (s.gang e.gk) (t.gang e.gk) e.ss (fr code b) b vec
    (user → c.toNat < 0x3FF00 → enters (.trap c) 0x11 false e.g.sys.utvec)
    ∧ (0x3FF00 ≤ c.toNat ∨ sup → settled → enters (.trap c) 0x11 true stvec)
    ∧ (user → enters (.bkpt c) 0x12 false e.g.sys.utvec)
    ∧ (sup → settled → enters (.bkpt c) 0x12 true stvec)
    ∧ ∀ (gk : Nat) (ss : List Nat) (x : Trap),
      let g := s.gang gk
      let p := s.partOf g
      g.toSup x = true → (s.part p).stvec = 0 → StvecSettled s p →
      s.trap gk ss x = (s.stopCtx (s.ctxOf g) true).postRecord p
        { kind := 7, ctx := s.ctxOf g, gang := some gk, addr := x.tpc.toNat, pcs := g.pcs, detail := x.code + b2n x.deferred * 256 }

/-- TRET resumes the interrupted path as one cohort with MODE from sys.tmode: at sys.tpc, in the lanes of sys.tmask first, or
after a deferred trap at the instruction that it interrupted, with sys.tmask left to the faulted entry. The handler's level
and its bank of v0 to v7 are left, and the slices that this trap held run on; from a trap taken inside the supervisor's handler the
gang is still in the outer one. Software that changed the frame is obeyed. Outside a handler at user level it is an illegal
instruction (05 R140, R142, R143; 01 R28, R36, R39; 10 R230). That the outer trap's cohorts stay held is log entry 29, and that the
resumed lanes stand in no rejoin register (05 R121) log entry 97, both DEDUCED. -/
def Obligations.TretResumesTheInterruptedPath : Prop :=
  ∀ (s : State) (e : Issue), Issues s .tret e →
    let g := e.g
    let f := g.frame
    let sup : Bool := decide (g.level = 1)
    let own : Hidden := { path := e.path, slices := e.ss, fromLevel := g.level }
    let hid := if sup then (if g.hidSup.slices.isEmpty then own else g.hidSup) else g.hidUser
    let deferred := f.tcause.getLsbD 8
    let inner : Bool := sup && decide (0 < g.nest)
    let back := hid.path &&& ~~~g.exited
    ((sup = true ∨ g.userH = true) → g.failed = false → EndsIn .tret s fun t => OnlyGang s t e.gk ∧ SameMemory s t
      ∧ (∀ i, i < g.slices.length →
          if hid.slices.contains i then
            ((t.gang e.gk).slice i).pc = (if deferred then hid.resume else pcLegal f.tpc)
              ∧ ((t.gang e.gk).slice i).mode = f.tmode &&& 0x7FFFFFFF#32
              ∧ ((t.gang e.gk).slice i).reexec = (if deferred ∨ f.tmask = 0 then none else some f.tmask)
              ∧ ((t.gang e.gk).slice i).held = 0 ∧ ((t.gang e.gk).slice i).base = (g.slice i).base
          else ((t.gang e.gk).slice i).pc = (g.slice i).pc
            ∧ ((t.gang e.gk).slice i).held = (if (g.slice i).held = (if sup then 2 + g.nest else 1) then 0 else (g.slice i).held))
      ∧ (t.gang e.gk).level = (if inner then 1 else if sup then hid.fromLevel else g.level)
      ∧ (t.gang e.gk).nest = (if inner then g.nest - 1 else g.nest)
      ∧ (t.gang e.gk).supH = (if sup then inner else g.supH) ∧ (t.gang e.gk).userH = (sup && g.userH)
      ∧ (t.gang e.gk).path = (g.path &&& ~~~(slicesMask hid.slices)) ||| back
      ∧ (∀ k l, l < 32 → ¬ (has back l = true ∧ (has ((t.gang e.gk).rejoinReg k).parked l = true
            ∨ ∃ p ∈ ((t.gang e.gk).rejoinReg k).paths, has p.mask l = true)))
      ∧ (t.gang e.gk).work.faulted = (if deferred then g.work.faulted.map fun x => (x.1, f.tmask, x.2.2) else g.work.faulted)
      ∧ (t.gang e.gk).regs = g.regs ∧ (t.gang e.gk).frame = f ∧ (t.gang e.gk).sys = g.sys)
    ∧ (sup = false → g.userH = false → exec .tret s = .next (s.trap e.gk e.ss
        { code := cIllInstr, aux := w64 s.cur.word.toNat, tmask := e.act, tpc := e.pc }))

/-- REP starts its sequence where the next word is a legal body: the slices repeat that word `n` times, 64 for 0, from the index
in their program counters on; an index past the count completes the sequence at the word after the body; a body that may not
stand there traps (03 R79 to R82). -/
def Obligations.RepStartsItsSequence : Prop :=
  ∀ (s : State) (e : Issue) (n : BitVec 6) (d a b c : BitVec 3) (w : W32),
    Issues s (.rep n d a b c) e → s.fetch e.gk ((pcAddr e.pc + 4) % 2 ^ 56) = .ok w →
    let count := if n.toNat = 0 then 64 else n.toNat
    let legal : Prop := ∃ i, decodeWord w = .ok i ∧ repLegal d.toNat a.toNat b.toNat c.toNat i = true
    (legal → pcIdx e.pc < count → EndsIn (.rep n d a b c) s fun t => Steers s t e.gk ∧ SameMemory s t
      ∧ (t.gang e.gk).path = e.g.path
      ∧ ∀ i, i < e.g.slices.length → ((t.gang e.gk).slice i).pc = (e.g.slice i).pc
          ∧ ((t.gang e.gk).slice i).rep = if e.ss.contains i then
              some { body := w, count := count, dinc := d.toNat, ainc := a.toNat, binc := b.toNat, cinc := c.toNat }
            else (e.g.slice i).rep)
    ∧ (legal → count ≤ pcIdx e.pc → EndsIn (.rep n d a b c) s fun t =>
        Steers s t e.gk ∧ SameMemory s t ∧ JumpsTo s t e fun _ => pcAddr e.pc + 8)
    ∧ (¬ legal → exec (.rep n d a b c) s = .next (s.trap e.gk e.ss
        { code := cIllInstr, aux := join64 w s.cur.word, tmask := e.act, tpc := pcMake (pcAddr e.pc) 0 }))

/-! ### E. Memory -/

/-- A load that issues delivers, in every active lane, the bytes at the place that its address reaches, the least significant
first, extended as its form says: at once to its registers, or under MODE.dfr to a delivery on its way while the registers are
pending and the load counts. It changes no memory. All eleven loads: LD, LD2, LD4, LDX in six widths, LDS and LDA (07 R154,
R157, R158, R160; 10 R224; 01 R33, R35). Here with no store queued, no older load that has still to read, and none of the places
read before for a load of the gang that is younger (14 R321, R323). -/
def Obligations.LoadsDeliverMemory : Prop :=
  ∀ (s : State) (i : Instr) (e : Issue) (x : Access) (cache : Bool) (flat : Nat → Nat),
    Issues s i e → accessOf e.mode i = some x → loadCached i = some cache → e.act ≠ 0 →
    Placed s e x 0 true flat → Unhindered s e x flat → Sound s e x flat → e.g.work.stores = [] →
    e.g.unread e.g.work.nextId = false →
    let word (l n : Nat) : W32 := x.word (e.seen s x cache flat l) n
    (∀ l, has e.act l = true → e.g.pastAt e.g.work.nextId l (flat l) x.size = none) →
    EndsIn i s fun t => AccessFrame s t e.gk ∧ SameMemory s t ∧ Retires s t e
      ∧ (e.late = false → WritesV (s.gang e.gk) (t.gang e.gk) e.act x.regs word
          ∧ (t.gang e.gk).counts = (s.gang e.gk).counts
          ∧ (t.gang e.gk).work = { (s.gang e.gk).work with past := (t.gang e.gk).work.past, ordered := (t.gang e.gk).work.ordered }
          ∧ ((∀ sc d a, i ≠ .lda sc d a) → (t.gang e.gk).work.ordered = (s.gang e.gk).work.ordered)
          ∧ (e.g.openLoads e.g.work.nextId = [] → (t.gang e.gk).work.past = (s.gang e.gk).work.past))
      ∧ (e.late = true → (∀ l n, l < 32 → (t.gang e.gk).readV l n = (s.gang e.gk).readV l n)
          ∧ (t.gang e.gk).counts = { (s.gang e.gk).counts with loads := (s.gang e.gk).counts.loads + 1 }
          ∧ (∀ n ∈ x.regs, ((t.gang e.gk).pend ((t.gang e.gk).pname n)).on = true
              ∧ ((t.gang e.gk).pend ((t.gang e.gk).pname n)).mask = e.act)
          ∧ ∃ d, (t.gang e.gk).work.flight = (s.gang e.gk).work.flight ++ [d] ∧ d.lanes = e.act ∧ d.loads = true
              ∧ d.regs.map Prod.fst = x.regs.map (s.gang e.gk).pname
              ∧ ∀ l n, has e.act l = true → n ∈ x.regs → get 0 d.vals (128 * l + n) = word l n)

/-- A delivery that arrives writes its words to each register whose current tag it carries, in the lanes still pending, clears
the pending bit, and lets go of the load that it counted; a delivery under an older tag writes nothing. A window register is the
stack slot that its name meant when it became pending, and the crossbar acknowledges the request (01 R33; 10 R224 to R226; 19
R408). Here a delivery of one register to a gang outside supervisor handlers whose context has not come to rest. -/
def Obligations.DeliveriesLandUnderTheirTag : Prop :=
  ∀ (s : State) (gk i : Nat) (d : Deliv) (r tag : Nat),
    let g := s.gang gk
    let slot (l : Nat) : Nat := slotKey l (if r < 16 then r else (g.pend r).bases[l / 4]?.getD 0 + r)
    g.work.flight[i]? = some d → d.entry = none → d.regs = [(r, tag)] → r < 64 → g.supH = false → s.still gk = false →
    EndsIn (.taggedDelivery gk i) s fun t => t = { s with gangs := t.gangs, chip := t.chip } ∧ (∀ k, k ≠ gk → t.gang k = s.gang k)
      ∧ SameMemory s t ∧ (d.cross = none → t.chip = s.chip)
      ∧ (∀ k n, d.cross = some (k, n) → (get {} t.chip.flows k).acked = some n)
      ∧ (t.gang gk).counts = (if d.loads then { g.counts with loads := g.counts.loads - 1 } else g.counts)
      ∧ ((t.gang gk).work.flight = g.work.flight.filter fun y => y.id != d.id)
      ∧ (t.gang gk).slices = g.slices ∧ (t.gang gk).sched = g.sched
      ∧ ((g.pend r).on = true ∧ (g.pend r).tag = tag →
          ((t.gang gk).pend r).on = false
            ∧ (∀ l, l < 32 → has (d.lanes &&& (g.pend r).mask) l = true → get 0 (t.gang gk).regs.vec (slot l) = get 0 d.vals (128 * l + r))
            ∧ ((r < 16 ∨ ∀ l, l < 32 → (g.pend r).bases[l / 4]?.getD 0 = (g.slice (l / 4)).base) →
              WritesV g (t.gang gk) (d.lanes &&& (g.pend r).mask) [r] fun l n => get 0 d.vals (128 * l + n)))
      ∧ (¬ ((g.pend r).on = true ∧ (g.pend r).tag = tag) → ∀ l n, l < 32 → (t.gang gk).readV l n = g.readV l n)

/-- A load, store, reduction or atomic whose address is not a multiple of its size traps with cause alignment, the address of its
lowest lane in sys.taux and every active lane in sys.tmask, and leaves registers and memory as they are (07 R152, R154,
R155). Here with every active lane misaligned, from user level with a user handler, no record of the gang's waiting for room and no
older load that has still to read. -/
def Obligations.MisalignedAccessesTrap : Prop :=
  ∀ (s : State) (i : Instr) (e : Issue) (x : Access),
    Issues s i e → accessOf e.mode i = some x →
    ((loadCached i).isSome = true ∨ (storeHost e.mode i).isSome = true ∨ (atomicStep e.mode (fun _ => 0) 0 i).isSome = true) →
    e.act ≠ 0 → (∀ l, has e.act l = true → x.addr (e.g.readV l) % x.align ≠ 0) → e.g.work.stores = [] → s.crossbarOk e.gk x = true →
    e.g.unread e.g.work.nextId = false → e.g.level = 0 → e.g.userH = false → e.g.sys.utvec ≠ 0 → s.recordWaits e.gk = false →
    EndsIn i s fun t => SameMemory s t
      ∧ (t.gang e.gk).frame = { tcause := 0x22, taux := w64 (x.addr (e.g.readV (lowest e.act)) % 2 ^ 56), tmask := e.act, tdone := 0
                                tpc := e.pc, tmode := (e.g.slice (e.ss.headD 0)).mode }
      ∧ (∀ j, e.ss.contains j = true → j < e.g.slices.length →
          ((t.gang e.gk).slice j).pc = pcMake (pcAddr e.g.sys.utvec / 4 * 4) 0)
      ∧ (t.gang e.gk).regs = { (s.gang e.gk).regs with pend := (t.gang e.gk).regs.pend }

/-- A store or reduction whose lanes pass the checks enters the store queue with its operands and counts; memory, registers and
cache lines stand until the queue performs it (07 R154, R158, R161, R162). All nine stores and six reductions. -/
def Obligations.StoresEnterTheQueue : Prop :=
  ∀ (s : State) (i : Instr) (e : Issue) (x : Access) (pcie : Bool) (flat : Nat → Nat),
    Issues s i e → accessOf e.mode i = some x → storeHost e.mode i = some pcie → e.act ≠ 0 →
    Placed s e x (if (redOp i).isSome then 3 else 1) pcie flat → (e.g.slice (e.ss.headD 0)).reexec = none →
    EndsIn i s fun t => t = { s with gangs := t.gangs, tlb := t.tlb } ∧ SameMemory s t ∧ Retires s t e
      ∧ (∀ k, k ≠ e.gk → t.gang k = s.gang k)
      ∧ (t.gang e.gk).regs = (s.gang e.gk).regs
      ∧ (t.gang e.gk).counts = { (s.gang e.gk).counts with stores := (s.gang e.gk).counts.stores + 1 }
      ∧ ∃ q, (t.gang e.gk).work.stores = (s.gang e.gk).work.stores ++ [q]
          ∧ q.entry.instr = i ∧ q.entry.mode = e.mode ∧ q.entry.lanes = e.act ∧ q.entry.waits = [] ∧ q.entry.guardPend = false
          ∧ q.captured = false ∧ q.fault = none
          ∧ ∀ l n, has e.act l = true → n ∈ x.regs ++ x.aregs → q.entry.readV l n = e.g.readV l n

/-- The head of a store queue, when it is performed, changes exactly the bytes of its lanes: where lanes share a byte the highest
lane's stands, and every byte outside reads as before; the count falls (07 R158, R161, R162). A store that is no reduction. Here
with no write part of an atomic still to come at its bytes (14 R322). -/
def Obligations.QueuedStoresReachMemory : Prop :=
  ∀ (s : State) (gk : Nat) (q : SqEntry) (rest : List SqEntry) (x : Access) (flat : Nat → Nat),
    let g := s.gang gk
    let m := q.entry.active
    g.work.stores = q :: rest → accessOf q.entry.mode q.entry.instr = some x → isRmw q.entry.instr = false →
    q.entry.waits = [] → q.fault = none → g.olderLoad q.entry.id = false → s.crossbarOk gk x = true →
    (∀ l, has m l = true → (s.warm gk x (x.lanes m q.entry.readV)).laneAt gk x 1 true (x.addr (q.entry.readV l)) = .ok (flat l)) →
    ((s.part (s.partOf g)).linked = true ∨ ∀ l, has m l = true → isHost (flat l) = false) →
    (x.spad = true → ∀ l, has m l = true → s.winAt g.group (flat l) x.size (x.addr (q.entry.readV l)) = .free) →
    (∀ l, has m l = true → s.poisoned (flat l) x.size = false ∧ s.unreachable (flat l) = false) → s.still gk = false →
    Answered s q.entry.flits m flat →
    (∀ h ∈ s.halves, ∀ l, has m l = true → overlaps (flat l) x.size h.flat h.bytes.length = false) →
    EndsIn (.storeQueueRetire gk) s fun t => AccessFrame s t gk
      ∧ (t.gang gk) = { g with
          work := { g.work with stores := rest, past := (t.gang gk).work.past }, counts := { g.counts with stores := g.counts.stores - 1 } }
      ∧ (∀ a, Outside m flat x.size a → t.byte a = s.byte a)
      ∧ ∀ l a, has m l = true → flat l ≤ a → a < flat l + x.size →
          (∀ k, l < k → has m k = true → a < flat k ∨ flat k + x.size ≤ a) →
          some (t.byte a) = (x.data (q.entry.readV l))[a - flat l]?

/-- A reduction at the head of a store queue, when it is performed, leaves at each address the operation applied lane by lane in
ascending order, a floating sum the old value plus the lanes' running sum, and every other byte as before (07 R169, R170, R172).
Here in an act that keeps no write part apart (14 R322). -/
def Obligations.QueuedReductionsReachMemory : Prop :=
  ∀ (s : State) (gk : Nat) (q : SqEntry) (rest : List SqEntry) (x : Access) (flat : Nat → Nat) (op : Nat),
    let g := s.gang gk
    let m := q.entry.active
    let T := mType q.entry.mode
    let data (l : Nat) := fromBytes (x.data (q.entry.readV l))
    g.work.stores = q :: rest → accessOf q.entry.mode q.entry.instr = some x → redOp q.entry.instr = some op →
    q.entry.waits = [] → q.fault = none → g.olderLoad q.entry.id = false → s.crossbarOk gk x = true →
    (∀ l, has m l = true → (s.warm gk x (x.lanes m q.entry.readV)).laneAt gk x 3 (op == 0 && isInt T) (x.addr (q.entry.readV l)) = .ok (flat l)) →
    ((s.part (s.partOf g)).linked = true ∨ ∀ l, has m l = true → isHost (flat l) = false) →
    (∀ l, has m l = true → s.poisoned (flat l) x.size = false ∧ s.unreachable (flat l) = false) → s.still gk = false →
    (x.spad = true → ∀ l, has m l = true → s.winAt g.group (flat l) x.size (x.addr (q.entry.readV l)) = .free) →
    Supported s m flat → Whole s → Answered s q.entry.flits m flat →
    (∀ l k, has m l = true → has m k = true → flat l = flat k ∨ flat l + x.size ≤ flat k ∨ flat k + x.size ≤ flat l) →
    EndsIn (.storeQueueRetire gk) s fun t => AccessFrame s t gk
      ∧ (t.gang gk).work.stores = rest ∧ (t.gang gk).counts = { g.counts with stores := g.counts.stores - 1 }
      ∧ (t.gang gk).regs = g.regs
      ∧ (∀ a, Outside m flat x.size a → t.byte a = s.byte a)
      ∧ ∀ l, has m l = true →
          let ks := (lanesOf m).filter fun k => flat k == flat l
          let old := s.num (flat l) x.size
          t.num (flat l) x.size = (if op = 0 ∧ isFlt T = true then fAdd T old (floatSum T (ks.map data))
              else ks.foldl (fun v k => amo op T v (data k)) old) % 2 ^ (8 * x.size)

/-- An atomic that issues returns to each active lane what stood at its address after the lanes below it, leaves there what all
lanes make of it in ascending order, and changes no other byte: AADD, AMIN, AMAX, AAND, AOR, AXOR, AXCH, AINC and CAS. A floating
AADD returns to a lane the old value plus the running sum of the lanes below it, and leaves the old value plus that of all (07 R166
to R173). Here with no older load that has still to read, in an act that keeps no write part apart (14 R322, R323). -/
def Obligations.AtomicsReturnAndUpdate : Prop :=
  ∀ (s : State) (i : Instr) (e : Issue) (x : Access) (flat : Nat → Nat),
    let T := mType e.mode
    let next (l old : Nat) : Nat := (atomicStep e.mode (fun r => valueOf e.mode (e.g.readV l) r.toNat) old i).getD 0
    let upTo (p : Nat → Bool) (a : Nat) : Nat :=
      ((lanesOf e.act).filter fun k => flat k == a && p k).foldl (fun v k => next k v) (s.num a x.size)
    let sumTo (b : BitVec 6) (p : Nat → Bool) (a : Nat) : Nat :=
      let ks := (lanesOf e.act).filter fun k => flat k == a && p k
      if ks = [] then s.num a x.size
      else fAdd T (s.num a x.size) (floatSum T (ks.map fun k => valueOf e.mode (e.g.readV k) b.toNat))
    let leaves (t : State) (f : (p : Nat → Bool) → (a : Nat) → Nat) : Prop :=
      (∀ l, has e.act l = true → t.num (flat l) x.size = f (fun _ => true) (flat l) % 2 ^ (8 * x.size))
        ∧ (e.late = false → WritesV (s.gang e.gk) (t.gang e.gk) e.act x.regs fun l n =>
            w32 (f (fun k => decide (k < l)) (flat l) / 2 ^ (32 * x.regs.idxOf n)))
    Issues s i e → accessOf e.mode i = some x → (atomicStep e.mode (fun _ => 0) 0 i).isSome = true → e.act ≠ 0 →
    Placed s e x 3 (atomicHost e.mode i) flat → Unhindered s e x flat → Sound s e x flat → e.g.work.stores = [] →
    e.g.unread e.g.work.nextId = false →
    (∀ l k, has e.act l = true → has e.act k = true → flat l = flat k ∨ flat l + x.size ≤ flat k ∨ flat k + x.size ≤ flat l) →
    Supported s e.act flat → Whole s →
    EndsIn i s fun t => AccessFrame s t e.gk ∧ Retires s t e
      ∧ (∀ a, Outside e.act flat x.size a → t.byte a = s.byte a)
      ∧ ((isFlt T = false ∨ ∀ sc d a b, i ≠ .aadd sc d a b) → leaves t upTo)
      ∧ (isFlt T = true → ∀ sc d a b, i = .aadd sc d a b → leaves t (sumTo b))

/-- FENCE and XFENCE retire once the accesses that they order are complete, emptying the load cache where they acquire; then the
gang's stores, and what its releases carry, are seen by every core path of the scope, or the writes of path x that the gang has
observed complete by path y, and XFENCE from the matrix path ends the reads of the gang's passes; PREF brings lines in and
faults in no lane; and with no active lane a load, store, reduction or atomic retires and does nothing else. None of them
changes a register, a count or a byte of memory (07 R174 to R176; 01 R15; 03 R73; 14 R315, R316, R318). -/
def Obligations.FencesPrefetchAndIdleAccesses : Prop :=
  ∀ (s : State) (e : Issue) (sc : BitVec 2) (d a b : BitVec 6),
    let done (i : Instr) : Prop := EndsIn i s fun t =>
      t = { s with gangs := t.gangs, cores := t.cores, tlb := t.tlb, veils := t.veils, free := t.free, parts := t.parts, chip := t.chip
                   rereads := t.rereads } ∧ SameMemory s t
      ∧ ((∀ d a, i ≠ .pref d a) → t.parts = s.parts ∧ t.chip = s.chip) ∧ ((∀ a b, i ≠ .xfence a b) → t.rereads = s.rereads)
      ∧ Retires s t e ∧ (∀ k, k ≠ e.gk → t.gang k = s.gang k)
      ∧ t.gang e.gk = { s.gang e.gk with
          slices := (t.gang e.gk).slices, sched := (t.gang e.gk).sched
          work := { (s.gang e.gk).work with ordered := (t.gang e.gk).work.ordered } }
      ∧ ((∀ sc d a, i ≠ .stl sc d a) → (t.gang e.gk).work.ordered = (s.gang e.gk).work.ordered)
    (Issues s (.fence sc) e → e.g.counts.loads = 0 → e.g.counts.stores = 0 → done (.fence sc)
        ∧ (1 ≤ sc.toNat → EndsIn (.fence sc) s fun t => (t.core e.g.core).cache = [])
        ∧ (1 ≤ sc.toNat → EndsIn (.fence sc) s fun t => ∀ v ∈ t.veils, v.path = 0 ∧ v.gang = e.gk ∨ e.gk ∈ v.carried →
            (2 ≤ sc.toNat → v.shownTo 0) ∧ v.hides (seat 0 e.g.core) = false
              ∧ ∀ k ∈ (s.group e.g.group).peers, v.hides (seat 0 (s.group k).core) = false))
    ∧ (Issues s (.fence sc) e → ¬ (e.g.counts.loads = 0 ∧ e.g.counts.stores = 0) → EndsIn (.fence sc) s fun t =>
        Steers s t e.gk ∧ ∀ i, ((t.gang e.gk).slice i).pc = ((s.gang e.gk).slice i).pc)
    ∧ (Issues s (.xfence a b) e → a ≠ b → (a.toNat ≠ 0 ∨ e.g.counts.stores = 0) →
        done (.xfence a b) ∧ (b.toNat = 0 → EndsIn (.xfence a b) s fun t => (t.core e.g.core).cache = [])
        ∧ EndsIn (.xfence a b) s fun t =>
            (∀ v ∈ t.veils, v.path = a.toNat → (if a.toNat = 0 then v.gang = e.gk else e.gk ∈ v.known) → v.shownTo b.toNat)
              ∧ if a.toNat = 3 then ∀ r, r ∈ t.rereads ↔ r ∈ s.rereads ∧ r.gang ≠ e.gk else t.rereads = s.rereads)
    ∧ (Issues s (.xfence a b) e → a ≠ b → a.toNat = 0 → e.g.counts.stores ≠ 0 →
        EndsIn (.xfence a b) s fun t => StandsStill s t e)
    ∧ (Issues s (.pref d a) e → done (.pref d a))
    ∧ ∀ i, Issues s i e → e.act = 0 →
        ((loadCached i).isSome = true ∨ (storeHost e.mode i).isSome = true ∨ (atomicStep e.mode (fun _ => 0) 0 i).isSome = true) → done i

/-! ### F. The SRAM pool -/

/-- BINIT, BARR, BEXP, BWAIT and BTEST on a barrier object: BINIT makes generation 0, BARR arrives, BEXP adds expected bytes, each
followed by Advance; BWAIT goes on at a completed phase and stands still at an open one, BTEST tells which; an arrival past
what is expected, or a phase that is neither open nor complete, is a barrier-overrun (11 R240 to R245). No byte outside the
object changes, and BINIT leaves the owners of the uniform registers (01 R23). Here with no record of the gang's waiting for room. -/
def Obligations.BarrierInstructions : Prop :=
  ∀ (s : State) (e : Issue) (d a b : BitVec 6) (flat : Nat),
    e.act ≠ 0 → s.barAt e.g.group (e.low a) = .ok flat → s.olderStore e.gk true [(flat, 64)] = false → s.recordWaits e.gk = false →
    let o := s.bar flat
    let n := e.low b
    let writes (i : Instr) (x : Bar) : Prop := EndsIn i s fun t => PoolFrame s t e.gk ∧ RetiresTesting s t e ∧ KeepsRegs s t e.gk
      ∧ t.bar flat = x ∧ ∀ k, (k < flat ∨ flat + 64 ≤ k) → t.byte k = s.byte k
    let overrun (i : Instr) : Prop := TrapsWith i s e 0x28 (w64 (e.low a % 2 ^ 24 + n * 2 ^ 32))
    let quiet : Prop := e.g.counts.loads = 0 ∧ e.g.counts.stores = 0
    (Issues s (.binit a b) e → (1 ≤ n ∧ n < 65536 → writes (.binit a b) { base := n, xarr := [n, n, n, n] })
        ∧ (1 ≤ n ∧ n < 65536 → EndsIn (.binit a b) s fun t => t.groups = s.groups)
        ∧ (¬ (1 ≤ n ∧ n < 65536) → TrapsWith (.binit a b) s e 0x02 (opAux 2 b.toNat)))
    ∧ (Issues s (.barr a b) e → quiet → (∀ x, o.arrive n = some x → writes (.barr a b) x)
        ∧ (¬ (o.isOpen n = true ∧ nth o.arr (n % 4) < nth o.xarr (n % 4)) → overrun (.barr a b)))
    ∧ (Issues s (.barr a b) e → ¬ quiet → EndsIn (.barr a b) s fun t => StandsStill s t e)
    ∧ (Issues s (.bexp d a b) e → (∀ x, o.expect n (e.low d) = some x → writes (.bexp d a b) x)
        ∧ (o.isOpen n = false → overrun (.bexp d a b)))
    ∧ (Issues s (.bwait a b) e →
        (o.complete n = true → EndsIn (.bwait a b) s fun t =>
          PoolFrame s t e.gk ∧ Retires s t e ∧ KeepsRegs s t e.gk ∧ SameMemory s t)
        ∧ (o.complete n = false → o.isOpen n = false → overrun (.bwait a b))
        ∧ (o.isOpen n = true → o.flt = 0 → EndsIn (.bwait a b) s fun t => StandsStill s t e))
    ∧ (Issues s (.btest d a b) e → EndsIn (.btest d a b) s fun t => PoolFrame s t e.gk ∧ Retires s t e ∧ SameMemory s t
        ∧ WritesP (s.gang e.gk) (t.gang e.gk) e.act [d.toNat] fun _ => o.complete n)

/-- CATSET, CATCLR, CATQRY and WREL on the window catalogue, and SEGO, SESTOP, SERESUME and SEQRY on stream contexts: an entry
takes the record's fields, is cleared with its contexts, answers its words or releases a window; a context starts at the
entry's program with eight registers from the block, stops, goes on or answers its state (11 R246 to R251, R255, R256). -/
def Obligations.CatalogueAndStreamControl : Prop :=
  ∀ (s : State) (e : Issue) (d a : BitVec 6) (n : BitVec 5) (sel : BitVec 1), e.act ≠ 0 →
    let grp := e.g.group
    let c := (s.group grp).entry n.toNat
    let h := s.ownHandle e (e.low a)
    let frame (t : State) : Prop := SameMemory s t ∧ Retires s t e ∧ (∀ k, k ≠ grp → t.group k = s.group k)
      ∧ ∀ k, k ≠ n.toNat → (t.group grp).entry k = (s.group grp).entry k
    let one (i : Instr) (h : Nat) (f : StreamCtx → StreamCtx) : Prop := EndsIn i s fun t => SameMemory s t ∧ Retires s t e
      ∧ KeepsRegs s t e.gk ∧ t = { s with gangs := t.gangs, streams := t.streams } ∧ (∀ k, k ≠ h → t.stream k = s.stream k)
      ∧ t.stream h = f (s.stream h)
    let regsOf (flat j : Nat) : W64 := w64 (s.coreNum e.gk (flat + 8 * j) 8)
    let run (x : StreamCtx) : StreamCtx := { x with state := 1 }
    (∀ flat, Issues s (.catset a n) e → s.localAt grp 32 32 (e.low a) = .ok flat → s.olderStore e.gk true [(flat, 32)] = false →
        let bs := s.coreBytes e.gk flat 32
        s.catLegal grp bs = true → s.entryBusy grp n.toNat = false → EndsIn (.catset a n) s fun t => frame t
          ∧ KeepsRegs s t e.gk ∧ (t.group grp).entry n.toNat = { catRecord bs with valid := true }
          ∧ ∀ p ∈ t.streams, ¬ (p.2.group = grp ∧ p.2.entry = n.toNat))
    ∧ (Issues s (.catclr n) e → (c.valid = true → s.fillsOver grp n.toNat = true) → EndsIn (.catclr n) s fun t => frame t
        ∧ KeepsRegs s t e.gk ∧ ((t.group grp).entry n.toNat).valid = false
        ∧ (c.valid = true → ∀ p ∈ t.streams, ¬ (p.2.group = grp ∧ p.2.entry = n.toNat)))
    ∧ (Issues s (.catclr n) e → c.valid = true → (s.stopEntry grp n.toNat).fillsOver grp n.toNat = false →
        EndsIn (.catclr n) s fun t => KeepsRegs s t e.gk ∧ ((t.group grp).entry n.toNat).valid = true
          ∧ (∀ i, ((t.gang e.gk).slice i).pc = ((s.gang e.gk).slice i).pc)
          ∧ ∀ k x, find t.streams k = some x → x.group = grp → x.entry = n.toNat → x.running = true → x.clearing = true)
    ∧ (Issues s (.catqry d sel n) e → EndsIn (.catqry d sel n) s fun t => OnlyGang s t e.gk
        ∧ Answers s t e d (if sel = 1 then c.next else s.catStatus grp n.toNat))
    ∧ (Issues s (.wrel a n) e → c.valid = true →
        (c.touch = true → EndsIn (.wrel a n) s fun t => frame t ∧ KeepsRegs s t e.gk ∧ (t.group grp).entry n.toNat
          = if c.win (e.low a % c.cnt) = .filling then c else c.setWin (e.low a % c.cnt) .absent)
        ∧ (c.touch = false → c.free % 64 = 0 → e.g.counts.loads = 0 → e.g.counts.stores = 0 →
          ∀ x, (s.bar (spadBase grp + c.free)).arrive (e.low a) = some x → EndsIn (.wrel a n) s fun t =>
            PoolFrame s t e.gk ∧ RetiresTesting s t e ∧ KeepsRegs s t e.gk ∧ t.bar (spadBase grp + c.free) = x))
    ∧ (∀ flat, Issues s (.sego d a n) e → s.localAt grp 64 64 (e.low a) = .ok flat → s.olderStore e.gk true [(flat, 64)] = false →
        ((c.valid = false ∨ c.touch = true) → EndsIn (.sego d a n) s fun t => OnlyGang s t e.gk ∧ Answers s t e d 0x80000002)
        ∧ (c.valid = true → c.touch = false → c.ctx = none → s.freeHandles e.g.core (s.partOf e.g) = [] →
            EndsIn (.sego d a n) s fun t => OnlyGang s t e.gk ∧ Answers s t e d 0x80000001)
        ∧ (c.valid = true → c.touch = false → c.ctx = none → s.freeHandles e.g.core (s.partOf e.g) ≠ [] →
            EndsIn (.sego d a n) s fun t => frame t ∧ ∃ k ∈ s.freeHandles e.g.core (s.partOf e.g), ∃ v, Answers s t e d v
              ∧ get v (t.group grp).handles v = k ∧ ((s.group grp).handles = [] → v = k)
              ∧ (t.group grp).entry n.toNat = { c with ctx := some k } ∧ (t.stream k).state = 1 ∧ (t.stream k).gang = e.gk
              ∧ (t.stream k).group = grp ∧ (t.stream k).entry = n.toNat ∧ (t.stream k).regs.pc = c.prog
              ∧ ∀ j, j < 8 → get 0 (t.stream k).regs.e j = regsOf flat j))
    ∧ (Issues s (.sestop a) e → ∀ x, s.ownStream e h = some x →
        ((x.state = 1 ∨ x.state = 2) → x.between = true → one (.sestop a) h fun x => { x with state := 3 })
        ∧ ((x.state = 1 ∧ x.between = false ∨ x.state = 6) → one (.sestop a) h fun x => { x with stopping := true })
        ∧ ((x.state = 2 ∧ x.between = false ∨ x.state ≠ 1 ∧ x.state ≠ 2 ∧ x.state ≠ 6) → one (.sestop a) h fun x => x))
    ∧ (Issues s (.seresume a) e → ∀ x, s.ownStream e h = some x → (x.state = 3 → one (.seresume a) h run)
        ∧ (x.state ≠ 3 → one (.seresume a) h fun x => { x with stopping := false }))
    ∧ (Issues s (.seqry d a) e → EndsIn (.seqry d a) s fun t => OnlyGang s t e.gk
        ∧ Answers s t e d ((s.ownStream e h).elim 0 StreamCtx.word))

/-- QPUSH sends the active lanes' words as one entry, QPOP takes the oldest entry lane by lane, QOWN and QOWN.REL take and give up a
link end, DECTBL hands a code table to the decoder and BXCOPY a request to a bulk engine, which counts as a copy under way
(10 R232 to R235; 11 R269, R273, R275 to R277). A push without room and, where loads are not deferred, a pop of an empty
queue stand still. -/
def Obligations.QueuesDecoderAndCopies : Prop :=
  ∀ (s : State) (e : Issue) (d a : BitVec 6) (sl : BitVec 2), e.act ≠ 0 →
    let only (t : State) (k : Nat) : Prop := OnlyGangLinks s t e.gk ∧ SameMemory s t ∧ Retires s t e ∧ ∀ j, j ≠ k → t.link j = s.link j
    let kd := pushKey e d.toNat
    let ka := s.popKey e.gk a.toNat
    let ke := linkKey (e.g.core / 4) a.toNat
    let mine : Prop := (s.link ke).owner = none ∨ (s.link ke).owner = some e.gk
    (Issues s (.qpush d a) e →
        ((s.link kd).window.length < 16 → EndsIn (.qpush d a) s fun t => only t kd ∧ KeepsRegs s t e.gk
          ∧ t.link kd = { s.link kd with
              window := (s.link kd).window ++ [((s.link kd).nextSend, (lanesOf e.act).map fun l => e.g.readV l a.toNat, e.act)]
              nextSend := (s.link kd).nextSend + 1 })
        ∧ (16 ≤ (s.link kd).window.length → EndsIn (.qpush d a) s fun t => StandsStill s t e))
    ∧ (Issues s (.qpop d a) e → a.toNat ≠ 13 → e.g.popWaits a.toNat = false →
        (∀ ws m rest, (s.link ka).recv = (ws, m) :: rest → EndsIn (.qpop d a) s fun t =>
          t = { s with gangs := t.gangs, links := t.links, veils := t.veils } ∧ (∀ k, k ≠ e.gk → t.gang k = s.gang k)
          ∧ SameMemory s t ∧ Retires s t e ∧ (∀ j, j ≠ ka → t.link j = s.link j) ∧ (a.toNat ≠ 12 → t.veils = s.veils)
          ∧ t.link ka = { s.link ka with
              recv := if a.toNat < 4 ∧ (lanesOf m).length < ws.length then (ws.drop (lanesOf m).length, m) :: rest else rest }
          ∧ WritesV (s.gang e.gk) (t.gang e.gk) e.act [d.toNat] fun l _ =>
              if a.toNat = 12 then ws.headD 0
              else if has m l = true then ws[((lanesOf m).filter fun k => decide (k < l)).length]?.getD 0 else 0)
        ∧ ((s.link ka).recv = [] → e.late = false → EndsIn (.qpop d a) s fun t => StandsStill s t e)
        ∧ ((s.link ka).recv = [] → e.late = true → EndsIn (.qpop d a) s fun t => OnlyGang s t e.gk ∧ Retires s t e
            ∧ ((t.gang e.gk).pend ((t.gang e.gk).pname d.toNat)).on = true))
    ∧ (Issues s (.qown d a) e →
        (mine → EndsIn (.qown d a) s fun t => only t ke ∧ t.link ke = { s.link ke with owner := some e.gk, core := some e.g.core }
          ∧ WritesP (s.gang e.gk) (t.gang e.gk) e.act [d.toNat] fun _ => true)
        ∧ (¬ mine → EndsIn (.qown d a) s fun t => only t ke ∧ t.link ke = s.link ke
          ∧ WritesP (s.gang e.gk) (t.gang e.gk) e.act [d.toNat] fun _ => false))
    ∧ (Issues s (.qownRel a) e → EndsIn (.qownRel a) s fun t => only t ke ∧ KeepsRegs s t e.gk
        ∧ t.link ke = if (s.link ke).owner = some e.gk then { s.link ke with owner := none } else s.link ke)
    ∧ (Issues s (.dectbl a sl) e → ∀ flat tb f2, s.localAt e.g.group 4 16 (e.low a) = .ok flat →
        s.olderStore e.gk true [(flat, 272)] = false → s.codeTable e.gk flat = some tb →
        s.localAt e.g.group 4 (16 + tb.symbols.length) (e.low a) = .ok f2 → EndsIn (.dectbl a sl) s fun t =>
          t = { s with gangs := t.gangs, cores := t.cores } ∧ SameMemory s t ∧ Retires s t e ∧ KeepsRegs s t e.gk
          ∧ t.core e.g.core = { s.core e.g.core with decLoad := (s.core e.g.core).decLoad ++ [(sl.toNat, tb)] })
    ∧ (Issues s (.bxcopy a) e → ∀ flat, s.localAt e.g.group 64 64 (e.low a) = .ok flat → s.olderStore e.gk true [(flat, 64)] = false →
        let r := bulkReq (s.coreBytes e.gk flat 64)
        s.bulkLegal e.g.group r = true → (r.imp = true → s.recordLen e r.src = .ok r.len ∧ s.recordHeld e r.src = false) →
        EndsIn (.bxcopy a) s fun t => t = { s with gangs := t.gangs, bulks := t.bulks, parts := t.parts, free := t.free }
          ∧ (r.imp = false → t.parts = s.parts ∧ t.free = s.free) ∧ SameMemory s t ∧ Retires s t e ∧ KeepsRegs s t e.gk
          ∧ (t.gang e.gk).counts = { (s.gang e.gk).counts with copies := (s.gang e.gk).counts.copies + 1 }
          ∧ ∃ k x, find t.bulks k = some x ∧ (∀ j, j ≠ k → find t.bulks j = find s.bulks j) ∧ x.gang = e.gk ∧ x.src = r.src
            ∧ x.dst = r.dst ∧ x.len = r.len ∧ x.ring = r.ring ∧ x.got = 0 ∧ x.ended = none
            ∧ ∀ j, j ∈ x.todo ↔ 128 * j < r.len)

/-! ### G. Axes -/

/-- TDLD loads the 128 bytes at its address into a slot where they are a legal descriptor, TDST stores a slot's bytes and no other,
AXPERM permutes the axes of a slot as its word says, and AXSET on an axis without a table sets its map; an empty slot or a
word that is no permutation is operand-format (12 R280, R281, R290 to R293). Every other slot and register stands. -/
def Obligations.DescriptorSlots : Prop :=
  ∀ (s : State) (e : Issue) (d a b : BitVec 6) (i : BitVec 12), e.act ≠ 0 →
    let grp := e.g.group
    let va := e.pairAt a i
    let x := pieces va
    let ads := (List.range 8).map fun l => (l, (va + 16 * l) % 2 ^ 64)
    let linked : Prop := (s.part (s.partOf e.g)).linked = true
    let slot (t : State) (k : Nat) (bs : List Byte) : Prop := find (t.group grp).td k = some bs
      ∧ (∀ j, j ≠ k → find (t.group grp).td j = find (s.group grp).td j) ∧ (∀ j, j ≠ grp → t.group j = s.group j)
      ∧ SameMemory s t ∧ Retires s t e ∧ KeepsRegs s t e.gk ∧ (∀ k, k ≠ e.gk → t.gang k = s.gang k)
    let format (i : Instr) (r : Nat) : Prop := TrapsWith i s e 0x2A (w64 (pcAddr e.pc + r * 2 ^ 56))
    (Issues s (.tdld d a i) e → va % 16 = 0 → e.g.work.stores = [] → e.g.unread e.g.work.nextId = false →
        ∀ flat : Nat → Nat, (∀ l, l < 8 → (s.warm e.gk x ads).laneAt e.gk x 0 true ((va + 16 * l) % 2 ^ 64) = .ok (flat l)) →
          (linked ∨ ∀ l, l < 8 → isHost (flat l) = false) → Answered s e.flits 0xFF#32 flat →
          (∀ l j, l < 8 → j < 16 → s.poisoned (flat l + j) 1 = false ∧ s.unreachable (flat l + j) = false) →
          (∀ l, l < 8 → e.g.pastAt e.g.work.nextId l (flat l) 16 = none) →
          let bs := (List.range 8).flatMap fun l => (s.readNear e.gk ((List.range 8).map fun k => (flat k, 16))).coreBytes e.gk (flat l) 16
          descLegal bs = true → EndsIn (.tdld d a i) s fun t => slot t d.toNat bs
            ∧ t = { s with gangs := t.gangs, groups := t.groups, tlb := t.tlb, parts := t.parts, free := t.free, veils := t.veils })
    ∧ (Issues s (.tdst d a i) e →
        (find (s.group grp).td d.toNat = none → format (.tdst d a i) 20)
        ∧ ∀ (bs : List Byte) (flat : Nat → Nat), find (s.group grp).td d.toNat = some bs → bs.length = 128 → va % 16 = 0 →
            e.g.work.stores = [] →
            (∀ l, l < 8 → ∃ f, s.laneAt e.gk x 1 true ((va + 16 * l) % 2 ^ 64) = .ok f) →
            (∀ p ∈ segments va 128, s.laneAt e.gk { x with size := p.2, align := 1 } 1 true p.1 = .ok (flat p.1)
              ∧ s.poisoned (flat p.1) p.2 = false ∧ s.unreachable (flat p.1) = false) →
            (linked ∨ ∀ p ∈ segments va 128, isHost (flat p.1) = false) →
            ((∀ p ∈ segments va 128, peerOf (flat p.1) = none) ∨ e.flits ≠ [] ∧ s.answered e.flits = true) →
            (∀ x ∈ s.halves, ∀ p ∈ segments va 128, overlaps (flat p.1) p.2 x.flat x.bytes.length = false) →
            (∀ p ∈ segments va 128, ∀ q ∈ segments va 128, p ≠ q → flat p.1 + p.2 ≤ flat q.1 ∨ flat q.1 + q.2 ≤ flat p.1) →
            EndsIn (.tdst d a i) s fun t =>
              t = { s with gangs := t.gangs, cores := t.cores, mem := t.mem, inked := t.inked, poison := t.poison, veils := t.veils
                           rereads := t.rereads, parts := t.parts, free := t.free }
              ∧ Retires s t e ∧ KeepsRegs s t e.gk ∧ (s.core e.g.core).fills < (t.gang e.gk).since
              ∧ (∀ p ∈ segments va 128, ∀ j, j < p.2 → some (t.byte (flat p.1 + j)) = bs[p.1 - va + j]?)
              ∧ ∀ k, (∀ p ∈ segments va 128, k < flat p.1 ∨ flat p.1 + p.2 ≤ k) → t.byte k = s.byte k)
    ∧ (Issues s (.axperm d a) e →
        (find (s.group grp).td d.toNat = none → format (.axperm d a) 20)
        ∧ ∀ bs, find (s.group grp).td d.toNat = some bs → descLegal bs = true →
            let D := descOf bs
            (permOf (e.low a) D.rank = none → format (.axperm d a) 19)
            ∧ ∀ q, permOf (e.low a) D.rank = some q → EndsIn (.axperm d a) s fun t =>
                ∃ bs', slot t d.toNat bs' ∧ (descOf bs').rank = D.rank ∧ (descOf bs').type = D.type ∧ (descOf bs').base = D.base
                  ∧ ∀ (k ax : Nat), q[k]? = some ax → (descOf bs').stride[k]? = D.stride[ax]? ∧ (descOf bs').ext[k]? = D.ext[ax]?
                      ∧ (descOf bs').map[k]? = D.map[ax]?)
    ∧ (Issues s (.axset a b) e → ∀ k ax bs pr st p0, ctlOf (e.low a) false = some (some (k, ax)) → find (s.group grp).td k = some bs →
        descLegal bs = true → ax < (descOf bs).rank → (descOf bs).map[ax]? = some (.inline pr st p0) →
        let E := e.entry b
        E.valid = true → E.lstart = 0 → E.len = nth (descOf bs).ext ax → E.remote = false → E.spec = false → E.ro = false →
        EndsIn (.axset a b) s fun t => ∃ bs', slot t k bs' ∧ (descOf bs').map[ax]? = some (.inline E.present E.step E.pstart)
          ∧ (descOf bs').ext = (descOf bs).ext ∧ (descOf bs').stride = (descOf bs).stride
          ∧ ∀ j, j ≠ ax → (descOf bs').map[j]? = (descOf bs).map[j]?)

/-- AXSET, AXINS and AXDEL on an axis with a table rewrite the table at its home: the entries become those of the edit, the header
counts them and the slot's extent moves with them; no byte outside the table and no other slot changes (12 R282, R293, R294). -/
def Obligations.EditsRewriteTheTable : Prop :=
  ∀ (s : State) (e : Issue) (a b : BitVec 6) (i : Instr) (ed : Nat → Edit) (k ax va h : Nat) (ro : Bool) (bs : List Byte)
      (es : List AxEnt) (flat : Nat → Nat),
    let grp := e.g.group
    let E := e.entry b
    let D := descOf bs
    (i = .axset a b ∧ ed = editSet E ∨ i = .axins a b ∧ ed = editIns E ∨ i = .axdel a b ∧ ed = editDel E.lstart E.len) →
    Issues s i e → e.act ≠ 0 → ctlOf (e.low a) false = some (some (k, ax)) → find (s.group grp).td k = some bs →
    descLegal bs = true → ax < D.rank → D.map[ax]? = some (.table va) → s.olderStore e.gk false [(0, 2 ^ 64)] = false →
    s.xlate e.g.core (s.ctxOf e.g) va 16 true = .ok h ro → isHbm h = true → headCount (s.bytes h 16) = .ok es.length →
    s.tableEntries (coreWalker e.g.core (s.ctxOf e.g)) va es.length = .ok es →
    let X := nth D.ext ax
    let es' := (ed X).table es
    (ed X).legal = true → (∀ x ∈ es', x.lstart + x.len ≤ 2 ^ 32) → es'.length ≤ s.num (h + 4) 4 →
    (∀ j, j < es'.length → ∃ r, s.xlate e.g.core (s.ctxOf e.g) (va + 16 + 16 * j) 16 true = .ok (flat j) r) →
    (∀ j, j < es'.length → isHbm (flat j) = true ∧ s.poisoned (flat j) 16 = false ∧ (flat j + 16 ≤ h ∨ h + 4 ≤ flat j)) →
    s.poisoned h 16 = false →
    (∀ j l, j < es'.length → l < es'.length → j ≠ l → flat j + 16 ≤ flat l ∨ flat l + 16 ≤ flat j) →
    EndsIn i s fun t =>
      t = { s with gangs := t.gangs, groups := t.groups, mem := t.mem, inked := t.inked, poison := t.poison, veils := t.veils
                   rereads := t.rereads, parts := t.parts, free := t.free }
      ∧ Retires s t e ∧ KeepsRegs s t e.gk ∧ (s.core e.g.core).fills < (t.gang e.gk).since
      ∧ t.num h 4 = es'.length ∧ (∀ j x, es'[j]? = some x → t.bytes (flat j) 16 = x.bytes)
      ∧ (∀ c, (c < h ∨ h + 4 ≤ c) → (∀ j, j < es'.length → c < flat j ∨ flat j + 16 ≤ c) → t.byte c = s.byte c)
      ∧ (∀ j, j ≠ k → find (t.group grp).td j = find (s.group grp).td j)
      ∧ ∃ bs', find (t.group grp).td k = some bs' ∧ nth (descOf bs').ext ax = (ed X).ext ∧ (descOf bs').map = D.map
          ∧ (descOf bs').stride = D.stride ∧ ∀ j, j ≠ ax → nth (descOf bs').ext j = nth D.ext j

/-- TLD delivers the elements that its lanes' coordinates reach, TST queues a store of its lanes' values there, AXQRY tells what an
axis makes of an index, AXINV starts the removal of cached entries and AXFENCE waits for it (12 R285, R296, R297, R299 to
R303). Here with every lane's coordinates translated to an address (none clipped, none failing); under MODE.dfr a TLD may translate
and read after its issue (log entry 27, DEDUCED). -/
def Obligations.GatherScatterAndQuery : Prop :=
  ∀ (s : State) (e : Issue) (d a b : BitVec 6), e.act ≠ 0 →
    let grp := e.g.group
    let only (t : State) : Prop := OnlyGang s t e.gk ∧ SameMemory s t ∧ Retires s t e ∧ KeepsRegs s t e.gk
    (∀ (bs : List Byte) (va nib : Nat → Nat) (sp : Nat → Bool) (flat : Nat → Nat), find (s.group grp).td a.toNat = some bs →
      let D := descOf bs
      let n := elemBytes D.type
      let regs := if n = 8 then [d.toNat, d.toNat + 1] else [d.toNat]
      let x := xAccess n false regs 2 4
      let lanes := (lanesOf e.act).map fun l => (l, TLane.at_ (va l) (nib l) (sp l))
      let ads := (lanesOf e.act).map fun l => (l, va l)
      let walked (u : State) (wr : Bool) := u.tlanes e.gk e.mode e.act e.g.readV D a.toNat b.toNat wr
      let u := if e.late then s.tick1 else s
      (Issues s (.tld d a b) e → (walked u false).1 = lanes → e.g.work.stores = [] → e.g.unread e.g.work.nextId = false → s.crossbarOk e.gk x = true →
        (∀ l, has e.act l = true → ((walked u false).2.warm e.gk x ads).laneAt e.gk x 0 true (va l) = .ok (flat l)) →
        ((s.part (s.partOf e.g)).linked = true ∨ ∀ l, has e.act l = true → isHost (flat l) = false) →
        Answered s e.flits e.act flat → Sound s e x flat → (∀ l, has e.act l = true → e.g.pastAt e.g.work.nextId l (flat l) n = none) →
        let word (l k : Nat) : W32 := let w := x.word (e.seen s x false flat l) k
          if D.type = 14 then w32 (w.toNat / 16 ^ nib l % 16) else w
        EndsIn (.tld d a b) s fun t => SameMemory s t ∧ Retires s t e ∧ t.groups = s.groups ∧ t.links = s.links
          ∧ (∀ k, k ≠ e.gk → t.gang k = s.gang k) ∧ (t.gang e.gk).sys = e.g.sys
          ∧ (e.late = false → WritesV (s.gang e.gk) (t.gang e.gk) e.act regs word)
          ∧ (e.late = true → (∀ l k, l < 32 → (t.gang e.gk).readV l k = e.g.readV l k)
              ∧ (t.gang e.gk).counts.loads = e.g.counts.loads + 1))
      ∧ (Issues s (.tst d a b) e → (walked s true).1 = lanes → (e.g.slice (e.ss.headD 0)).reexec = none →
        ∀ y, accessOf e.mode (tstInstr D.type (.tst d a b)) = some y →
        (∀ l, has e.act l = true → ((walked s true).2.warm e.gk y ads).laneAt e.gk y 1 true (va l) = .ok (flat l)) →
        EndsIn (.tst d a b) s fun t => SameMemory s t ∧ Retires s t e ∧ KeepsRegs s t e.gk ∧ t.groups = s.groups
          ∧ (∀ k, k ≠ e.gk → t.gang k = s.gang k)
          ∧ (t.gang e.gk).counts = { e.g.counts with stores := e.g.counts.stores + 1 }
          ∧ ∃ q, (t.gang e.gk).work.stores = e.g.work.stores ++ [q] ∧ q.entry.lanes = e.act ∧ q.entry.waits = [] ∧ q.fault = none
            ∧ ∀ l, has e.act l = true → y.addr (q.entry.readV l) = va l ∧ q.entry.readV l 0 = e.g.readV l d.toNat
                ∧ (n = 8 → q.entry.readV l 1 = e.g.readV l (d.toNat + 1))))
    ∧ (Issues s (.axqry d a b) e → ∀ bs, find (s.group grp).td a.toNat = some bs →
        let D := descOf bs
        EndsIn (.axqry d a b) s fun t => t = { s with gangs := t.gangs, axis := t.axis, free := t.free } ∧ SameMemory s t ∧ Retires s t e
          ∧ (∀ k, k ≠ e.gk → t.gang k = s.gang k)
          ∧ (∀ l k, l < 32 → ¬ (has e.act l = true ∧ (k = d.toNat ∨ k = d.toNat + 1)) → (t.gang e.gk).readV l k = e.g.readV l k)
          ∧ ∀ l, has e.act l = true →
            let y := (e.g.readV l b.toNat).toNat
            let ax := (e.g.readV l (b.toNat + 1)).toNat
            (D.rank ≤ ax ∨ nth D.ext ax ≤ y → (t.gang e.gk).readPair l d.toNat = w64 (2 ^ 53))
            ∧ ∀ pr st p0, ax < D.rank → y < nth D.ext ax → D.map[ax]? = some (.inline pr st p0) →
              (t.gang e.gk).readPair l d.toNat
                = w64 (qryWord { lstart := 0, len := nth D.ext ax, pstart := p0, flags := st + b2n pr * 4 } y pr))
    ∧ (∀ i scope item, (i = .axinvCore a ∧ scope = 0 ∨ i = .axinvCns a ∧ scope = 1 ∨ i = .axinvDev a ∧ scope = 2) → Issues s i e →
        (ctlOf (e.low a) true = some none ∧ item = none ∨ ∃ k ax bs va, ctlOf (e.low a) true = some (some (k, ax))
          ∧ find (s.group grp).td k = some bs ∧ ax < (descOf bs).rank ∧ (descOf bs).map[ax]? = some (.table va) ∧ item = some va) →
        EndsIn i s fun t => only t ∧ (t.gang e.gk).axinv = e.g.axinv ++ [(scope, item)])
    ∧ (Issues s .axfence e → (e.g.fenced = true → EndsIn .axfence s only)
        ∧ (e.g.fenced = false → EndsIn .axfence s fun t => StandsStill s t e))

/-! ### H. The matrix unit -/

/-- OBRES makes a reservation record of its two pairs where they are legal, OBREL removes one, OBLD starts a copy into a reservation,
MLDS queues the load of a slab into the plane not in use, and MSWAP takes its place in the queue, from which on commands name the
planes exchanged, and goes on once those before it are done (09 R183, R188 to R190, R193, R194). -/
def Obligations.ReservationsAndPlanes : Prop :=
  ∀ (s : State) (e : Issue) (d a b : BitVec 6) (i : BitVec 12), e.act ≠ 0 →
    let grp := e.g.group
    let core := s.core e.g.core
    let frame (t : State) : Prop := SameMemory s t ∧ Retires s t e ∧ KeepsRegs s t e.gk ∧ (∀ k, k ≠ e.gk → t.gang k = s.gang k)
    let recs (t : State) (k : Nat) (o : Option OdRec) : Prop := frame t ∧ t = { s with gangs := t.gangs, groups := t.groups }
      ∧ find (t.group grp).od k = o ∧ (∀ j, j ≠ k → find (t.group grp).od j = find (s.group grp).od j)
    let waits (q : QCmd) : Prop := (∀ bs, q.cmd ≠ .mzero bs) ∧ ∀ t, q.cmd ≠ .mswap t
    let G := (e.g.readPair (lowest e.act) a.toNat).toNat
    let F := (e.g.readPair (lowest e.act) b.toNat).toNat
    (Issues s (.obres d a b) e →
        (∀ o, obRecord G F = some o → EndsIn (.obres d a b) s fun t => recs t d.toNat (some o))
        ∧ (obRecord G F = none → TrapsWith (.obres d a b) s e 0x2A (w64 (pcAddr e.pc + 2 * 2 ^ 56))))
    ∧ (Issues s (.obrel a) e → EndsIn (.obrel a) s fun t => recs t a.toNat none)
    ∧ (Issues s (.obld d a i) e → ∀ o ps, find (s.group grp).od d.toNat = some o →
        let n := if i.toNat = 0 then o.len else i.toNat
        n ≤ o.len → G % 64 = 0 →
        ((segments G (64 * n)).mapM fun (p : Nat × Nat) => match s.xlate e.g.core (s.ctxOf e.g) p.1 p.2 false with
          | .ok pa _ => some (pa, p.2)
          | _ => none) = some ps →
        EndsIn (.obld d a i) s fun t => frame t ∧ t = { s with gangs := t.gangs, oblds := t.oblds }
          ∧ (t.gang e.gk).counts = { e.g.counts with copies := e.g.counts.copies + 1 }
          ∧ ∃ k, find t.oblds k = some { gang := e.gk, core := e.g.core, base := o.base * 64, src := ps }
              ∧ ∀ j, j ≠ k → find t.oblds j = find s.oblds j)
    ∧ (Issues s (.mlds a b) e → s.arrayRoom e 1 = true → ∀ o, find (s.group grp).od a.toNat = some o → e.low b < 65536 → o.layout = 1 →
        o.holds 31 (e.low b) o.depth = true →
        EndsIn (.mlds a b) s fun t => frame t
          ∧ t = { s with gangs := t.gangs, cores := t.cores, rereads := t.rereads }
          ∧ (t.gang e.gk).counts = { e.g.counts with tiles := e.g.counts.tiles + 1 }
          ∧ ∃ q, (t.core e.g.core).array.getLast? = some q ∧ q.gang = e.gk ∧ q.group = grp
              ∧ q.cmd = .mlds o (e.low b) (1 - core.nextActive))
    ∧ (Issues s .mswap e → e.swapOf = none →
        (s.arrayRoom e 1 = true → core.array = [] → EndsIn .mswap s fun t => frame t
          ∧ t = { s with gangs := t.gangs, cores := t.cores, rereads := t.rereads, free := t.free }
          ∧ t.core e.g.core = { core with
              active := 1 - core.active, nextActive := 1 - core.nextActive, words := put core.words e.gk (core.bandWord e.gk) })
        ∧ (s.arrayRoom e 1 = true → ∀ q r, core.array = q :: r → waits q → EndsIn .mswap s fun t => SameMemory s t ∧ KeepsRegs s t e.gk
          ∧ (∀ i, ((t.gang e.gk).slice i).pc = ((s.gang e.gk).slice i).pc)
          ∧ (t.core e.g.core).active = core.active ∧ (t.core e.g.core).nextActive = 1 - core.nextActive
          ∧ ∃ x n, (t.core e.g.core).array = core.array ++ [x] ∧ x.gang = e.gk ∧ x.cmd = .mswap n)
        ∧ (s.arrayRoom e 1 = false → EndsIn .mswap s fun t => StandsStill s t e))
    ∧ (Issues s .mswap e → ∀ n, e.swapOf = some n →
        (core.swapQueued n = true → EndsIn .mswap s fun t => StandsStill s t e)
        ∧ (core.swapQueued n = false → EndsIn .mswap s fun t => frame t ∧ OnlyGang s t e.gk))

/-- MZERO claims a band for each quarter with an active lane and zeroes it, MSTR and MSTR.P queue a pass of each such quarter, MDRN a
drain, MPARK answers the state word and gives up the gang's bands, MUNPARK claims them again, and MSTAT answers the state
word as the gang's latest command left it, or the unit's (09 R182, R183, R195 to R197, R202 to R207). A queued command counts as a
tile operation, and a request holds its band's kind from its acceptance on (09 R198). -/
def Obligations.BandsPassesAndDrains : Prop :=
  ∀ (s : State) (e : Issue) (d a b c : BitVec 6) (i : BitVec 12), e.act ≠ 0 →
    let grp := e.g.group
    let core := s.core e.g.core
    let band (t : State) (k : Nat) := (t.core e.g.core).band k
    let frame (t : State) : Prop := SameMemory s t ∧ Retires s t e ∧ (∀ k, k ≠ e.gk → t.gang k = s.gang k)
      ∧ ∀ k, k ≠ e.g.core → t.core k = s.core k
    let counted (t : State) : Prop := (t.gang e.gk).counts = { e.g.counts with tiles := e.g.counts.tiles + 1 }
    let queued (t : State) (p : QCmd → Prop) : Prop := ∃ q ∈ (t.core e.g.core).array, q.gang = e.gk ∧ q.group = grp ∧ p q
    let claims (bs : List Nat) : Prop := core.bandsFree e.gk bs = true
      ∧ s.olderClaim e.g.core (((e.g.slice (e.ss.headD 0)).bandWait.map (·.2)).getD s.clock) = false
    let pass (ins : Instr) (port : Bool) (row slab : Nat → Nat) : Prop := Issues s ins e → s.arrayRoom e e.quarters.length = true →
      ∀ o, find (s.group grp).od a.toNat = some o → (port = true → o.fmt ≠ 15 ∧ o.scaled = false) →
      (∀ q ∈ e.quarters, s.passReason e o port q (row q) (slab q) = none) →
      EndsIn ins s fun t => frame t ∧ KeepsRegs s t e.gk ∧ counted t
        ∧ ∃ x ∈ (t.core e.g.core).array, x.gang = e.gk ∧ ∃ rs, x.cmd = .pass a.toNat core.nextActive rs
          ∧ ∀ q ∈ e.quarters, ∃ r ∈ rs, r.q = q ∧ core.bound e.gk q = some r.band ∧ r.lanes = e.act &&& quarterMask q ∧ r.od = o
              ∧ r.row = row q ∧ r.slab = slab q ∧ r.port = port ∧ r.kind = (core.band r.band).kind
    (Issues s (.mzero a) e → core.bands.length = 4 → s.arrayRoom e 1 = true → (∀ q ∈ e.quarters, e.qlow q a < 64
          ∧ bits (e.qlow q a) 2 2 = 0 ∧ bits (e.qlow q a) 4 2 ≠ 3) →
        (e.quarters.map fun q => e.qlow q a % 4).Nodup → claims (e.quarters.map fun q => e.qlow q a % 4) →
        EndsIn (.mzero a) s fun t => frame t ∧ KeepsRegs s t e.gk ∧ (t.gang e.gk).counts = e.g.counts
          ∧ ∀ q ∈ e.quarters, let x := band t (e.qlow q a % 4)
              x.owner = some e.gk ∧ x.bind = some q ∧ x.kind = bits (e.qlow q a) 4 2 ∧ x.inUse = true ∧ x.dirty = true
              ∧ (core.array = [] → x.acc = [] ∧ x.faulted = false))
    ∧ pass (.mstr a b) false (fun q => e.qlow q b % 65536) (fun q => e.qlow q b / 65536)
    ∧ pass (.mstrP a) true (fun _ => 0) (fun _ => 0)
    ∧ (Issues s (.mdrn d a b c) e → s.arrayRoom e e.quarters.length = true → mRnd e.mode < 5 →
        (∀ q ∈ e.quarters, ∃ k, core.bound e.gk q = some k ∧ k < 4
          ∧ drainLegal (e.qlow q a) (e.qlow q c) c.toNat (core.band k).kind e.g.fanSet = true ∧ bit (e.qlow q a) 8 = false
          ∧ s.drainFault e { q := q, ctl := e.qlow q a, cw := e.qlow q c, sa := e.qlow q d, band := k, kind := (core.band k).kind } = none) →
        EndsIn (.mdrn d a b c) s fun t => frame t ∧ KeepsRegs s t e.gk ∧ counted t
          ∧ ∀ q ∈ e.quarters, queued t fun x => ∃ r, x.cmd = .drain r ∧ r.q = q ∧ core.bound e.gk q = some r.band
              ∧ r.lanes = e.act &&& quarterMask q ∧ r.addr = e.qlow q d ∧ r.ctl = e.qlow q a ∧ r.mode = e.mode)
    ∧ (Issues s (.mpark d a) e → core.bands.length = 4 → s.arrayRoom e 1 = true →
        let mine := those 4 fun k => (core.band k).owner == some e.gk
        let stride := parkStride (mine.map fun k => (core.band k).kind)
        s.parkLegal grp (e.low a) stride = true → EndsIn (.mpark d a) s fun t => frame t ∧ counted t
          ∧ WritesV (s.gang e.gk) (t.gang e.gk) e.act [d.toNat] (fun _ _ => w32 (core.bandWord e.gk))
          ∧ (∀ k, k < 4 → (band t k).owner ≠ some e.gk)
          ∧ queued t fun x => x.cmd = .park (e.low a) (mine.map fun k => (k, (core.band k).kind)) stride)
    ∧ (Issues s (.munpark a b) e → core.bands.length = 4 → s.arrayRoom e 1 = true →
        let w := e.low b
        let want := those 4 fun k => bit (stateByte w k) 0
        let stride := parkStride (want.map fun k => bits (stateByte w k) 1 2)
        (∀ k, k < 4 → if bit (stateByte w k) 0 then bits (stateByte w k) 1 2 ≠ 3 else stateByte w k = 0) →
        s.parkLegal grp (e.low a) stride = true → claims want → EndsIn (.munpark a b) s fun t => frame t ∧ KeepsRegs s t e.gk ∧ counted t
          ∧ (∀ k ∈ want, (band t k).owner = some e.gk ∧ (band t k).kind = bits (stateByte w k) 1 2 ∧ (band t k).inUse = true)
          ∧ queued t fun x => ∃ bs, x.cmd = .unpark (e.low a) bs stride ∧ bs.map Prod.fst = want)
    ∧ (Issues s (.mstat d i) e → i.toNat < 2 → EndsIn (.mstat d i) s fun t => OnlyGang s t e.gk
        ∧ Answers s t e d (if i.toNat = 0 then get 0 core.words e.gk else core.matrixWord e.gk))

/-- CRED.ADD, CRED.MAX, CRED.MIN and CRED.SMERGE take their words from the reduction unit's input as the group's contribution to
its next round, with the operation, the count and where the result goes; too few words there make it stand still (09 R209,
R210). -/
def Obligations.ReductionContributions : Prop :=
  ∀ (s : State) (e : Issue) (d a : BitVec 6) (i : Instr) (op dst : Nat), e.act ≠ 0 →
    (i = .credAdd d a ∧ op = 0 ∨ i = .credMax d a ∧ op = 1 ∨ i = .credMin d a ∧ op = 2 ∨ i = .credSmerge d a ∧ op = 3) →
    let grp := e.g.group
    let g := s.group grp
    let n := e.low a
    let k := if op = 3 then 34 * n else n
    let rounds (t : State) := get [] t.rounds (s.roundHome grp)
    Issues s i e → 1 ≤ n → n ≤ (if op = 3 then 32 else 1088) → s.localAt grp 4 (4 * k) (e.low d) = .ok dst →
    (∀ x, (rounds s).find? (fun x => x.number == g.cruRound) = some x → x.op = op ∧ x.n = n) →
    (k ≤ g.cru.length → EndsIn i s fun t => t = { s with gangs := t.gangs, groups := t.groups, rounds := t.rounds } ∧ SameMemory s t
        ∧ Retires s t e ∧ (∀ j, j ≠ grp → t.group j = s.group j)
        ∧ KeepsRegs s t e.gk ∧ (t.group grp).cru = g.cru.drop k ∧ (t.group grp).cruRound = g.cruRound + 1
        ∧ ∃ r ∈ rounds t, r.number = g.cruRound ∧ r.op = op ∧ r.n = n
          ∧ find r.parts g.pos = some { gang := e.gk, group := grp, dst := dst, words := (g.cru.take k).map (·.toNat) })
    ∧ (g.cru.length < k → EndsIn i s fun t => StandsStill s t e)

/-! ### I. Launches -/

/-- LQSTAT answers a queue's word; LQPUSH answers why it pushed nothing, or copies the record into the slot of the index that
prod names, with its own seq and status 0, advances prod and answers the index; EXITC ends its lanes and leaves the addition for
the group's end; LQCANCEL answers what it found and ends a launch that has not ended (16 R360 to R364). -/
def Obligations.LaunchInstructions : Prop :=
  ∀ (s : State) (e : Issue) (d a b q : BitVec 6) (sel : BitVec 2), e.act ≠ 0 →
    let p := s.partOf e.g
    let k := s.queue p q.toNat
    let only (t : State) : Prop := OnlyGang s t e.gk ∧ SameMemory s t
    let ans (i : Instr) (x : Nat) : Prop := EndsIn i s fun t => only t ∧ Answers s t e d x
    (Issues s (.lqstat d sel q) e → ans (.lqstat d sel q)
        (if k.bound = true ∧ k.on = true then
          if sel = 0 then 2 ^ 31 + k.prio * 2 ^ 28 + k.lsize * 2 ^ 12 else if sel = 1 then k.cons else if sel = 2 then k.prod else k.dispatch
        else 0))
    ∧ (Issues s (.lqpush d a q) e → ∀ flat grp off, e.low a % 64 = 0 → s.localRange e.g.group (e.low a) 128 = .at_ flat grp off →
        off < 0x180000 →
        (¬ (k.bound = true ∧ k.on = true) → ans (.lqpush d a q) 0x80000002)
        ∧ (k.bound = true → k.on = true → (e.g.counts.loads ≠ 0 ∨ e.g.counts.stores ≠ 0) →
            EndsIn (.lqpush d a q) s fun t => StandsStill s t e)
        ∧ ∀ h, k.bound = true → k.on = true → e.g.counts.loads = 0 → e.g.counts.stores = 0 → k.fault = none → k.hfault = none →
            s.lnPlaces k.ctx k.header 8 true = .ok [(h, 8)] → (isHost h = true → (s.part p).linked = true) → s.poisoned h 8 = false →
            let i := s.num h 4
            (∀ hb, 2 ^ k.lsize ≤ ahead k.cons i → s.lnRead p k.ctx k.header 64 = .got hb → EndsIn (.lqpush d a q) s fun t =>
              t = { s with gangs := t.gangs, queues := t.queues, parts := t.parts, free := t.free } ∧ SameMemory s t
              ∧ Answers s t e d 0x80000001 ∧ (∀ g, g ≠ e.gk → t.gang g = s.gang g)
              ∧ (t.queue p q.toNat).prod = fromBytes (hb.take 4))
            ∧ ∀ f hb, ahead k.cons i < 2 ^ k.lsize → s.lnPlaces k.ctx (k.slotVa i) 128 true = .ok [(f, 128)] →
                (isHost f = true → (s.part p).linked = true) → s.poisoned f 128 = false → (flat + 128 ≤ h ∨ h + 8 ≤ flat) → (f + 128 ≤ h ∨ h + 8 ≤ f) →
                let v := s.storesSeen e.gk
                ((v.setNum h 4 ((i + 1) % 2 ^ 32)).pushRecord e.gk flat i [(f, 128)]).lnRead p k.ctx k.header 64 = .got hb →
                EndsIn (.lqpush d a q) s fun t =>
                  t = { s with gangs := t.gangs, queues := t.queues, mem := t.mem, inked := t.inked, poison := t.poison, veils := t.veils
                               rereads := t.rereads, parts := t.parts, free := t.free }
                  ∧ Answers s t e d i ∧ (∀ g, g ≠ e.gk → t.gang g = s.gang g)
                  ∧ t.num h 4 = (i + 1) % 2 ^ 32 ∧ t.num (f + 0x60) 4 = i ∧ t.num (f + 0x70) 4 = 0
                  ∧ (∀ j, j < 128 → ¬ (0x60 ≤ j ∧ j < 0x64) → ¬ (0x70 ≤ j ∧ j < 0x74) → t.byte (f + j) = v.coreByte e.gk (flat + j))
                  ∧ (∀ c, (c < h ∨ h + 4 ≤ c) → (c < f ∨ f + 128 ≤ c) → t.byte c = s.byte c)
                  ∧ (t.queue p q.toNat).prod = fromBytes (hb.take 4)
                  ∧ ∀ p' q', q' < 64 → ¬ (p' = p ∧ q' = q.toNat) → t.queue p' q' = s.queue p' q')
    ∧ (Issues s (.exitc a b) e → e.g.residualCount = 0 → e.g.work.faulted = none →
        let va := (e.g.readPair (lowest e.act) a.toNat).toNat
        (e.g.exitc ≠ none → TrapsWith (.exitc a b) s e 0x02 (opAux 1 a.toNat))
        ∧ ∀ pa ro, e.g.exitc = none → va % 8 = 0 → s.xlate e.g.core (s.ctxOf e.g) va 8 true = .ok pa ro → EndsIn (.exitc a b) s fun t =>
            t = { s with gangs := t.gangs, tlb := t.tlb } ∧ (∀ g, g ≠ e.gk → t.gang g = s.gang g) ∧ SameMemory s t ∧ KeepsRegs s t e.gk
            ∧ (t.gang e.gk).exitc = some (va, (e.g.readV (lowest e.act) b.toNat).toNat)
            ∧ (t.gang e.gk).exited = e.g.exited ||| e.path)
    ∧ (Issues s (.lqcancel d a b) e →
        let w := e.low a
        let i := e.low b
        let k := s.queue p w
        (w = 0xFFFFFFFF → e.g.level = 1 → EndsIn (.lqcancel d a b) s fun t =>
            WritesV (s.gang e.gk) (t.gang e.gk) e.act [d.toNat] (fun _ _ => w32 (2 ^ 31
              + (match (s.group e.g.group).launch with | some n => (s.launch n).status | none => 0)))
            ∧ (t.gang e.gk).path = 0 ∧ (t.gang e.gk).exited = e.g.present
            ∧ ∀ g, (s.gang g).group ≠ e.g.group → t.gang g = s.gang g)
        ∧ (¬ (w = 0xFFFFFFFF ∧ e.g.level = 1) →
            (¬ (w < 64 ∧ k.bound = true ∧ k.on = true ∧ ahead k.cons i < ahead k.cons k.prod) → ans (.lqcancel d a b) (2 ^ 30))
            ∧ (w < 64 → k.bound = true → k.on = true → ahead k.cons i < ahead k.cons k.prod →
                let its (l : Launch) : Bool := l.part == p && l.queue == w && l.slot == i && !l.detached
                (∀ n l, s.launches.find? (fun x => its x.2) = some (n, l) →
                  (3 ≤ l.status → ans (.lqcancel d a b) (l.status % 8))
                  ∧ (l.status < 3 → s.launch n = l → EndsIn (.lqcancel d a b) s fun t => Answers s t e d (2 ^ 31 + l.status)
                      ∧ (l.finished < l.placed → l.closing = none → (t.launch n).ending = some (5, 0) ∧ (t.launch n).status < 3)))
                ∧ (s.launches.find? (fun x => its x.2) = none → k.fault = none → k.hfault = none → ∀ bs, s.lnRead p k.ctx (k.slotVa i) 128 = .got bs →
                    let seq := fromBytes ((bs.drop 0x60).take 4)
                    let st := fromBytes ((bs.drop 0x70).take 4)
                    (seq ≠ i → ans (.lqcancel d a b) (2 ^ 30))
                    ∧ (seq = i → ∀ c, s.recordCount p k.ctx (launchOf p w i k.ctx (k.slotVa i) bs) bs = .got c →
                        EndsIn (.lqcancel d a b) s fun t => Answers s t e d (2 ^ 31 + st % 8)
                        ∧ ∀ x ∈ t.launches, its x.2 = true → x.2.ending = some (5, 0))))))

/-! ### J. The supervisor -/

/-- SWR gives each writable system register its new value and nothing else: control registers take the writable bits, sticky
registers lose the bits that are written as ones, frame registers take the word; wdepth moves the window where the depth is
legal for every slice of the cohort and is illegal-operand elsewhere (18 R393; 01 R36, R37). -/
def Obligations.SystemRegisterWrites : Prop :=
  ∀ (s : State) (e : Issue) (d a : BitVec 6), Issues s (.swr d a) e →
    let g := s.gang e.gk
    let p := s.partOf e.g
    let n := d.toNat
    let v : W64 := if n = 19 ∨ n = 20 ∨ n = 25 ∨ n = 27 then e.g.readPair (lowest e.act) a.toNat
      else (e.g.readV (lowest e.act) a.toNat).setWidth 64
    let w : W32 := v.setWidth 32
    let x := g.sys
    let f := g.frame
    let fits : Prop := v.toNat % 32 = 0 ∧ ∀ i ∈ e.ss, (e.g.slice i).low ≤ v.toNat ∧ v.toNat + 48 ≤ (s.group e.g.group).ring + (e.g.slice i).low
    (n ≠ 10 → n ≠ 8 → EndsIn (.swr d a) s fun t =>
        t = { s with gangs := t.gangs, parts := t.parts, cores := t.cores } ∧ SameMemory s t ∧ Retires s t e
        ∧ (∀ k, k ≠ e.gk → t.gang k = s.gang k)
        ∧ t.gang e.gk = { g with
            slices := (t.gang e.gk).slices, sched := (t.gang e.gk).sched
            sys := if n = 16 then { x with fpctl := w &&& 0x1F#32 } else if n = 17 then { x with fpflags := x.fpflags &&& ~~~w }
              else if n = 18 then { x with gflags := x.gflags &&& ~~~w } else if n = 19 then { x with utvec := v }
              else if n = 32 then { x with rlost := x.rlost &&& ~~~w }
              else if n = 33 then { x with parks := if w >>> 16 = 0 then x.parks else 0, high := if bits w.toNat 8 6 = 0 then x.high else 0 }
              else x
            frame := if n = 24 then { f with tmask := w } else if n = 25 then { f with tpc := v }
              else if n = 26 then { f with tcause := w &&& 0x3FF#32 } else if n = 27 then { f with taux := v }
              else if n = 28 then { f with tdone := w } else if n = 29 then { f with tmode := w } else f }
        ∧ (∀ q, ¬ (n = 20 ∧ q = p) → t.part q = s.part q)
        ∧ (n = 20 → t.part p = { s.part p with stvec := v, stvecOld := (t.part p).stvecOld }
            ∧ (s.clock, (s.part p).stvec) ∈ (t.part p).stvecOld)
        ∧ (∀ c, ¬ (n = 34 ∧ c = e.g.core) → t.core c = s.core c)
        ∧ (n = 34 → t.core e.g.core = { s.core e.g.core with
            backoff := if 1 ≤ w.toNat % 2048 ∧ w.toNat % 2048 ≤ 1024 then w.toNat % 2048 else 1024 }))
    ∧ (n = 10 → fits → EndsIn (.swr d a) s fun t => Steers s t e.gk ∧ SameMemory s t
        ∧ ∀ i, i < g.slices.length → (t.gang e.gk).slice i
            = if e.ss.contains i then { (g.slice i) with base := v.toNat }.advance s.clock else g.slice i)
    ∧ (n = 10 → ¬ fits → TrapsWith (.swr d a) s e 0x02 (opAux 1 a.toNat))

/-- SPLV stores the oldest 32 slots of a slice's lanes and FILV brings the 32 below back, each 128 bytes a lane at consecutive
places, and the slice's lowest resident slot moves; TLBINV takes the context's translations from the buffers of its scope;
HALT stops the issuer's context and posts a record of its argument (18 R394, R395, R397, R383). The pcs of that record are those
before HALT has retired (log entry 37, DEDUCED), and a failed context stays failed (log entry 89, DEDUCED). -/
def Obligations.WindowsTranslationsAndHalt : Prop :=
  ∀ (s : State) (e : Issue) (a b : BitVec 6), e.act ≠ 0 →
    let g := s.gang e.gk
    let p := s.partOf e.g
    let base := (e.g.readPair (lowest e.act) a.toNat).toNat
    let i := e.low b
    let low := (e.g.slice i).low
    let frame (t : State) : Prop := t = { s with gangs := t.gangs, cores := t.cores, tlb := t.tlb, parts := t.parts, free := t.free
                                                 chip := t.chip, mem := t.mem, inked := t.inked, poison := t.poison, veils := t.veils
                                                 rereads := t.rereads }
      ∧ ∀ k, k ≠ e.gk → t.gang k = s.gang k
    let moves (wr : Bool) (flat : Nat → Nat) : Prop := i < e.g.nslices ∧ i < g.slices.length ∧ base % 16 = 0 ∧ e.g.work.stores = []
      ∧ s.winPlaces e base wr = .ok ((List.range 4).map fun k => (k, flat k, 128))
      ∧ ((s.part p).linked = true ∨ ∀ k, k < 4 → isHost (flat k) = false)
      ∧ ∀ k, k < 4 → s.poisoned (flat k) 128 = false ∧ ∀ j, j < 128 → s.unreachable (flat k + j) = false
    let window (t : State) (n : Nat) : Prop := ∀ j, ((t.gang e.gk).slice j).base = (g.slice j).base
      ∧ ((t.gang e.gk).slice j).low = if j = i then n else (g.slice j).low
    (Issues s (.splv a b) e → ∀ flat : Nat → Nat, moves true flat →
        (∀ k l, k < 4 → l < 4 → k ≠ l → flat k + 128 ≤ flat l ∨ flat l + 128 ≤ flat k) →
        (∀ x ∈ s.halves, ∀ k, k < 4 → overlaps (flat k) 128 x.flat x.bytes.length = false) →
        EndsIn (.splv a b) s fun t => frame t ∧ KeepsRegs s t e.gk ∧ window t (low + 32)
          ∧ (∀ k j, k < 4 → j < 32 → has e.g.present (4 * i + k) = true →
              t.num (flat k + 4 * j) 4 = (get 0 e.g.regs.vec (slotKey (4 * i + k) (16 + low + j))).toNat)
          ∧ ∀ c, (∀ k, k < 4 → c < flat k ∨ flat k + 128 ≤ c) → t.byte c = s.byte c)
    ∧ (Issues s (.filv a b) e → ∀ flat : Nat → Nat, moves false flat → 32 ≤ low →
        EndsIn (.filv a b) s fun t => frame t ∧ SameMemory s t ∧ window t (low - 32)
          ∧ (∀ l n, l < 32 → get 0 (t.gang e.gk).regs.vec (slotKey l n)
              = if l / 4 = i ∧ has e.g.present l = true ∧ low - 16 ≤ n ∧ n < low + 16 then
                  w32 (s.num (flat (l % 4) + 4 * (n - (low - 16))) 4)
                else get 0 g.regs.vec (slotKey l n))
          ∧ (t.gang e.gk).regs = { g.regs with vec := (t.gang e.gk).regs.vec })
    ∧ (Issues s (.tlbinv a b) e →
        let w := e.low b
        let die := 1024 + e.g.core / 64
        let meant (y : Tlb) : Prop := y.ctx = s.ctxOf e.g ∧ (bit w 4 = true ∨ y.vpn * 65536 / y.size = base / y.size)
        let inScope (u : Nat) : Prop := w % 4 = 0 ∧ u = e.g.core
          ∨ w % 4 = 1 ∧ (u = 1024 + e.g.core / 64 ∨ u / 64 = e.g.core / 64) ∨ w % 4 = 2 ∧ (u < 256 ∨ 1024 ≤ u ∧ u < 1028)
        w % 4 ≠ 3 → bits w 2 2 = 0 → w < 32 →
        (e.g.counts.stores = 0 → EndsIn (.tlbinv a b) s fun t => t = { s with gangs := t.gangs, tlb := t.tlb, veils := t.veils }
          ∧ SameMemory s t ∧ (∀ v ∈ t.veils, v.path = 0 ∧ v.gang = e.gk ∨ e.gk ∈ v.carried → v.shownTo 0)
          ∧ Retires s t e ∧ (∀ k, k ≠ e.gk → t.gang k = s.gang k)
          ∧ t.gang e.gk = { g with slices := (t.gang e.gk).slices, sched := (t.gang e.gk).sched }
          ∧ (∀ u y, ¬ (w % 4 = 0 ∧ u = die) → (y ∈ get [] t.tlb u ↔ y ∈ get [] s.tlb u ∧ ¬ (inScope u ∧ meant y)))
          ∧ (w % 4 = 0 → ∀ y, y ∈ get [] t.tlb die ↔ ∃ x ∈ get [] s.tlb die,
              (meant x → y = { x with stale := e.g.core :: x.stale }) ∧ (¬ meant x → y = x)))
        ∧ (e.g.counts.stores ≠ 0 → EndsIn (.tlbinv a b) s fun t => StandsStill s t e))
    ∧ (Issues s (.halt a) e →
        let x := s.ctxOf e.g
        (s.ctx x).state = .resident → EndsIn (.halt a) s fun t =>
          Posts s t p { kind := 5, ctx := x, gang := some e.gk, addr := e.pc.toNat, detail := e.low a, pcs := e.g.pcs }
          ∧ t.ctx x = { s.ctx x with state := .stopping, halting := true, quietFor := 0 } ∧ (∀ y, y ≠ x → t.ctx y = s.ctx y)
          ∧ KeepsRegs s t e.gk
          ∧ ∀ k y, find s.gangs k = some y → (s.ctxOf y = x → (t.gang k).stopped = true) ∧ (s.ctxOf y ≠ x → t.gang k = y))
    ∧ (Issues s (.halt a) e → (s.ctx (s.ctxOf e.g)).state = .failed → EndsIn (.halt a) s fun t => t.ctxs = s.ctxs
        ∧ KeepsRegs s t e.gk ∧ ∀ k y, find s.gangs k = some y → s.ctxOf y = s.ctxOf e.g → (t.gang k).stopped = true)

/-- QUIESCE, CTXSAVE, CTXLOAD and KEYSEL answer why they do nothing; else QUIESCE stops the context and answers the size of its
image once it stands; CTXSAVE writes the image, frees what the context held and leaves it saved; CTXLOAD places an image that
was taken of the context on free cores and makes it resident; KEYSEL binds the context's save key (18 R396, R383 to R391). The
order of CTXLOAD's refusals (log entry 23, DEDUCED) and of KEYSEL's results (log entry 34, DEDUCED) is the model's reading. -/
def Obligations.ContextsMove : Prop :=
  ∀ (s : State) (e : Issue) (d a b : BitVec 6), e.act ≠ 0 →
    let p := s.partOf e.g
    let x := e.low a
    let c := s.ctx x
    let va := (e.g.readPair (lowest e.act) b.toNat).toNat
    let ans (i : Instr) (n : Nat) : Prop := EndsIn i s fun t => OnlyGang s t e.gk ∧ SameMemory s t ∧ Answers s t e d n
    let foreign : Prop := c.state = .none ∨ c.part ≠ p
    let own : Prop := x = s.ctxOf e.g
    let target (i : Instr) : Prop := (64 ≤ x → TrapsWith i s e 0x02 (opAux 1 a.toNat))
      ∧ (x < 64 → foreign → ans i 0x80000001) ∧ (x < 64 → ¬ foreign → own → ans i 0x80000002)
    let ok : Prop := x < 64 ∧ ¬ foreign ∧ ¬ own
    (Issues s (.quiesce d a) e → target (.quiesce d a) ∧ (ok →
        ((c.state = .resident ∨ c.state = .stopping) → EndsIn (.quiesce d a) s fun t => SameMemory s t ∧ KeepsRegs s t e.gk
            ∧ (t.ctx x).state = .stopping ∧ (∀ y, y ≠ x → t.ctx y = s.ctx y)
            ∧ (∀ i, ((t.gang e.gk).slice i).pc = ((s.gang e.gk).slice i).pc)
            ∧ (c.state = .resident → ∀ k g, find s.gangs k = some g → s.ctxOf g = x → (t.gang k).stopped = true))
        ∧ ((c.state = .quiescent ∨ c.state = .halted) → ans (.quiesce d a) (s.imageUnits x))
        ∧ ((c.state = .saved ∨ c.state = .failed) → ans (.quiesce d a) 0x80000003)))
    ∧ (Issues s (.ctxsave d a b) e → target (.ctxsave d a b) ∧ (ok →
        (c.state ≠ .quiescent → c.state ≠ .halted → ans (.ctxsave d a b) 0x80000003)
        ∧ ((c.state = .quiescent ∨ c.state = .halted) → (c.world ≠ 0 ∧ c.key = none → ans (.ctxsave d a b) 0x80000004)
          ∧ ((c.world = 0 ∨ c.key ≠ none) → va % 4096 = 0 →
            let n := if c.world = 0 then 0 else c.saveS + 1
            let v := s.takeImage x n
            ∀ ps, s.imagePlaces e va (v.stored.length / 4096) true = .ok ps → v.stored.length = 4096 * ps.length →
              ((s.part p).linked = true ∨ ∀ pa ∈ ps, isHost pa = false) →
              (∀ pa ∈ ps, pa + 4096 ≤ 2 ^ 56 ∧ pa % 4096 = 0 ∧ s.unreachable pa = false) → ps.Nodup → rising s.groups = true →
              EndsIn (.ctxsave d a b) s fun t =>
                WritesV (s.gang e.gk) (t.gang e.gk) e.act [d.toNat] (fun _ _ => 0) ∧ Retires s t e
                ∧ (t.ctx x).state = .saved ∧ (t.ctx x).saved = v :: c.saved
                ∧ (c.world ≠ 0 → (t.ctx x).saveS = n ∧ (t.ctx x).expectX = some n)
                ∧ (∀ y, y ≠ x → t.ctx y = s.ctx y)
                ∧ (∀ j pa, ps[j]? = some pa → t.bytes pa 4096 = (v.stored.drop (4096 * j)).take 4096)
                ∧ (∀ y, y < 2 ^ 56 → (∀ pa ∈ ps, y < pa ∨ pa + 4096 ≤ y) → t.byte y = s.byte y)
                ∧ (∀ k g, find t.groups k = some g → g.ctx ≠ x)
                ∧ ∀ k g, find s.gangs k = some g → s.ctxOf g ≠ x → k ≠ e.gk → t.gang k = g))))
    ∧ (Issues s (.ctxload d a b) e → target (.ctxload d a b) ∧ (ok →
        (c.state ≠ .saved → ans (.ctxload d a b) 0x80000003)
        ∧ (c.state = .saved → va % 4096 = 0 → ∀ h bs ps, s.imagePlaces e va 1 false = .ok [h] →
          s.imagePlaces e va (imageLength (s.bytes h 4096)) false = .ok ps → bs = ps.flatMap (fun pa => s.bytes pa 4096) →
          ((s.part p).linked = true ∨ ∀ pa ∈ ps, isHost pa = false) →
          (∀ pa ∈ ps, s.poisoned pa 4096 = false ∧ s.unreachable pa = false) →
          (∀ r, State.checkImage c x bs = .inl r → ans (.ctxload d a b) r)
          ∧ ∀ v, State.checkImage c x bs = .inr v →
            (placeBlocks (s.coreFree p) s.free v.blocks [] = none → ans (.ctxload d a b) 0x80000006)
            ∧ ∀ cores streams, placeBlocks (s.coreFree p) s.free v.blocks [] = some cores → s.streamPlaces p cores v = some streams →
                find v.gangs e.gk = none → rising v.groups = true → rising v.gangs = true →
                EndsIn (.ctxload d a b) s fun t =>
                  WritesV (s.gang e.gk) (t.gang e.gk) e.act [d.toNat] (fun _ _ => 0) ∧ Retires s t e
                  ∧ (t.ctx x).state = .resident ∧ (∀ y, y ≠ x → t.ctx y = s.ctx y)
                  ∧ (∀ k g, find v.groups k = some g → (t.group k).live = g.live ∧ (t.group k).core = through cores g.core
                      ∧ (t.group k).ctx = g.ctx ∧ (t.group k).wreg = g.wreg ∧ (t.group k).td = g.td)
                  ∧ (∀ k g, find v.gangs k = some g → (t.gang k).core = through cores g.core ∧ (t.gang k).group = g.group
                      ∧ (t.gang k).stopped = false)
                  ∧ (∀ k, k ≠ e.gk → find v.gangs k = none → t.gang k = s.gang k))))
    ∧ (Issues s (.keysel d a b) e →
        let mine : Prop := c.state ≠ .none ∧ c.part = p
        (64 ≤ x → TrapsWith (.keysel d a b) s e 0x02 (opAux 1 a.toNat))
        ∧ (x < 64 → (Config.keyWorld s.chip.epoch (e.low b) = none → ans (.keysel d a b) 0x80000001)
          ∧ ∀ w, Config.keyWorld s.chip.epoch (e.low b) = some w →
            (mine → w ≠ c.world → ans (.keysel d a b) 0x80000002)
            ∧ ((¬ mine ∨ c.world = 0 ∧ w = 0) → ans (.keysel d a b) 0x80000003)
            ∧ (mine → w = c.world → w ≠ 0 → EndsIn (.keysel d a b) s fun t => t = { s with gangs := t.gangs, ctxs := t.ctxs }
                ∧ SameMemory s t ∧ Answers s t e d 0 ∧ (∀ k, k ≠ e.gk → t.gang k = s.gang k) ∧ (∀ y, y ≠ x → t.ctx y = s.ctx y)
                ∧ t.ctx x = { c with key := some (e.low b + s.chip.epoch * 2 ^ 32) })))

/-! ### K. Stream programs -/

/-- SE.SET, SE.ADD, SE.MUL, SE.LOOP, SE.NEXT, SE.JMP, SE.COORD, SE.MARK, SE.FENCE and SE.STOP change the registers of their context
alone, as their words say; a loop count of 0 stops the context with fault 9, a word outside its operation's fields with fault
2, which the entry's fcode then shows; SE.FENCE and SE.STOP wait for the credits owed, and every path sees what the
context wrote before them (11 R257 to R259, R265, R266). -/
def Obligations.StreamControlOperations : Prop :=
  ∀ (s : State) (c : StreamCtx) (ra rb rc : BitVec 4) (imm : BitVec 40), find s.streams s.cur.ctx = some c →
    let h := s.cur.ctx
    let r := c.regs
    let E (n : BitVec 4) : W64 := get 0 r.e n.toNat
    let z : W64 := imm.signExtend 64
    let next := (r.pc + 8) % 2 ^ 64
    let e7 (n : BitVec 4) : Prop := n.toNat ≤ 7
    let e15 (n : BitVec 4) : Prop := n.toNat ≤ 7 ∨ n = 15
    let count : Nat := if rb = 15 then imm.toNat else (E rb).toNat % 2 ^ 32
    let immOk : Prop := if rb = 15 then imm.toNat < 2 ^ 32 else imm = 0
    let zero : Prop := ra = 0 ∧ rb = 0 ∧ rc = 0 ∧ imm = 0
    let only (t : State) : Prop := t = { s with streams := t.streams } ∧ ∀ k, k ≠ h → t.stream k = s.stream k
    let ends (i : Instr) (f : StreamRegs → Prop) : Prop := EndsIn i s fun t => only t ∧ SameMemory s t
      ∧ t.stream h = { c with regs := (t.stream h).regs, state := 1, pausing := false, flits := [] } ∧ f (t.stream h).regs
    let setsE (i : Instr) (x : W64) : Prop := ends i fun q => q = { r with e := q.e, pc := next }
      ∧ ∀ n, get 0 q.e n = if n = ra.toNat then x else get 0 r.e n
    let faults (i : Instr) (code : Nat) : Prop := EndsIn i s fun t => t.stream h = { c with state := 5, code := code }
      ∧ ((t.group c.group).entry c.entry).fcode = code ∧ (∀ k, k ≠ h → t.stream k = s.stream k)
      ∧ ∀ k, (t.gang k).regs = (s.gang k).regs
    let waits (i : Instr) : Prop := EndsIn i s fun t => only t ∧ SameMemory s t ∧ t.stream h = { c with state := 1, pausing := true }
    let seen (i : Instr) (d : StreamCtx) : Prop := EndsIn i s fun t => t = { s with streams := t.streams, veils := t.veils }
      ∧ (∀ k, k ≠ h → t.stream k = s.stream k) ∧ SameMemory s t ∧ t.stream h = d
      ∧ ∀ v ∈ t.veils, v.agent = streamAgent h → ∀ p, p < 6 → v.shownTo p
    let checked (i : Instr) (legal : Prop) : Prop := ¬ legal → faults i 2
    let add (x : W64) : W64 := if rc = 15 then x else E rc
    (e7 ra → rb = 0 → rc = 0 → setsE (.seSet ra rb rc imm) z)
    ∧ checked (.seSet ra rb rc imm) (e7 ra ∧ rb = 0 ∧ rc = 0)
    ∧ (e7 ra → e7 rb → e15 rc → setsE (.seAdd ra rb rc imm) (E rb + add 0 + z))
    ∧ checked (.seAdd ra rb rc imm) (e7 ra ∧ e7 rb ∧ e15 rc)
    ∧ (e7 ra → e7 rb → e15 rc → (rc = 15 ∨ imm = 0) → setsE (.seMul ra rb rc imm) (E rb * add z))
    ∧ checked (.seMul ra rb rc imm) (e7 ra ∧ e7 rb ∧ e15 rc ∧ (rc = 15 ∨ imm = 0))
    ∧ (ra.toNat ≤ 3 → e15 rb → rc = 0 → immOk →
        (count ≠ 0 → ends (.seLoop ra rb rc imm) fun q => q = { r with lc := q.lc, start := q.start, pc := next }
          ∧ ∀ n, (get 0 q.lc n).toNat = (if n = ra.toNat then count else (get 0 r.lc n).toNat)
              ∧ get 0 q.start n = if n = ra.toNat then next else get 0 r.start n)
        ∧ (count = 0 → faults (.seLoop ra rb rc imm) 9))
    ∧ checked (.seLoop ra rb rc imm) (ra.toNat ≤ 3 ∧ e15 rb ∧ rc = 0 ∧ immOk)
    ∧ (ra.toNat ≤ 3 → rb = 0 → rc = 0 → imm = 0 →
        let n := (get 0 r.lc ra.toNat).toNat
        (n ≠ 0 → ends (.seNext ra rb rc imm) fun q =>
          q = { r with lc := q.lc, pc := if n = 1 then next else get 0 r.start ra.toNat }
          ∧ ∀ k, (get 0 q.lc k).toNat = if k = ra.toNat then n - 1 else (get 0 r.lc k).toNat)
        ∧ (n = 0 → faults (.seNext ra rb rc imm) 9))
    ∧ checked (.seNext ra rb rc imm) (ra.toNat ≤ 3 ∧ rb = 0 ∧ rc = 0 ∧ imm = 0)
    ∧ (ra = 0 → e15 rb → rc = 0 → ends (.seJmp ra rb rc imm) fun q =>
        q = { r with pc := if rb = 15 ∨ E rb ≠ 0 then wrap 64 (r.pc + 8 * imm.toInt) else next })
    ∧ checked (.seJmp ra rb rc imm) (ra = 0 ∧ e15 rb ∧ rc = 0)
    ∧ (∀ b, find r.sd ra.toNat = some b → ra.toNat ≤ 3 → rb.toNat ≤ 5 → e7 rc → 1 ≤ imm.toNat → imm.toNat < 2 ^ 32 →
        rb.toNat < (descOf b.desc).rank → ends (.seCoord ra rb rc imm) fun q =>
          q = { r with sd := q.sd, pc := next } ∧ (∀ n, n ≠ ra.toNat → find q.sd n = find r.sd n)
          ∧ find q.sd ra.toNat = some { b with origin := b.origin.set rb.toNat ((E rc).toNat % 2 ^ 32)
                                               extent := b.extent.set rb.toNat imm.toNat })
    ∧ checked (.seCoord ra rb rc imm) (∃ b, find r.sd ra.toNat = some b ∧ ra.toNat ≤ 3 ∧ rb.toNat ≤ 5 ∧ e7 rc ∧ 1 ≤ imm.toNat
        ∧ imm.toNat < 2 ^ 32 ∧ rb.toNat < (descOf b.desc).rank)
    ∧ (ra = 0 → rb = 0 → rc = 0 → imm.toNat < 2 ^ 32 → EndsIn (.seMark ra rb rc imm) s fun t => only t ∧ SameMemory s t
        ∧ t.stream h = { c with regs := { r with tag := imm.setWidth 32, pc := next }, state := 1, pausing := false, flits := []
                                check := { r with tag := imm.setWidth 32, pc := next }, arrived := 0, expected := 0 })
    ∧ checked (.seMark ra rb rc imm) (ra = 0 ∧ rb = 0 ∧ rc = 0 ∧ imm.toNat < 2 ^ 32)
    ∧ (zero → s.owed h = false → seen (.seFence ra rb rc imm) { c with regs := { r with pc := next }, state := 1, pausing := false, flits := [] }
        ∧ seen (.seStop ra rb rc imm) { c with state := 4, pausing := false })
    ∧ (zero → s.owed h = true → waits (.seFence ra rb rc imm) ∧ waits (.seStop ra rb rc imm))
    ∧ checked (.seFence ra rb rc imm) zero ∧ checked (.seStop ra rb rc imm) zero

/-- SE.FETCH, SE.GATHER and SE.KVFETCH write their box into the open window at fill and offer its credit, or send it to a return port;
SE.WAITF opens the next window where the barriers allow it, SE.EXPECT arrives with expected bytes, SE.SIGNAL adds to a word
of memory (11 R260 to R266; 12 R304). A longer box goes beat by beat of 128 bytes, the first at once and the operation done with
the last (11 R254, R261). That SE.EXPECT stands still while credits are owed is the model's choice (log entry 76, DESIGN CHOICE).
Here for a group written alone, with nothing failing. -/
def Obligations.StreamDataOperations : Prop :=
  ∀ (s : State) (c : StreamCtx) (ra rb rc : BitVec 4) (imm : BitVec 40), find s.streams s.cur.ctx = some c →
    let h := s.cur.ctx
    let r := c.regs
    let grp := c.group
    let ent := (s.group grp).entry c.entry
    let die := h / 512
    let x := s.streamCtxOf c
    let pc := (r.pc + 8) % 2 ^ 64
    let v := imm.toNat
    let n : Nat := if rb = 15 then v else (get 0 r.e rb.toNat).toNat
    let immOk : Prop := if rb = 15 then v < 2 ^ 32 else imm = 0
    let others (t : State) : Prop := (∀ k, k ≠ h → t.stream k = s.stream k) ∧ ∀ k, (t.gang k).regs = (s.gang k).regs
    let checkpointed (t : State) : Prop := (t.stream h).check = (t.stream h).regs ∧ (t.stream h).arrived = 0 ∧ (t.stream h).expected = 0
    let writes (i : Instr) (t1 : State) (data : List Byte) (pois : Bool) : Prop := ∀ cur, r.cur = some cur → s.aside = false →
      sentSince s t1 = [] → s.written grp c.entry = [grp] →
      let w := s.windowFlat grp ent (cur % ent.cnt) + r.fill
      let m := min 128 data.length
      s.poisoned w m = false → 0 < m → c.clearing = false → c.stopping = false → EndsIn i s fun t => others t
        ∧ (∀ j, j < m → some (t.byte (w + j)) = data[j]?)
        ∧ (∀ a, (a < w ∨ w + m ≤ a) → t.byte a = s.byte a)
        ∧ (data.length ≤ 128 →
            t.stream h = { c with
              regs := { r with fill := r.fill + data.length, pc := pc }, state := 1, beats := [], pausing := false, reading := none, flits := [] }
            ∧ t.credits = s.credits ++ (if c.touch = none then
                [{ obj := spadBase grp + ent.full, phase := cur, nbytes := data.length, stream := some h }] else []))
        ∧ (128 < data.length → t.stream h = { c with beats := (t.stream h).beats, state := 1, reading := (t.stream h).reading } ∧ t.credits = s.credits
            ∧ (t.stream h).beats.flatMap Prod.snd = data.drop 128
            ∧ ∀ i b, (t.stream h).beats[i]? = some b → b.1 = r.fill + 128 * (i + 1) ∧ b.2.length = min 128 (data.length - 128 * (i + 1)))
        ∧ (pois = true → (t.gang c.gang).sys.gflags &&& 2 = 2)
    (∀ b, find r.sd ra.toNat = some b →
      let D := descOf b.desc
      let axes := b.axes D
      let volume : Nat := axes.foldl (fun m xs => m * xs.length) 1
      (∀ (remote : Bool) (flat : List Nat → Nat) (lists : List (List Nat)), lists.length = D.rank →
        let phys (a y : Nat) : Nat := match D.map[a]? with
          | some (.inline _ st p0) => if st = 0 then p0 + y else if st = 1 then p0 - y else p0
          | _ => 0
        let off (ys : List Nat) : Nat := (List.range D.rank).foldl (fun o a => (o + phys a (nth ys a) * nth D.stride a) % 2 ^ 64) 0
        (∀ a, a < D.rank → ∃ st p0, D.map[a]? = some (.inline true st p0)) →
        (∀ ys ∈ boxCoords lists, (∀ a, a < D.rank → nth ys a < nth D.ext a) ∧ (D.place (off ys)).1 % elemBytes D.type = 0
          ∧ (∃ ro, s.engXl die x (D.place (off ys)).1 (elemBytes D.type) false = .ok (flat ys) ro)
          ∧ (isHost (flat ys) = false ∨ (s.part (s.streamPart c)).linked = true)
          ∧ s.unreachable (flat ys) = false ∧ s.poisoned (flat ys) (elemBytes D.type) = false) →
        ∃ t, t = { s with parts := t.parts, free := t.free, chip := t.chip } ∧ s.readBox h c D remote lists =
          (.ok (packElems D.type ((boxCoords lists).map fun ys =>
            if D.type = 14 then s.pathNum 1 (s.streamCore c) (flat ys) 1 / 16 ^ (D.place (off ys)).2 % 16 else s.pathNum 1 (s.streamCore c) (flat ys) (elemBytes D.type)), false), t))
      ∧ (ra.toNat ≤ 3 → rb = 0 → rc = 0 → v < 2 ^ 32 → v % 4 = 0 → ∀ size src pois t1, boxSize D.type volume = some size →
          s.readBox h c D false axes = (.ok (src, pois), t1) →
          (bits v 2 6 = 0 → bits v 8 24 = 0 → s.windowFault c size = none → writes (.seFetch ra rb rc imm) t1 src pois)
          ∧ (bits v 2 1 = 1 → bits v 5 3 = 0 → bits v 8 24 ≠ 0 → s.windowFault c (bits v 8 24) = none → ∀ data,
              (t1.flagPoison c.gang pois).decodeWith (t1.group grp).core (bits v 3 2) (bits v 8 24) src = some data →
              writes (.seFetch ra rb rc imm) t1 data pois)
          ∧ (bits v 2 4 = 8 → bits v 8 24 = 0 → sentSince s t1 = [] → EndsIn (.seFetch ra rb rc imm) s fun t => others t ∧ SameMemory s t
              ∧ t.stream h = { c with
                  state := 1, reading := (t.stream h).reading, out := (portEntries src).map fun ws => (bits v 6 2, ws) }))
      ∧ (ra.toNat ≤ 3 → rc.toNat ≤ 7 → 1 ≤ v → v ≤ 65536 → rb.toNat < D.rank → ∀ size idx data pois t1,
          boxSize D.type (((axes.map List.length).set rb.toNat v).foldl (· * ·) 1) = some size → s.windowFault c size = none →
          s.indexList h c (get 0 r.e rc.toNat).toNat v = .ok idx →
          (idx.foldl (fun u p => u.streamAsk c 0 4 p.2) s).readBox h c D false (axes.set rb.toNat (idx.map Prod.fst)) = (.ok (data, pois), t1) →
          writes (.seGather ra rb rc imm) t1 data pois)
      ∧ (ra.toNat ≤ 3 → rb = 0 → rc = 0 → imm = 0 → ∀ size data pois t1, boxSize D.type volume = some size →
          s.windowFault c size = none → s.readBox h c D true axes = (.ok (data, pois), t1) → writes (.seKvfetch ra rb rc imm) t1 data pois))
    ∧ (ra = 0 → rb = 0 → rc = 0 → imm = 0 →
        let goes (k : Nat) (t : State) : Prop := others t ∧ SameMemory s t
          ∧ (t.stream h).regs = { r with cur := some k, fill := 0, pc := pc } ∧ (t.stream h).state = 1
        let k := ent.next
        let ready : Prop := (k < ent.cnt ∨ (s.bar (spadBase grp + ent.free)).complete ((k + 2 ^ 32 - ent.cnt) % 2 ^ 32) = true)
          ∧ (s.bar (spadBase grp + ent.full)).isOpen k = true
        (∀ j, c.touch = some j → r.cur = none → EndsIn (.seWaitf ra rb rc imm) s fun t => goes j t ∧ (t.stream h).check = c.check)
        ∧ (c.touch = none → s.written grp c.entry = [grp] → s.castAgrees c = true → ready → EndsIn (.seWaitf ra rb rc imm) s fun t =>
            goes k t ∧ checkpointed t ∧ (t.group grp).entry c.entry = { ent with next := (k + 1) % 2 ^ 32 })
        ∧ (c.touch = none → s.written grp c.entry = [grp] → s.castAgrees c = true → ¬ ready → EndsIn (.seWaitf ra rb rc imm) s fun t =>
            others t ∧ SameMemory s t ∧ t.stream h = { c with state := 2 }))
    ∧ (ra = 0 → rc = 0 → (rb.toNat ≤ 7 ∨ rb = 15) → immOk → c.touch = none → s.written grp c.entry = [grp] → ent.full % 64 = 0 →
        (s.owed h = true → (∃ k, r.cur = some k) → EndsIn (.seExpect ra rb rc imm) s fun t =>
          others t ∧ SameMemory s t ∧ t.stream h = { c with state := 1, pausing := true })
        ∧ ∀ k b, r.cur = some k → s.owed h = false →
          let o := s.bar (spadBase grp + ent.full)
          ({ o with xbytes := o.xbytes.set (k % 4) ((nth o.xbytes (k % 4) + n % 2 ^ 32) % 2 ^ 32) } : Bar).arrive k = some b →
          EndsIn (.seExpect ra rb rc imm) s fun t => others t ∧ t.bar (spadBase grp + ent.full) = b
            ∧ (∀ a, (a < spadBase grp + ent.full ∨ spadBase grp + ent.full + 64 ≤ a) → t.byte a = s.byte a)
            ∧ t.stream h = { c with regs := { r with pc := pc }, state := 1, pausing := false, flits := [], arrived := c.arrived + 1
                                    expected := c.expected + n % 2 ^ 32 })
    ∧ (ra = 0 → (rb.toNat ≤ 7 ∨ rb = 15) → rc.toNat ≤ 7 → immOk → ∀ pa ro,
        let va := (get 0 r.e rc.toNat).toNat
        va % 8 = 0 → s.engXl die x va 8 true = .ok pa ro → (isHost pa = false ∨ (s.part (s.streamPart c)).linked = true) →
        (peerOf pa = none ∨ c.flits ≠ []) → s.unreachable pa = false → s.poisoned pa 8 = false → EndsIn (.seSignal ra rb rc imm) s fun t => others t ∧ checkpointed t
          ∧ (t.stream h).regs = { r with pc := pc } ∧ t.num pa 8 = (s.num pa 8 + n) % 2 ^ 64
          ∧ (∀ v ∈ t.veils, v.agent = streamAgent h → ∀ p, p < 6 → v.shownTo p)
          ∧ ∀ a, (a < pa ∨ pa + 8 ≤ a) → t.byte a = s.byte a)
    ∧ ∀ cur off bs rest, r.cur = some cur → s.written grp c.entry = [grp] → c.beats = (off, bs) :: rest →
        let w := s.windowFlat grp ent (cur % ent.cnt) + off
        let t := s.moveBeat h
        s.poisoned w bs.length = false → c.clearing = false → c.stopping = false → others t
          ∧ (∀ j, j < bs.length → some (t.byte (w + j)) = bs[j]?) ∧ (∀ a, (a < w ∨ w + bs.length ≤ a) → t.byte a = s.byte a)
          ∧ (rest ≠ [] → t.stream h = { c with beats := rest } ∧ t.credits = s.credits)
          ∧ (rest = [] → t.stream h = { c with
                beats := [], regs := { r with fill := off + bs.length, pc := pc }, state := 1, pausing := false, reading := none, flits := [] }
              ∧ t.credits = s.credits ++ (if c.touch = none then
                  [{ obj := spadBase grp + ent.full, phase := cur, nbytes := off + bs.length - r.fill, stream := some h }] else []))

/-! ### L. Events -/

/-- A wait at a rejoin register or a REGANG ends. JOIN_COMPLETE: with every expected lane arrived, no pending path and every
holder waiting at one JWAIT, the holders become one cohort behind it with exactly the expected lanes, and the register is free;
else a waiting slice takes up a pending path. REGANG_COMPLETE joins its slices. Both time out in an ageing group after
65,536 cycles, slice by slice, counted in sys.rlost (05 R129 to R131; 01 R31, R36). A gang that is stopped, and slices held during
a handler, keep waiting (log entry 84, DEDUCED). -/
def Obligations.WaitsComplete : Prop :=
  ∀ (s : State) (gk k : Nat),
    let g := s.gang gk
    let r := g.rejoinReg k
    let n := g.slices.length
    let holds (i : Nat) : Prop := i < n ∧ r.expect &&& sliceMask i ≠ 0
    let ready (a : Nat) : Prop := r.arrived = r.expect ∧ r.paths = [] ∧ (∃ i, holds i) ∧ ∀ i, holds i → (g.slice i).wait = some (.join k a)
    let lost : W32 := if g.sys.rlost = 0xFFFFFFFF#32 then g.sys.rlost else g.sys.rlost + 1
    let only (t : State) (x : Sys) : Prop := OnlyGang s t gk ∧ SameMemory s t
      ∧ t.gang gk = { g with slices := (t.gang gk).slices, path := (t.gang gk).path, rejoin := (t.gang gk).rejoin, sys := x }
    let others (t : State) : Prop := ∀ j, j ≠ k → (t.gang gk).rejoinReg j = g.rejoinReg j
    let after (t : State) (i a : Nat) : Prop := ((t.gang gk).slice i).wait = none ∧ ((t.gang gk).slice i).pc = pcMake (a + 4) 0
    let alone (t : State) (i : Nat) : Prop := ∀ j, j < n → j ≠ i → ((t.gang gk).slice j).cohort ≠ ((t.gang gk).slice i).cohort
    let together (t : State) (p : Nat → Prop) (a : Nat) : Prop := ∃ c, (∀ i, i < n → ¬ p i → (g.slice i).cohort ≠ c)
      ∧ ∀ i, i < n → (p i → after t i a ∧ ((t.gang gk).slice i).cohort = c
          ∧ ∀ j, p j → (∀ j', j' < j → ¬ p j') → ((t.gang gk).slice i).mode = (g.slice j).mode)
        ∧ (¬ p i → (t.gang gk).slice i = g.slice i)
    let free : Prop := g.stopped = false ∧ ∀ i, g.waitsOn k i = true → (g.slice i).held = 0
    let stays (i : Instr) : Prop := EndsIn i s fun t => OnlyGang s t gk ∧ SameMemory s t ∧ t.gang gk = g
    (∀ a, free → ready a → EndsIn (.joinComplete gk k) s fun t => only t g.sys ∧ others t ∧ (t.gang gk).rejoinReg k = {}
        ∧ together t holds a
        ∧ ∀ i, i < n → (t.gang gk).path &&& sliceMask i = if r.expect &&& sliceMask i ≠ 0 then r.expect &&& sliceMask i else g.path &&& sliceMask i)
    ∧ (free → (¬ ∃ a, ready a) → EndsIn (.joinComplete gk k) s fun t => only t g.sys ∧ others t
        ∧ (t.gang gk).rejoinReg k = { r with paths := ((t.gang gk).rejoinReg k).paths, parked := ((t.gang gk).rejoinReg k).parked
                                             parkAt := ((t.gang gk).rejoinReg k).parkAt }
        ∧ ∀ i, i < n → ((t.gang gk).slice i = g.slice i ∧ (t.gang gk).path &&& sliceMask i = g.path &&& sliceMask i
              ∧ ¬ (g.waitsOn k i = true ∧ ∃ p ∈ r.paths, p.mask &&& sliceMask i ≠ 0))
            ∨ (g.waitsOn k i = true ∧ ((t.gang gk).slice i).wait = none ∧ (∃ p ∈ r.paths, p.mask &&& sliceMask i ≠ 0
                ∧ ((t.gang gk).slice i).pc = pcMake p.pc 0 ∧ (t.gang gk).path &&& sliceMask i = p.mask &&& sliceMask i)
              ∧ ((t.gang gk).rejoinReg k).parked &&& (g.path &&& sliceMask i) = g.path &&& sliceMask i))
    ∧ (g.anyWaits k = true → (¬ ∃ a, ready a) → (s.group g.group).ageing = true → 65536 ≤ r.age → free →
        EndsIn (.rejoinTimeout gk k) s fun t => only t { g.sys with rlost := lost } ∧ others t
          ∧ ((t.gang gk).rejoinReg k).paths = r.paths ∧ ((t.gang gk).rejoinReg k).age = 0
          ∧ (∀ l, l < 32 → (has ((t.gang gk).rejoinReg k).expect l = true ↔ has r.expect l = true
              ∧ ¬ (g.waitsOn k (l / 4) = true ∧ has (g.path ||| r.parked) l = true)))
          ∧ ∀ i, i < n →
            (∀ a, (g.slice i).wait = some (.join k a) → after t i a ∧ alone t i
              ∧ (t.gang gk).path &&& sliceMask i = (g.path ||| r.parked) &&& sliceMask i)
            ∧ (g.waitsOn k i = false → (t.gang gk).slice i = g.slice i ∧ (t.gang gk).path &&& sliceMask i = g.path &&& sliceMask i))
    ∧ (g.anyWaits k = false ∨ r.age < 65536 ∨ ¬ free → stays (.rejoinTimeout gk k))
    ∧ (¬ free → stays (.joinComplete gk k))
    ∧ ∀ sl m a since, (g.slice sl).wait = some (.regang m a since) → g.stopped = false →
        let waits (i : Nat) : Prop := ∃ u, (g.slice i).wait = some (.regang m a u)
        let named (i : Nat) : Prop := i < 8 ∧ bit m i = true
        ((∀ i, named i → waits i ∧ (g.slice i).held = 0) → EndsIn (.regangComplete gk sl) s fun t => only t g.sys ∧ together t named a
            ∧ (t.gang gk).path = g.path ∧ (t.gang gk).rejoin = g.rejoin)
        ∧ ((∃ i, named i ∧ (waits i → (g.slice i).held ≠ 0)) → stays (.regangComplete gk sl))
        ∧ ((¬ ∀ i, named i → waits i) →
          ((s.group g.group).ageing = true → since + 65536 ≤ s.clock → (g.slice sl).held = 0 → EndsIn (.regangTimeout gk sl) s fun t =>
              only t { g.sys with rlost := lost } ∧ (t.gang gk).path = g.path ∧ (t.gang gk).rejoin = g.rejoin
              ∧ ∀ i, i < n → (waits i → after t i a ∧ alone t i) ∧ (¬ waits i → (t.gang gk).slice i = g.slice i)))

/-- RESIDUAL_RUN: the oldest captured computation whose sources have all arrived, of the gang that its core grants next, runs in
its lanes on the operands that it holds, and delivers to its destination under its tag: to the register where that tag is
current, and to nothing else where it is not. It is a retirement, its flags stick, and it leaves the queue (10 R223 to R228).
Here with one vector destination and no trapping lane. -/
def Obligations.ResidualsRun : Prop :=
  ∀ (s : State) (gk i r tag : Nat) (e : Entry) (k : Kernel) (o : Opnd),
    let g := s.gang gk
    s.mayDefer gk = true → s.nextGrant g.core [] = some gk → g.postedReady = false → g.work.faulted = none →
    g.work.residuals[i]? = some e → (s.readyResiduals gk).head? = some e → e.dest = [(r, tag)] → r < 64 →
    e.keep = 0 → g.supH = false → kernelOf e.instr = some k → destOf e.instr = some o → o.kind ≠ .pred →
    let m := e.active
    let env : Env := { e.env m with uni := join64 (e.readV (lowest m) 126) (e.readV (lowest m) 127) }
    let os := outcomes k env
    raisingLanes os g.sys.fpctl = 0 →
    EndsIn (.residualRun gk i) s fun t =>
      t = { s with gangs := t.gangs, parts := t.parts, cores := t.cores } ∧ SameMemory s t ∧ (∀ j, j ≠ gk → t.gang j = s.gang j)
      ∧ t.core g.core = { s.core g.core with granted := (s.core g.core).granted ++ [gk], used := (t.core g.core).used }
      ∧ (∀ j, j ≠ g.core → t.core j = s.core j)
      ∧ (t.gang gk).slices = g.slices ∧ (t.gang gk).path = g.path ∧ (t.gang gk).frame = g.frame ∧ (t.gang gk).counts = g.counts
      ∧ (t.gang gk).sched = { g.sched.retire with grant := some s.clock, waited := 0 }
      ∧ (t.gang gk).sys = g.sys.raise (flagsOf os m) (satOf os)
      ∧ (t.gang gk).work.residuals.length = (g.work.residuals.filter fun x => x.id != e.id).length
      ∧ (∀ x ∈ (t.gang gk).work.residuals, x.id ≠ e.id)
      ∧ (∀ l p, l < 32 → (t.gang gk).readP l p = g.readP l p)
      ∧ ((g.pend r).on = true ∧ (g.pend r).tag = tag →
          WritesV g (t.gang gk) (m &&& (g.pend r).mask) [r] (fun l _ => lo32 (k env l).val) ∧ ((t.gang gk).pend r).on = false)
      ∧ (¬ ((g.pend r).on = true ∧ (g.pend r).tag = tag) → ∀ l q, l < 32 → (t.gang gk).readV l q = g.readV l q)

/-- POSTED_FAULT_TAKE: outside every handler the oldest posted fault is taken at an instruction boundary. It enters a handler with
the cause, with the deferred bit and the address of the captured instruction where one raised it, which then is the faulted
head; a page fault parks the gang with its frame written and a record posted. A gang with no lane left gives up what it
holds (05 R438, R439; 10 R230; 01 R38). Which cohort stands at the boundary is the model's choice (log entry 15, DESIGN CHOICE). -/
def Obligations.PostedFaultsAreTaken : Prop :=
  ∀ (s : State) (gk : Nat),
    let g := s.gang gk
    let p := s.partOf g
    let ss := g.boundary
    let lead := g.slice (ss.headD 0)
    (g.live = true → g.unexited = 0 → g.stopped = false → EndsIn (.postedFaultTake gk) s fun t =>
        (t.gang gk).work.posted = [] ∧ (t.gang gk).work.faulted = none ∧ (t.gang gk).regs = g.regs ∧ ∀ j, j ≠ gk → t.gang j = s.gang j)
    ∧ ((g.userH = true ∨ g.supH = true) → g.unexited ≠ 0 → exec (.postedFaultTake gk) s = .next s)
    ∧ ∀ f rest, g.work.posted = f :: rest → g.live = true → g.unexited ≠ 0 → g.stopped = false → g.userH = false → g.supH = false →
        g.page = none → g.work.faulted = none → ss ≠ [] → (∀ y ∈ g.slices, y.reexec = none) → s.recordWaits gk = false →
        let sup : Bool := supCause f.code || decide (g.level = 1) || decide (g.sys.utvec = 0)
        let vec := if sup then (s.part p).stvec else g.sys.utvec
        let frame (su : Bool) : Frame :=
          { tcause := w32 (f.code + b2n f.entry.isSome * 256 + b2n su * 512)
            taux := if f.entry = none ∧ f.code = 0x30 then w64 (f.aux.toNat % 2 ^ 60 + f.more * 2 ^ 60) else f.aux
            tmask := if f.entry = none then 0 else f.tmask, tdone := if f.entry = none then 0 else f.tdone
            tpc := f.entry.elim lead.pc Entry.addr, tmode := lead.mode }
        (f.code ≠ 0x20 → (sup = true → (s.part p).stvec ≠ 0 ∧ StvecSettled s p) → EndsIn (.postedFaultTake gk) s fun t =>
            TrapFrame s t gk ∧ SameMemory s t ∧ Handling g (t.gang gk) ss (frame sup) sup vec
            ∧ (t.gang gk).work = { g.work with posted := rest, faulted := f.entry.map fun e => (e, f.tmask, f.outside) })
        ∧ (∀ e, f.code = 0x20 → f.entry = some e → EndsIn (.postedFaultTake gk) s fun t =>
            Posts s t p { kind := 1, ctx := s.ctxOf g, gang := some gk, addr := f.aux.toNat % 2 ^ 56, detail := f.kind + b2n f.malformed * 4 }
            ∧ (t.gang gk).frame = { g.frame with taux := (frame false).taux, tcause := (frame false).tcause, tmask := f.tmask, tdone := f.tdone } ∧ (∀ j, j ≠ gk → t.gang j = s.gang j)
            ∧ (t.gang gk).regs = g.regs ∧ (t.gang gk).slices = g.slices ∧ (t.gang gk).work = { g.work with posted := rest }
            ∧ ∃ seq, (t.gang gk).page = some { seq := seq, slices := [], lanes := f.tmask, entry := some e, outside := f.outside })

/-- The active set of a core, and the ends of gangs and groups. ACTIVE_SET_ENTRY takes in the oldest ready pending gang,
grantable two cycles later; DISPLACEMENT puts one that has waited 4,096 cycles in the place of the youngest; STARVATION_PRIORITY
grants next the oldest active gang that was ready and not granted for 4,096 cycles, where its unit is free; DRAIN_STALL_PARK
parks under the first cause of R219's table; HANG_DETECT posts one record; GANG_FINISH frees what the gang held and makes its
EXITC addition; GROUP_FINISH frees the group and counts it (10 R215 to R223; 05 R138; 16 R355, R364). -/
def Obligations.SchedulerEvents : Prop :=
  ∀ (s : State) (c gk : Nat),
    let S (k : Nat) : Sched := (s.gang k).sched
    let pend := s.pendingGangs c
    let act := s.activeGangs c
    let with_ (t : State) (k : Nat) (x : Sched) : Prop := t.gang k = { s.gang k with sched := x }
    let enters (t : State) (k at_ : Nat) : Prop := with_ t k { S k with
      active := true, from_ := at_, park := none, yielded := false, outside := 0, quiet := 0, waited := 0 }
    let gangsOnly (t : State) (ks : List Nat) : Prop := t = { s with gangs := t.gangs } ∧ ∀ j, j ∉ ks → t.gang j = s.gang j
    (act.length < 8 → pend ≠ [] → (s.core c).entered ≠ some s.clock → EndsIn (.activeSetEntry c) s fun t => ∃ k ∈ pend,
        t = { s with gangs := t.gangs, cores := t.cores } ∧ (∀ j, j ≠ k → t.gang j = s.gang j) ∧ enters t k (s.clock + 2)
        ∧ t.core c = { s.core c with entered := some s.clock } ∧ (∀ j, j ≠ c → t.core j = s.core j)
        ∧ ∀ j ∈ pend, ((S k).yielded = true → (S j).yielded = true) ∧ ((S k).yielded = (S j).yielded → (S k).born ≤ (S j).born))
    ∧ ((8 ≤ act.length ∨ pend = [] ∨ (s.core c).entered = some s.clock) → exec (.activeSetEntry c) s = .next s)
    ∧ (8 ≤ act.length → (∃ k ∈ pend, 4096 ≤ (S k).outside) → (∃ v ∈ act, (S v).waited < 4096) → EndsIn (.displacement c) s fun t =>
        ∃ k v, k ∈ pend ∧ v ∈ act ∧ 4096 ≤ (S k).outside ∧ (S v).waited < 4096 ∧ gangsOnly t [k, v] ∧ enters t k (s.clock + 3)
          ∧ with_ t v { S v with active := false, outside := 0 }
          ∧ (∀ j ∈ pend, 4096 ≤ (S j).outside → (S k).born ≤ (S j).born)
          ∧ ∀ j ∈ act, (S j).waited < 4096 → (S j).born ≤ (S v).born)
    ∧ (act.length < 8 → exec (.displacement c) s = .next s)
    ∧ (let late (k : Nat) : Prop := k ∈ act ∧ 4096 ≤ (S k).waited ∧ s.grantable k 0 = true
      ((∃ k, late k) → EndsIn (.starvationPriority c) s fun t => t = { s with agenda := .issue c [] :: s.agenda })
      ∧ (∀ k j, s.nextGrant c [] = some k → late j → j ∉ (s.core c).granted → s.nextUnit j 0 ∉ (s.core c).used →
          4096 ≤ (S k).waited ∧ (S k).born ≤ (S j).born)
      ∧ ((¬ ∃ k, late k) → exec (.starvationPriority c) s = .next s))
    ∧ (let x := s.gang gk
      let st := s.stalls gk
      let phase : Prop := ∃ a n b, Stall.phase a n b ∈ st
      let queue : Prop := ∃ q, Stall.queue q ∈ st
      let join : Prop := ∃ y ∈ x.slices, y.wait ≠ none ∧ y.held = 0
      let exit_ : Prop := x.unexited = 0 ∨ Stall.exitWait ∈ st
      let parks (p : Park) : Prop := EndsIn (.drainStallPark gk) s fun t => gangsOnly t [gk]
        ∧ with_ t gk { S gk with active := false, park := some p, outside := 0, quiet := 0 }
      x.live = true → x.stopped = false → x.sched.active = true →
        (s.ready gk = true → exec (.drainStallPark gk) s = .next s)
        ∧ (s.ready gk = false → (phase → parks .barrier) ∧ (¬ phase → queue → parks .queue) ∧ (¬ phase → ¬ queue → join → parks .join)
          ∧ (¬ phase → ¬ queue → ¬ join → exit_ → parks .exit)
          ∧ (¬ phase → ¬ queue → ¬ join → ¬ exit_ → Stall.residualFull ∈ st → parks .residual)
          ∧ (¬ phase → ¬ queue → ¬ join → ¬ exit_ → Stall.residualFull ∉ st →
              let drains : Prop := st ≠ [] ∧ st.all Stall.drain = true
              (64 ≤ x.sched.quiet → drains → parks .drain)
              ∧ ((x.sched.quiet < 64 ∨ ¬ drains) → exec (.drainStallPark gk) s = .next s))))
    ∧ (let x := s.gang gk
      let p := s.partOf x
      let h := hostBase + (s.part p).fring
      x.live = true → x.stopped = false →
        (x.sched.hung = false → 2 ^ 24 ≤ x.sched.idle → EndsIn (.hangDetect gk) s fun t =>
          with_ t gk { S gk with hung := true } ∧ (∀ j, j ≠ gk → t.gang j = s.gang j)
          ∧ ((s.part p).waiting = [] → (s.part p).hangs = [] → s.ringRoom p = true → ∃ u v, find (t.part p).faults (s.num h 4)
              = some { kind := 4, ctx := s.ctxOf x, gang := some gk, pcs := x.pcs, gstate := u, gcause := v })
          ∧ ((s.part p).linked = false → SameMemory s t ∧ ∃ u v, t.part p = { s.part p with hangs := (s.part p).hangs
              ++ [{ kind := 4, ctx := s.ctxOf x, gang := some gk, pcs := x.pcs, gstate := u, gcause := v }] })
          ∧ (s.ringRoom p = false → (s.part p).linked = true → (s.part p).hangs = [] → (s.part p).fring + 64 ≤ 2 ^ 51 → t.num (h + 0xC) 4 = (s.num (h + 0xC) 4 + 1) % 2 ^ 32
              ∧ t.part p = s.part p ∧ ∀ a, (a < h + 0xC ∨ h + 0x10 ≤ a) → t.byte a = s.byte a))
        ∧ ((x.sched.hung = true ∨ x.sched.idle < 2 ^ 24) → exec (.hangDetect gk) s = .next s))
    ∧ (let calm (n : Nat) : Prop := (s.launch n).status < 3 ∧ (s.launch n).next < (s.launch n).ngroups ∧ (s.launch n).ending = none
        ∧ (s.launch n).closing = none ∧ (s.launch n).adds = [] ∧ (s.launch n).addWait = none ∧ (s.launch n).stats = []
        ∧ s.queueParked (s.launch n).part (s.launch n).queue = false ∧ ∀ q ∈ s.launches, q.2.status < 3
      let takes (u : State) (n va pa : Nat) : Prop := (∃ ro, u.xlateBy [] (s.launch n).ctx va 8 true = .ok pa ro)
        ∧ (isHost pa = true → (s.part (s.launch n).part).linked = true ∧ Config.unsupported s.free pa = false) ∧ s.poisoned pa 8 = false ∧ s.unreachable pa = false
      let added (t : State) (pa v : Nat) : Prop := t.num pa 8 = (s.num pa 8 + v) % 2 ^ 64
      (let x := s.gang gk
        let gone (t : State) : Prop := t.gang gk = { x with live := false, sched := { x.sched with active := false } }
          ∧ (∀ j, j ≠ gk → t.gang j = s.gang j) ∧ (∀ b, ((t.core x.core).band b).owner ≠ some gk)
          ∧ (∀ b, ((s.core x.core).band b).owner ≠ some gk → (t.core x.core).band b = (s.core x.core).band b)
          ∧ (∀ j, j ≠ x.core → t.core j = s.core j) ∧ (∀ j, j < 64 → t.link (portKey gk j) = {}) ∧ (∀ j, (t.link j).owner ≠ some gk)
          ∧ ∀ j, (∀ i, qkey j ≠ .port gk i) → (s.link j).owner ≠ some gk → t.link j = s.link j
        x.live = true → x.unexited = 0 → x.stopped = false → x.page = none → x.owed = none → x.work.posted = [] →
          x.work.faulted = none → s.recordWaits gk = false →
          (x.counts = {} → x.exitc = none → EndsIn (.gangFinish gk) s fun t => gone t ∧ SameMemory s t
              ∧ t = { s with gangs := t.gangs, cores := t.cores, links := t.links, veils := t.veils }
              ∧ ∀ y ∈ t.veils, y.gang = gk → ∀ p, p < 6 → y.shownTo p)
          ∧ (∀ va v n pa, x.counts = {} → x.exitc = some (va, v) → (s.group x.group).launch = some n → calm n → takes s n va pa →
              EndsIn (.gangFinish gk) s fun t => gone t ∧ t.launch n = s.launch n ∧ added t pa v
                ∧ ∀ a, (a < pa ∨ pa + 8 ≤ a) → t.byte a = s.byte a)
          ∧ ((x.counts.loads ≠ 0 ∨ x.counts.stores ≠ 0 ∨ x.counts.copies ≠ 0 ∨ x.counts.tiles ≠ 0) →
              EndsIn (.gangFinish gk) s fun t => t.gang gk = x ∧ ∀ j, t.gang j = s.gang j))
      ∧ ∀ grp g, find s.groups grp = some g → (∀ p ∈ s.gangs, p.2.group = grp → p.2.live = false) → (s.ctx g.ctx).state = .resident →
          rising s.gangs = true → rising s.streams = true →
          let lo := spadBase grp
          let gone (t : State) : Prop := find t.groups grp = none ∧ (∀ j, j ≠ grp → find t.groups j = find s.groups j)
            ∧ (∀ k y, find s.gangs k = some y → find t.gangs k = if y.group = grp then none else some y)
            ∧ (∀ k y, find s.streams k = some y → find t.streams k = if y.group = grp then none else some y)
            ∧ ∀ a, lo ≤ a → a < lo + 2 ^ 24 → t.byte a = 0
          (g.launch = none → EndsIn (.groupFinish grp) s fun t => gone t ∧ ∀ a, (a < lo ∨ lo + 2 ^ 24 ≤ a) → t.byte a = s.byte a)
          ∧ ∀ n, g.launch = some n →
            let l := s.launch n
            (∀ pa, calm n → l.cctr ≠ 0 → takes (s.removeGroup grp) n l.cctr pa → (pa + 8 ≤ lo ∨ lo + 2 ^ 24 ≤ pa) →
              EndsIn (.groupFinish grp) s fun t => gone t ∧ t.launch n = { l with finished := l.finished + 1 } ∧ added t pa 1
                ∧ ∀ a, (a < lo ∨ lo + 2 ^ 24 ≤ a) → (a < pa ∨ pa + 8 ≤ a) → t.byte a = s.byte a)
            ∧ ∀ pa, l.cctr = 0 → l.status = 2 → l.ngroups ≤ l.next → l.placed = l.ngroups → l.finished + 1 = l.placed → l.ending = none →
              l.closing = none → l.detached = false → l.addFailed = false → l.adds = [] → l.stats = [] → l.statWait = none →
              s.queueParked l.part l.queue = false →
              rising s.launches = true → (∀ q ∈ s.launches, q.1 = n ∨ q.2.status < 3) → (s.queue l.part l.queue).cons ≠ l.slot →
              (s.removeGroup grp).lnPlaces l.ctx (l.recVa + 0x70) 8 true = .ok [(pa, 8)] → (isHost pa = true → (s.part l.part).linked = true) →
              s.poisoned pa 8 = false → s.unreachable pa = false → (pa + 8 ≤ lo ∨ lo + 2 ^ 24 ≤ pa) →
              EndsIn (.groupFinish grp) s fun t => gone t ∧ (t.launch n).status = 3 ∧ (t.launch n).finished = l.placed
                ∧ t.num pa 4 = 3 ∧ t.num (pa + 4) 4 = 0
                ∧ ∀ a, (a < lo ∨ lo + 2 ^ 24 ≤ a) → (a < pa ∨ pa + 8 ≤ a) → t.byte a = s.byte a)

/-- The launcher. DOORBELL makes a waiting QBIND good and reads the queue's header; DEPENDENCE_POLL reads the counters of the
next record, or a header that is due, and writes a cons that is due; LAUNCH_DISPATCH, once the dependences are met, refuses a
record by the reason that its checks give, or makes a launch of it with status 1 once a group of it fits; GROUP_PLACE places the
next group with its gangs, parameters and group barrier; QUEUE_RESERVING marks a queue that waited 65,536 cycles; BUDGET_PERIOD
begins a period of 25,000 cycles, once (16 R348 to R359, R365; 19 R401). The record and its dependences are read afresh at poll
and dispatch (log entry 19, DEDUCED), and a period that has been refilled is not refilled again (log entry 58, DESIGN CHOICE).
Here a launch without consorts and tile records whose writes meet nothing in their way. -/
def Obligations.LauncherEvents : Prop :=
  ∀ (s : State) (p q c v : Nat), q < 64 →
    let k := s.queue p q
    let queues (t : State) (x : Queue) : Prop := t.queue p q = x ∧ ∀ p' q', q' < 64 → ¬ (p' = p ∧ q' = q) → t.queue p' q' = s.queue p' q'
    let header (hb : List Byte) (x : Queue) : Queue :=
      let f := fromBytes ((hb.drop 8).take 4)
      let legal : Bool := decide (f < 256 ∧ 1 ≤ f % 16 ∧ f % 16 ≤ 12) && (hb.drop 12).all (· == 0)
      { x with on := legal && f.testBit 7, prod := fromBytes (hb.take 4), lsize := f % 16, prio := f / 16 % 8, fresh := false, stuck := false
               reread := false }
    let free : Prop := s.queueParked p q = false ∧ ∀ x ∈ s.launches, x.2.status < 3
    let settled : Prop := k.consDue = false ∨ k.hfault ≠ none
    let wordAt (l : Launch) (pa : Nat) : Prop := s.lnPlaces l.ctx (l.recVa + 0x70) 8 true = .ok [(pa, 8)]
      ∧ (isHost pa = true → (s.part p).linked = true) ∧ s.poisoned pa 8 = false ∧ s.unreachable pa = false
    let written (t : State) (pa st det : Nat) : Prop := t.num pa 4 = st ∧ t.num (pa + 4) 4 = det
      ∧ ∀ a, (a < pa ∨ pa + 8 ≤ a) → t.byte a = s.byte a
    (((s.part p).live = false ∨ (s.part p).linked = false) → exec (.doorbell p q v) s = .next s)
    ∧ ((s.part p).live = true → (s.part p).linked = true →
        (k.bind = none → k.bound = false → exec (.doorbell p q v) s = .next s)
        ∧ (∀ hb, k.bind = none → k.bound = true → s.lnRead p k.ctx k.header 64 = .got hb → EndsIn (.doorbell p q v) s fun t =>
            t = { s with queues := t.queues } ∧ queues t (header hb
              (if k.fresh then { k with cons := fromBytes ((hb.drop 4).take 4), dispatch := fromBytes ((hb.drop 4).take 4) } else k)))
        ∧ ∀ x h hb, k.bind = some (x, h) → s.lnRead p x h 64 = .got hb → EndsIn (.doorbell p q v) s fun t =>
            t = { s with queues := t.queues, launches := t.launches }
            ∧ queues t (header hb { bound := true, ctx := x, header := h, granted := k.granted, cur := k.cur
                                    cons := fromBytes ((hb.drop 4).take 4), dispatch := fromBytes ((hb.drop 4).take 4) })
            ∧ ∀ n l, find s.launches n = some l →
                find t.launches n = some (if l.part = p ∧ l.queue = q then { l with detached := true } else l))
    ∧ (s.queueReady p q = false →
        (settled → s.headerDue p q = false → exec (.dependencePoll p q) s = .next s) ∧ exec (.launchDispatch p q) s = .next s)
    ∧ (settled → s.headerDue p q = true → exec (.dependencePoll p q) s = .next (s.readHeader p q))
    ∧ (∀ pa ro, s.queueReady p q = false → s.headerDue p q = false → k.consDue = true → k.hfault = none →
        s.xlateBy [] k.ctx (k.header + 4) 4 true = .ok pa ro → (isHost pa = true → (s.part p).linked = true) → s.poisoned pa 4 = false →
        EndsIn (.dependencePoll p q) s fun t => queues t { k with consDue := false } ∧ t.num pa 4 = k.cons % 2 ^ 32
          ∧ ∀ a, (a < pa ∨ pa + 4 ≤ a) → t.byte a = s.byte a)
    ∧ (∀ bs, s.queueReady p q = true → s.lnRead p k.ctx (k.slotVa k.dispatch) 128 = .got bs → fromBytes ((bs.drop 0x60).take 4) = k.dispatch →
        let l := launchOf p q k.dispatch k.ctx (k.slotVa k.dispatch) bs
        (settled → s.headerDue p q = false → (∀ d ∈ depsOf bs, d.1 % 8 = 0 ∧ ∃ b, s.lnRead p k.ctx d.1 8 = .got b) → EndsIn (.dependencePoll p q) s fun t =>
            t = { s with queues := t.queues } ∧ queues t { k with depMet := (t.queue p q).depMet }
            ∧ ((t.queue p q).depMet = true ↔ ∀ d ∈ depsOf bs, ∀ b, s.lnRead p k.ctx d.1 8 = .got b → d.2 ≤ fromBytes b))
        ∧ ((∀ x ∈ s.launches, ¬ (x.2.part = p ∧ x.2.queue = q ∧ x.2.slot = k.dispatch)) →
            (∀ r pa cnt, s.recordReason l bs = some r → (depsOf bs = [] ∨ k.depMet = true) → s.recordCount p k.ctx l bs = .got cnt →
              l.cctr = 0 → k.cons ≠ k.dispatch → free → wordAt l pa →
              EndsIn (.launchDispatch p q) s fun t => ∃ n, find s.launches n = none ∧ (t.launch n).status = 4 ∧ (t.launch n).detail = r
                ∧ queues t { k with dispatch := (k.dispatch + 1) % 2 ^ 32, depMet := false, cur := some n } ∧ written t pa 4 r
                ∧ ∀ j, j ≠ n → t.launch j = s.launch j)
            ∧ (depsOf bs ≠ [] → k.depMet = false → exec (.launchDispatch p q) s = .next s)
            ∧ ∀ rd pa, s.fits p q = true → s.recordReason l bs = none → (∀ d ∈ depsOf bs, k.depMet = true ∧ ∃ b, s.lnRead p k.ctx d.1 8 = .got b) →
                (if l.rdrv then s.lnRead p k.ctx (fromBytes ((bs.drop 0x58).take 8)) 4 else s.lnRead p k.ctx l.pblk 128) = .got rd →
                let m : Launch := if l.rdrv then { l with ngroups := fromBytes rd }
                  else { l with params := (List.range 16).map fun i => w64 (fromBytes ((rd.drop (8 * i)).take 8)) }
                m.ngroups ≠ 0 → free → wordAt l pa → EndsIn (.launchDispatch p q) s fun t => ∃ n, find s.launches n = none
                  ∧ t.launch n = { m with status := 1, detail := 0 } ∧ written t pa 1 0
                  ∧ queues t { k with dispatch := (k.dispatch + 1) % 2 ^ 32, depMet := false, cur := some n }
                  ∧ ∀ j, j ≠ n → t.launch j = s.launch j))
    ∧ ((s.placingOf p q = none ∨ s.granted p q = false ∨ 256 ≤ c) → exec (.groupPlace p q c) s = .next s)
    ∧ (∀ n l, s.placingOf p q = some (n, l) → s.granted p q = true → c < 256 → s.coreTakes l c = true → l.cons = 0 → l.rdrv = false →
        l.next + 1 < l.ngroups → free → l.adds = [] → l.stats = [] → l.closing = none → (∀ x ∈ s.gangs, x.2.group ≠ s.names) →
        (∀ x ∈ s.gangs, ∀ y ∈ x.2.slices, ∀ n f, y.stall ≠ some (.phase (spadBase s.names) n f)) →
        let grp := s.names
        let g (t : State) := t.group grp
        EndsIn (.groupPlace p q c) s fun t =>
          (g t).live = true ∧ (g t).launch = some n ∧ (g t).ctx = l.ctx ∧ (g t).part = l.part ∧ (g t).core = c ∧ (g t).groupid = l.next
          ∧ (g t).ngangs = l.gangs ∧ (g t).nslices = l.slices ∧ (g t).ageing = l.ageing ∧ (∀ i, get 0 (g t).wreg i = (l.params[i]?).getD 0)
          ∧ (g t).stack = l.pword % 256 ∧ (g t).spad = l.pword / 2 ^ 8 % 256 ∧ (g t).parkShare = l.pword / 2 ^ 16 % 256
          ∧ (∀ j, j < l.gangs → let y := t.gang (grp + 1 + j)
              y.group = grp ∧ y.core = c ∧ y.gangid = j ∧ y.nslices = l.slices ∧ y.live = true ∧ y.stopped = false ∧ y.regs = {}
              ∧ y.path = y.present ∧ y.exited = 0 ∧ y.sys = { fpctl := w32 l.fpctl, utvec := w64 l.utvec } ∧ y.level = b2n (s.ctx l.ctx).runtime
              ∧ y.slices = List.replicate l.slices { pc := pcMake l.entry 0, last := s.clock } ∧ y.sched.born = s.clock)
          ∧ t.names = grp + 1 + l.gangs ∧ t.bar (spadBase grp) = Bar.init l.gangs
          ∧ t.launch n = { l with next := l.next + 1, tile := none, placed := l.placed + 1 } ∧ (∀ j, j ≠ n → t.launch j = s.launch j)
          ∧ queues t { k with granted := some s.clock, since := none, reserving := none } ∧ (t.part p).grantAt = some s.clock
          ∧ (∀ j, j ≠ grp → t.group j = s.group j) ∧ (∀ j, (j ≤ grp ∨ grp + 1 + l.gangs ≤ j) → t.gang j = s.gang j)
          ∧ (t.core c).ctx = some l.ctx ∧ (∀ j, j ≠ c → t.core j = s.core j)
          ∧ ∀ a, (a < bufBase c ∨ bufBase c + 0x40000 ≤ a) → (a < spadBase grp ∨ spadBase grp + 64 ≤ a) → t.byte a = s.byte a)
    ∧ ((∀ u, k.since = some u → k.reserving = none → u + 65536 ≤ s.clock → s.headOf p q ≠ none → s.fits p q = false →
          EndsIn (.queueReserving p q) s fun t => t = { s with queues := t.queues } ∧ queues t { k with reserving := some s.clock })
        ∧ ((k.since = none ∨ s.fits p q = true) → exec (.queueReserving p q) s = .next s))
    ∧ (let pt := s.part p
      (pt.live = true → pt.period < s.clock / 25000 → EndsIn (.budgetPeriod p) s fun t => t = { s with parts := t.parts }
          ∧ (∀ j, j ≠ p → t.part j = s.part j) ∧ t.part p = { pt with period := s.clock / 25000, balance := (t.part p).balance }
          ∧ ∀ (i b : Nat) (x : Int), pt.budgets[i]? = some b → pt.balance[i]? = some x → (t.part p).balance[i]?
              = some (if b = 0xFFFFFFFF then x else if 0 ≤ x then (b : Int) else max ((b : Int) + x) 0))
      ∧ ((pt.live = false ∨ s.clock / 25000 ≤ pt.period) → exec (.budgetPeriod p) s = .next s))

/-- The commands of a core's array queue, the reduction unit, the decoder and the queues' receivers carry out the oldest that
they hold. MATRIX_PASS: each accumulator of an active row is the cell of its strip, the plane's column and the old accumulator;
SLAB_LOAD: the plane holds the bytes and scales of 32 columns; BAND_DRAIN: each row is stored as R203 forms it; BAND_PARK:
images are stored or restored; CRU_ROUND_COMPLETE: the combined words, and one completion word in the window towards q12;
DECODER_TABLE_LOAD and DECODE_CHUNK; QUEUE_RECEIVE takes the next entry in order or refuses it with back-off, QUEUE_REPLAY
resends (09 R193 to R210; 10 R232, R233; 11 R273 to R276). Here where nothing is poisoned or reserved and all eight lanes of a
quarter are present. -/
def Obligations.ArrayAndQueueEvents : Prop :=
  ∀ (s : State) (c : Nat),
    let core := s.core c
    let band (t : State) (b : Nat) := (t.core c).band b
    let same (x y : Band) : Prop := x = { y with acc := x.acc, dirty := x.dirty, faulted := x.faulted, home := x.home }
    (∀ (q : QCmd) (rest : List QCmd), core.array = q :: rest →
      (∀ x ∈ rest.head?, (∀ bs, x.cmd ≠ .mzero bs) ∧ ∀ k, x.cmd ≠ .mswap k) → core.bands.length = 4 →
      (s.gang q.gang).core = c → (∀ x ∈ rest, x.gang ≠ q.gang) →
      let g := s.gang q.gang
      let frame (t : State) : Prop := (t.core c).array = rest ∧ (∀ k, k ≠ c → t.core k = s.core k) ∧ (∀ k, k ≠ q.gang → t.gang k = s.gang k)
        ∧ (t.gang q.gang).regs = g.regs ∧ (t.gang q.gang).slices = g.slices
      let counted (t : State) : Prop := (t.gang q.gang).counts = { g.counts with tiles := g.counts.tiles - 1 }
      let others (t : State) (bs : List Nat) : Prop := ∀ b, b ∉ bs → band t b = core.band b
      (∀ odn pl r, q.cmd = .pass odn pl [r] → r.port = false →
        let P := core.plane pl
        let row (l : Nat) := s.pathBytes 3 c (bufBase c + r.od.rowAt (r.row + l % 8) r.slab P.kslab) (r.od.slabBytes P.kslab)
        let scl (l : Nat) := s.pathBytes 3 c (bufBase c + r.od.scaleAt (r.row + l % 8) r.slab P.kslab) (r.od.scaleCount P.kslab)
        (∀ t' ∈ s.credits, t'.tile ≠ some (q.gang, r.ticket)) → r.band < 4 → r.q < 4 → q.at_ + 4 < s.clock → P.faulted = false →
        P.bytes.length ≤ 32 → (∀ l, l / 8 = r.q → has g.present l = true) →
        (∀ l, l / 8 = r.q → has r.lanes l = true → r.od.reserved (row l) = false
          ∧ s.poisoned (bufBase c + r.od.rowAt (r.row + l % 8) r.slab P.kslab) (r.od.slabBytes P.kslab) = false
          ∧ s.poisoned (bufBase c + r.od.scaleAt (r.row + l % 8) r.slab P.kslab) (r.od.scaleCount P.kslab) = false) →
        EndsIn (.matrixPass c) s fun t => frame t ∧ counted t ∧ SameMemory s t ∧ others t [r.band] ∧ same (band t r.band) (core.band r.band)
          ∧ t = { s with gangs := t.gangs, cores := t.cores, parts := t.parts, rereads := t.rereads }
          ∧ ∀ l n, l / 8 = r.q → n < 32 → get 0 (band t r.band).acc (32 * (l % 8) + n) =
              match P.bytes[n]?, P.scales[n]? with
              | some cb, some cs => if has r.lanes l = true then
                  (cell r.kind (r.od.strip P.kslab (row l) (scl l)) (P.od.strip P.kslab cb cs)
                    (get 0 (core.band r.band).acc (32 * (l % 8) + n))).1
                else get 0 (core.band r.band).acc (32 * (l % 8) + n)
              | _, _ => get 0 (core.band r.band).acc (32 * (l % 8) + n))
      ∧ (∀ o j pl, q.cmd = .mlds o j pl → core.planes.length = 2 → pl < 2 →
        let col (n : Nat) := s.pathBytes 3 c (bufBase c + o.rowAt n j o.depth) (o.slabBytes o.depth)
        let sc (n : Nat) := s.pathBytes 3 c (bufBase c + o.scaleAt n j o.depth) (o.scaleCount o.depth)
        (∀ n, n < 32 → o.reserved (col n) = false ∧ s.poisoned (bufBase c + o.rowAt n j o.depth) (o.slabBytes o.depth) = false
          ∧ s.poisoned (bufBase c + o.scaleAt n j o.depth) (o.scaleCount o.depth) = false) →
        EndsIn (.slabLoad c) s fun t => frame t ∧ counted t ∧ SameMemory s t ∧ others t []
          ∧ t = { s with gangs := t.gangs, cores := t.cores, parts := t.parts, rereads := t.rereads } ∧ (∀ p, p ≠ pl → (t.core c).plane p = core.plane p)
          ∧ (t.core c).plane pl = { loaded := true, faulted := false, slab := j, od := o, kslab := o.depth
                                    bytes := (List.range 32).map col, scales := (List.range 32).map sc })
      ∧ (∀ r, q.cmd = .drain r → bit r.ctl 8 = false → r.band < 4 → (∀ l, has r.lanes l = true → l / 8 = r.q) →
        let bd := core.band r.band
        let at_ (l : Nat) := s.localFlat q.group (r.addr + l % 8 * (r.ctl / 2 ^ 16 % 2 ^ 16))
        let out (l : Nat) := (drainRow (r.ctl % 32) (r.ctl / 2 ^ 10 % 16) r.kind r.mode
          (if bit r.ctl 5 then some (get 0 r.scale l) else none) (fun n => get 0 r.draws (32 * l + n)) (fun n => get 0 bd.acc (32 * (l % 8) + n))).1
        (∀ l l', has r.lanes l = true → has r.lanes l' = true → l ≠ l' →
          at_ l + (out l).length ≤ at_ l' ∨ at_ l' + (out l').length ≤ at_ l) →
        (∀ l, has r.lanes l = true → s.poisoned (at_ l) (out l).length = false) →
        EndsIn (.bandDrain c) s fun t => frame t ∧ others t [r.band] ∧ same (band t r.band) bd
          ∧ (∀ l, has r.lanes l = true → t.bytes (at_ l) (out l).length = out l)
          ∧ (∀ a, (∀ l, has r.lanes l = true → a < at_ l ∨ at_ l + (out l).length ≤ a) → t.byte a = s.byte a)
          ∧ (∀ i n, i < 8 → n < 32 → get 0 (band t r.band).acc (32 * i + n)
              = if bit r.ctl 6 = true ∧ has r.lanes (8 * r.q + i) = true then 0 else get 0 bd.acc (32 * i + n))
          ∧ (r.phase = none → (∀ x ∈ s.credits, x.tile ≠ some (q.gang, r.ticket)) → counted t ∧ t.credits = s.credits)
          ∧ ∀ obj ph, r.phase = some (obj, ph) → (t.gang q.gang).counts = g.counts ∧ t.credits = s.credits
              ++ [{ obj := obj, phase := ph, nbytes := ((lanesOf r.lanes).map fun l => (out l).length).sum, tile := some (q.gang, r.ticket) }])
      ∧ (∀ off stride, let slot (b : Nat) := parkBase q.group + off + b * stride
        (∀ bs, q.cmd = .park off bs stride → (bs.map Prod.fst).Nodup → (∀ x ∈ bs, imageBytes x.2 ≤ stride
            ∧ s.poisoned (slot x.1) (imageBytes x.2) = false) → EndsIn (.bandPark c) s fun t => frame t ∧ counted t ∧ others t []
          ∧ (∀ x ∈ bs, t.bytes (slot x.1) (imageBytes x.2) = bandImage x.2 (core.band x.1).acc)
          ∧ ∀ a, (∀ x ∈ bs, a < slot x.1 ∨ slot x.1 + imageBytes x.2 ≤ a) → t.byte a = s.byte a)
        ∧ ∀ bs, q.cmd = .unpark off bs stride → (bs.map Prod.fst).Nodup →
            (∀ x ∈ bs, x.1 < 4 ∧ s.poisoned (slot x.1) (imageBytes x.2.1) = false) →
            EndsIn (.bandPark c) s fun t => frame t ∧ counted t ∧ SameMemory s t ∧ others t (bs.map Prod.fst)
              ∧ ∀ x ∈ bs, same (band t x.1) (core.band x.1) ∧ (band t x.1).faulted = x.2.2 ∧ (band t x.1).dirty = false
                ∧ ∀ i, i < 256 → get 0 (band t x.1).acc i
                    = if x.2.1 = 1 then s.num (slot x.1 + 8 * i) 8 else s.num (slot x.1 + 4 * i) 4))
    ∧ (core.array = [] → ∀ i, i = .matrixPass c ∨ i = .slabLoad c ∨ i = .bandDrain c ∨ i = .bandPark c → exec i s = .next s)
    ∧ (∀ (u home : Nat) (r : Round), s.rounds = [(home, [r])] → r.parts.length = r.size →
        (∃ p ∈ r.parts, (s.gang p.2.gang).core / 4 = u) → (∀ p ∈ r.parts, (s.group p.2.group).live = true) →
        let parts := r.parts.map Prod.snd
        let bs := (credCombine r.op r.n (parts.map Contrib.words)).flatMap (toBytes 4)
        (∀ p ∈ parts, (s.link (portKey p.gang 12)).window.length < 16 ∧ s.poisoned p.dst bs.length = false) →
        (∀ (i j : Nat) (p p' : Contrib), parts[i]? = some p → parts[j]? = some p' → i ≠ j →
          p.dst + bs.length ≤ p'.dst ∨ p'.dst + bs.length ≤ p.dst) →
        EndsIn (.cruRoundComplete u) s fun t =>
          (∀ p ∈ parts, t.bytes p.dst bs.length = bs ∧ t.link (portKey p.gang 12) = { s.link (portKey p.gang 12) with
            window := (s.link (portKey p.gang 12)).window
              ++ [((s.link (portKey p.gang 12)).nextSend, [w32 (r.op * 2 ^ 30 + r.n * 2 ^ 16 + r.number % 65536)], 0xFFFFFFFF#32)]
            nextSend := (s.link (portKey p.gang 12)).nextSend + 1 })
          ∧ (∀ k, (∀ p ∈ parts, k ≠ portKey p.gang 12) → t.link k = s.link k)
          ∧ (∀ a, (∀ p ∈ parts, a < p.dst ∨ p.dst + bs.length ≤ a) → t.byte a = s.byte a)
          ∧ t.rounds = [] ∧ t.groups = s.groups ∧ t.gangs = s.gangs)
    ∧ (∀ sl tb rest, core.decLoad = (sl, tb) :: rest → EndsIn (.decoderTableLoad c) s fun t => t = { s with cores := t.cores }
        ∧ (∀ k, k ≠ c → t.core k = s.core k) ∧ t.core c = { core with decLoad := rest, dec := (t.core c).dec }
        ∧ ∀ k, find (t.core c).dec k = if k = sl then some tb else find core.dec k)
    ∧ (core.decLoad = [] → exec (.decoderTableLoad c) s = .next s)
    ∧ (∀ gk ws m rest, (s.link (portKey gk 13)).recv = (ws, m) :: rest →
        ((s.gang gk).chunks.length < 8 → s.still gk = false → EndsIn (.decodeChunk gk) s fun t => t = { s with gangs := t.gangs, links := t.links }
          ∧ t.gang gk = { s.gang gk with chunks := (s.gang gk).chunks ++ [s.decodeEntry (s.gang gk).core ws] }
          ∧ (∀ k, k ≠ gk → t.gang k = s.gang k) ∧ t.link (portKey gk 13) = { s.link (portKey gk 13) with recv := rest }
          ∧ ∀ k, k ≠ portKey gk 13 → t.link k = s.link k)
        ∧ ((8 ≤ (s.gang gk).chunks.length ∨ s.still gk = true) → exec (.decodeChunk gk) s = .next s))
    ∧ ∀ k, let x := s.link k
        let only (t : State) (y : Link) : Prop := t.link k = y ∧ ∀ j, j ≠ k → t.link j = s.link j
        (∀ (con e n : Nat) ws m rest, qkey k = .link con e → x.refused = false → x.window = (n, ws, m) :: rest →
          (x.recv.length < 8 → EndsIn (.queueReceive k) s fun t => t = { s with links := t.links } ∧ only t
            { x with window := rest, expect := n + 1, sent := n + 1, recv := x.recv ++ [(ws, m)], delay := 0 })
          ∧ (8 ≤ x.recv.length → let b := if x.delay = 0 then s.backoff k else x.delay
              EndsIn (.queueReceive k) s fun t => t = { s with links := t.links }
                ∧ only t { x with refused := true, resume := s.clock + b, delay := min 1024 (2 * b) }))
        ∧ (∀ ws m rest, x.window = [] → x.recv = (ws, m) :: rest →
            (∀ grp, qkey k = .cru grp → (s.group grp).cru.length + ws.length ≤ 1088 → EndsIn (.queueReceive k) s fun t =>
              t = { s with links := t.links, groups := t.groups } ∧ only t { x with recv := rest }
              ∧ t.group grp = { s.group grp with cru := (s.group grp).cru ++ ws } ∧ ∀ j, j ≠ grp → t.group j = s.group j)
            ∧ ∀ gk j, qkey k = .port gk j → j < 4 → (s.gang gk).rowRoom j ws m = true → EndsIn (.queueReceive k) s fun t =>
                t = { s with links := t.links, gangs := t.gangs } ∧ only t { x with recv := rest }
                ∧ t.gang gk = (s.gang gk).appendRows j ws m ∧ ∀ i, i ≠ gk → t.gang i = s.gang i)
        ∧ (x.refused = true → x.resume ≤ s.clock → EndsIn (.queueReplay k) s fun t => t = { s with links := t.links }
            ∧ only t { x with refused := false })
        ∧ ((x.refused = false ∨ s.clock < x.resume) → exec (.queueReplay k) s = .next s)

/-- The engines and translation. WINDOW_PRESENT: the window whose fill has ended is present. CREDIT adds its bytes to an open
phase, or sets its fault mark. BULK_COPY_COMPLETE writes the record and frees the copy. OBLD_COPY: the source bytes and their
poison stand in the operand buffer. PAGE_WALK: the requester's buffer holds the page. FAULT_RING_RETRY writes the record that
waits, and the gang that owes a trap behind it takes it. QUIESCENT: after 1,024 quiet cycles the context is quiescent, halted or
ended. PAGE_EXPORT writes ciphertext, version and tag to a host buffer and frees the page; PAGE_IMPORT brings it back, or
quarantines the page and fails the context (09 R190; 11 R242, R247, R266, R271; 18 R375, R376, R380 to R384). What the sealed
bytes and the tag are, and that an import is accepted where its bytes are those that the device sealed, is the model's choice
(log entry 6, DESIGN CHOICE), and so are the places of version and tag behind the ciphertext (log entry 107, DESIGN CHOICE). -/
def Obligations.EngineAndTranslationEvents : Prop :=
  ∀ (s : State),
    (∀ (grp e i : Nat), rising s.streams = true →
      let fills (h : Nat) : Prop := ∃ c, find s.streams h = some c ∧ c.group = grp ∧ c.entry = e ∧ c.touch = some i ∧ c.state = 4
        ∧ find ((s.group grp).entry e).wfill i = some c.fillNo
      let ent (t : State) (f : Nat) : CatEntry := (t.group grp).entry f
      let filling : Prop := (ent s e).win i = .filling
      (filling → (∃ h, fills h) → EndsIn (.windowPresent grp e i) s fun t => t = { s with groups := t.groups, veils := t.veils }
          ∧ (∀ h y, find s.streams h = some y → y.group = grp → y.entry = e → y.touch = some i →
            ∀ v ∈ t.veils, v.agent = streamAgent h → v.hides (seat 0 (s.group grp).core) = false)
          ∧ (∀ j, j ≠ grp → t.group j = s.group j) ∧ t.group grp = { s.group grp with cat := (t.group grp).cat }
          ∧ (∀ f, f ≠ e → ent t f = ent s f) ∧ ent t e = { ent s e with wstate := (ent t e).wstate }
          ∧ ∀ j, (ent t e).win j = if j = i then .present else (ent s e).win j)
      ∧ ((¬ filling ∨ ¬ ∃ h, fills h) → exec (.windowPresent grp e i) s = .next s))
    ∧ (∀ (i : Nat) (c : Credit), s.credits[i]? = some c →
      let b := s.bar c.obj
      let n := c.phase % 4
      let done (t : State) : Prop := t.credits = s.credits.eraseIdx i ∧ (∀ a, (a < c.obj ∨ c.obj + 64 ≤ a) → t.byte a = s.byte a)
        ∧ (∀ j, c.tile.map Prod.fst ≠ some j → (t.gang j).counts = (s.gang j).counts)
        ∧ ∀ g k, c.tile = some (g, k) → (∀ q ∈ (s.core (s.gang g).core).array, q.gang ≠ g) → (t.gang g).counts =
            if (s.credits.eraseIdx i).any (fun x => x.tile == some (g, k)) then (s.gang g).counts
            else { (s.gang g).counts with tiles := (s.gang g).counts.tiles - 1 }
      ((b.isOpen c.phase = false ∨ s.creditStill c = true) → exec (.credit i) s = .next s)
      ∧ (b.isOpen c.phase = true → s.creditStill c = false → s.poisoned c.obj 64 = false →
          (c.mark = none → EndsIn (.credit i) s fun t => done t
            ∧ t.bar c.obj = ({ b with landed := b.landed.set n ((nth b.landed n + c.nbytes) % 2 ^ 32) } : Bar).settle)
          ∧ ∀ info, c.mark = some info → info < 2 ^ 16 → EndsIn (.credit i) s fun t => done t
            ∧ t.bar c.obj = { b with flt := Nat.lor b.flt (2 ^ n), finfo := b.finfo.set n info }))
    ∧ (∀ (b : Nat) (x : Bulk), find s.bulks b = some x →
      ((x.todo ≠ [] ∨ x.fault ≠ none ∨ (s.ctx x.ctx).state ≠ .resident ∨ s.bulkParked x.part b = true) →
        exec (.bulkCopyComplete b) s = .next s)
      ∧ ∀ h hr r rr, x.todo = [] → x.fault = none → (s.ctx x.ctx).state = .resident → s.bulkParked x.part b = false → x.noRec = false → x.imp = false →
        let die := x.die
        let ls := s.num (h + 4) 4
        s.engXl die x.ctx x.ring 64 true = .ok h hr → 1 ≤ ls → ls ≤ 16 →
        s.engXl die x.ctx (x.ring + 0x40 + 32 * (s.num h 4 % 2 ^ ls)) 32 true = .ok r rr →
        (isHost h = true ∨ isHost r = true → (s.part x.part).linked = true) → s.poisoned h 4 = false → s.poisoned r 32 = false →
        (r + 32 ≤ h ∨ h + 4 ≤ r) → EndsIn (.bulkCopyComplete b) s fun t =>
          t = { s with gangs := t.gangs, bulks := t.bulks, mem := t.mem, inked := t.inked, poison := t.poison, veils := t.veils
                       parts := t.parts, free := t.free }
          ∧ (∀ v ∈ t.veils, v.agent = bulkAgent b → v.records = [r]) ∧ (∀ j, find t.bulks j = if j = b then none else find s.bulks j) ∧ (∀ j, j ≠ x.gang → t.gang j = s.gang j)
          ∧ t.gang x.gang = { s.gang x.gang with counts := { (s.gang x.gang).counts with copies := (s.gang x.gang).counts.copies - 1 } }
          ∧ t.num h 4 = (s.num h 4 + 1) % 2 ^ 32
          ∧ (let (st, code, va) := x.ended.getD (0, 0, 0)
            t.num r 4 = st % 2 ^ 32 ∧ (st ≠ 2 → t.num (r + 4) 4 = code % 2 ^ 32 ∧ t.num (r + 8) 8 = x.got % 2 ^ 64 ∧ t.num (r + 24) 8 = va % 2 ^ 64)
            ∧ (st = 2 → t.num (r + 4) 4 = 0 ∧ t.num (r + 8) 8 = 0 ∧ t.num (r + 24) 8 = 0))
          ∧ t.num (r + 16) 4 = x.tag.toNat ∧ t.num (r + 20) 4 = 0
          ∧ ∀ a, (a < h ∨ h + 4 ≤ a) → (a < r ∨ r + 32 ≤ a) → t.byte a = s.byte a)
    ∧ (∀ (i : Nat) (x : Obld), find s.oblds i = some x →
      let at_ (n : Nat) : Nat := bufBase x.core + x.base + ((x.src.take n).map Prod.snd).sum
      let link : Prop := (s.part (s.partOf (s.gang x.gang))).linked = true
      let asked : Prop := (∀ p ∈ x.src, peerOf p.1 = none) ∨ x.flits ≠ [] ∧ s.answered x.flits = true
      let balance : Prop := s.mayStart (s.partOf (s.gang x.gang)) 4 = true
      (((∃ p ∈ x.src, isHost p.1 = true) ∧ ¬ link ∨ ¬ balance) → exec (.obldCopy i) s = .next s)
      ∧ (((∃ p ∈ x.src, isHost p.1 = true) → link) → balance → asked →
          (∀ v ∈ s.veils, v.flat + v.old.length ≤ 2 ^ 56 ∨ 2 ^ 56 ≤ v.flat) → x.base % 8 = 0 → (∀ p ∈ x.src, p.2 % 8 = 0 ∧ p.1 + p.2 ≤ 2 ^ 56) →
          at_ x.src.length ≤ 2 ^ 62 → EndsIn (.obldCopy i) s fun t =>
            t = { s with gangs := t.gangs, oblds := t.oblds, mem := t.mem, inked := t.inked, poison := t.poison, veils := t.veils
                         parts := t.parts, free := t.free }
            ∧ (∀ j, find t.oblds j = if j = i then none else find s.oblds j) ∧ (∀ j, j ≠ x.gang → t.gang j = s.gang j)
            ∧ t.gang x.gang = { s.gang x.gang with counts := { (s.gang x.gang).counts with copies := (s.gang x.gang).counts.copies - 1 } }
            ∧ (∀ (n pa len : Nat), x.src[n]? = some (pa, len) → t.bytes (at_ n) len = s.pathBytes 3 x.core pa len
                ∧ ∀ w, w < len / 8 → t.isPoison (at_ n + 8 * w)
                  = (s.poisoned (pa + 8 * w) 8 || s.unreachable pa || (isHost pa && s.poisoned pa len)))
            ∧ ∀ a, (a < at_ 0 ∨ at_ x.src.length ≤ a) → t.byte a = s.byte a))
    ∧ (∀ (x c va : Nat),
      ((2 ^ 56 ≤ va ∨ (s.ctx x).state ≠ .resident) → exec (.pageWalk x c va) s = .next s)
      ∧ (va < 2 ^ 56 → (s.ctx x).state = .resident → c < 256 → (s.core c).ctx ≠ some x → exec (.pageWalk x c va) s = .next s)
      ∧ ∀ us, (c < 256 ∧ (s.core c).ctx = some x ∧ us = [c, 1024 + c / 64]) ∨ (1024 ≤ c ∧ c < 1028 ∧ us = [c]) →
          va < 2 ^ 56 → (s.ctx x).state = .resident →
          (∀ page ro, s.pageOf us x va = .ok page ro → EndsIn (.pageWalk x c va) s fun t => t = { s with tlb := t.tlb }
              ∧ (∃ y, t.tlbAt c x (va / 65536) = some y ∧ y.pa = page ∧ y.ro = ro)
              ∧ (∀ u ∈ us, (t.tlbAt u x (va / 65536)).isSome = true) ∧ ∀ u, u ∉ us → get [] t.tlb u = get [] s.tlb u)
          ∧ ((∀ page ro, s.pageOf us x va ≠ .ok page ro) → exec (.pageWalk x c va) s = .next s))
    ∧ (∀ (p : Nat),
      let h := hostBase + (s.part p).fring
      let seq := s.num h 4
      let slot := h + 64 + 128 * (seq % 2 ^ s.num (h + 8) 4)
      let calm : Prop := (∀ g ∈ s.gangs, g.2.owed = none) ∧ (∀ l ∈ s.launches, l.2.part ≠ p) ∧ (s.part p).hangs = []
      (((s.part p).waiting ≠ [] ∧ s.ringRoom p = false ∨ (s.part p).linked = false) → calm → exec (.faultRingRetry p) s = .next s)
      ∧ ((s.part p).waiting = [] → calm → EndsIn (.faultRingRetry p) s fun t => t = { s with parts := t.parts } ∧ ∀ q, t.part q = s.part q)
      ∧ (∀ gk g r ss x, (s.gangs.filter fun y => y.2.owed.isSome) = [(gk, g)] → s.gang gk = g → g.owed = some (ss, x) → s.partOf g = p →
          s.launches = [] → (s.part p).hangs = [] → (s.part p).waiting = [r] → s.ringRoom p = true → ∃ w : State, w = { s with parts := w.parts, mem := w.mem, inked := w.inked, poison := w.poison }
          ∧ (w.part p).waiting = [] ∧ exec (.faultRingRetry p) s = .next ((w.mapGang gk fun y => { y with owed := none }).trap gk ss x))
      ∧ ∀ r, (s.part p).waiting = [r] → s.ringRoom p = true → calm → (s.part p).fring + 2 ^ 23 ≤ 2 ^ 51 → EndsIn (.faultRingRetry p) s fun t =>
          t = { s with parts := t.parts, mem := t.mem, inked := t.inked, poison := t.poison } ∧ (∀ q, q ≠ p → t.part q = s.part q)
          ∧ t.part p = { s.part p with waiting := [], faults := (t.part p).faults }
          ∧ (∀ j, find (t.part p).faults j = if j = seq then some r else find (s.part p).faults j)
          ∧ t.num h 4 = (seq + 1) % 2 ^ 32 ∧ t.bytes slot 128 = s.recordBytes seq r
          ∧ ∀ a, (a < h ∨ h + 4 ≤ a) → (a < slot ∨ slot + 128 ≤ a) → t.byte a = s.byte a)
    ∧ (∀ (x : Nat),
      let c := s.ctx x
      ((c.state ≠ .stopping ∨ s.stopSettled x = false ∨ c.quietFor < 1024) → exec (.quiescent x) s = .next s)
      ∧ (c.state = .stopping → s.stopSettled x = true → 1024 ≤ c.quietFor → rising s.streams = true → s.halves = [] →
          (∀ p ∈ s.streams, s.groupIn x p.2.group = true → p.2.regs.cur = none) →
          (c.ending = false → EndsIn (.quiescent x) s fun t => t = { s with ctxs := t.ctxs, pages := t.pages, streams := t.streams, veils := t.veils }
            ∧ (∀ v ∈ t.veils, s.groupIn x v.group = true → ∀ p, p < 6 → v.shownTo p)
            ∧ t.ctx x = { c with state := if c.halting then .halted else .quiescent, quietFor := 0, halting := false }
            ∧ (∀ y, y ≠ x → t.ctx y = s.ctx y)
            ∧ (∀ k g, find s.pages k = some g → find t.pages k
                = some (if g.wait = some x then { g with busy := false, stat := 0, wait := none } else g))
            ∧ ∀ h y, find s.streams h = some y → find t.streams h = some (if s.groupIn x y.group = true ∧ y.state ∈ [1, 2, 3, 6] then
                { y with regs := y.check, arrived := 0, expected := 0, beats := [], out := [], reading := none, flits := [], pausing := false }
                else y))
          ∧ (c.ending = true → s.launches = [] → s.queues = [] → (s.part c.part).closing = 0 → EndsIn (.quiescent x) s fun t =>
              (t.ctx x).state = .none ∧ (∀ y, y ≠ x → t.ctx y = s.ctx y)
              ∧ (∀ k g, find s.groups k = some g → g.ctx = x → find t.groups k = none)
              ∧ ∀ k g, find s.pages k = some g → g.wait = some x → find t.pages k = some { g with busy := false, stat := 0, wait := none })))
    ∧ (∀ (x pa buf : Nat),
      let c := s.ctx x
      let w := c.world
      let a := hostBase + buf
      let v := get 0 s.chip.versions w + 1
      let n := s.chip.nextTicket
      let tag := Config.gcmTag (w + s.chip.epoch * 64) v (exportAad w n v ++ s.bytes pa 65536)
      ((w = 0 ∨ c.state = .none ∨ s.provOf pa ≠ 4 * w + 1 ∨ (s.part c.part).linked = false) → exec (.pageExport x pa buf) s = .next s)
      ∧ (w ≠ 0 → w < 63 → c.state ≠ .none → pa % 65536 = 0 → isHbm pa = true → s.provOf pa = 4 * w + 1 → buf + 65560 ≤ 2 ^ 51 →
          (s.part c.part).linked = true → EndsIn (.pageExport x pa buf) s fun t =>
            t = { s with mem := t.mem, inked := t.inked, poison := t.poison, tlb := t.tlb, prov := t.prov, chip := t.chip, free := s.free + 1 }
            ∧ t.chip = { s.chip with tickets := t.chip.tickets, nextTicket := (n + 1) % 2 ^ 32, versions := t.chip.versions }
            ∧ (∀ j, get 0 t.chip.versions j = if j = w then v else get 0 s.chip.versions j)
            ∧ (∀ j, find t.chip.tickets j = if j = n then
                some { ctx := x, world := w, version := v, tag := tag, plain := s.bytes pa 65536, sealing := s.free } else find s.chip.tickets j)
            ∧ t.provOf pa = 0 ∧ (∀ b, b / 65536 ≠ pa / 65536 → t.provOf b = s.provOf b)
            ∧ (∀ u y, y ∈ get [] t.tlb u → y.maps pa 65536 = false) ∧ (∀ b, pa ≤ b → b < pa + 65536 → t.byte b = 0)
            ∧ (∀ i, i < 65536 → t.byte (a + i) = Config.sealed s.free (s.bytes pa 65536) i)
            ∧ t.num (a + 65536) 8 = v % 2 ^ 64 ∧ t.num (a + 65544) 16 = tag % 2 ^ 128
            ∧ ∀ b, (b < pa ∨ pa + 65536 ≤ b) → (b < a ∨ a + 65560 ≤ b) → t.byte b = s.byte b))
    ∧ ∀ (p n pa buf : Nat),
      (find s.chip.tickets n = none → exec (.pageImport p n pa buf) s = .next s)
      ∧ ∀ k, find s.chip.tickets n = some k →
        let a := hostBase + buf
        let genuine : Prop := (∀ i, i < 65536 → s.byte (a + i) = Config.sealed k.sealing k.plain i)
          ∧ s.num (a + 65536) 8 = k.version ∧ s.num (a + 65544) 16 = k.tag
        (s.ctx k.ctx).part = p → pa % 65536 = 0 → isHbm pa = true → s.provOf pa % 4 = 0 → s.provOf pa / 4 ≠ 63 → buf < 2 ^ 51 →
        (s.part p).linked = true → k.plain.length = 65536 →
        (genuine → EndsIn (.pageImport p n pa buf) s fun t =>
          t = { s with mem := t.mem, inked := t.inked, poison := t.poison, tlb := t.tlb, prov := t.prov, chip := t.chip }
          ∧ t.chip = { s.chip with tickets := t.chip.tickets } ∧ (∀ j, find t.chip.tickets j = if j = n then none else find s.chip.tickets j)
          ∧ t.bytes pa 65536 = k.plain ∧ t.provOf pa = (4 * k.world + 1) % 256 ∧ (∀ b, b / 65536 ≠ pa / 65536 → t.provOf b = s.provOf b)
          ∧ ∀ b, (b < pa ∨ pa + 65536 ≤ b) → t.byte b = s.byte b)
        ∧ (¬ genuine → EndsIn (.pageImport p n pa buf) s fun t => t.provOf pa = 3 ∧ t.chip.tickets = s.chip.tickets
          ∧ (t.ctx k.ctx).state = (if (s.ctx k.ctx).ending then (s.ctx k.ctx).state else .failed) ∧ (∀ y, y ≠ k.ctx → t.ctx y = s.ctx y)
          ∧ ∀ gk g, find s.gangs gk = some g → g.live = true → s.ctxOf g = k.ctx → (t.gang gk).regs = g.regs
              ∧ (t.gang gk).stopped = ((s.ctx k.ctx).ending && g.stopped)
              ∧ (g.unexited ≠ 0 → { code := cIntegrity, aux := w64 n } ∈ (t.gang gk).work.posted))

/-- The host's commands. A command of a page that runs one already or cannot be reached is ignored; one of a partition that is
not ready ends with status 3. QBIND, CTXNEW, CTXSTOP, CTXEND, FRESUME, FEND, THAW, BIND, ACCESSION, PGSET and SSTAB of a control
page, and PCREATE, PRESET, PDESTROY and CHIPSET of the management page, do what R401 to R405 and R411 say, or end with the
status of what refuses them. A register write sets an argument or tok, or runs the command whose code it writes; pages 10 and 11
stand for what the host gives Ecolmut, the admission list and the trusted groups (19 R400 to R405, R410, R411; 18 R380, R384).
The status codes of refusals that the manual does not number are the model's (log entry 60, DESIGN CHOICE), and so are pages 10
and 11 (log entry 66, DESIGN CHOICE) and what a misaligned ering stores (log entry 102, DESIGN CHOICE); what PRESET keeps and
clears (log entry 67, DEDUCED) and the number of the final usage record (log entry 68, DEDUCED) are its reading. -/
def Obligations.HostCommands : Prop :=
  ∀ (s : State) (p : Nat),
    let pg := s.page p
    let A (i : Nat) : Nat := nth (pg.args.map BitVec.toNat) i
    let x := A 0 % 64
    let c := s.ctx x
    let mine : Prop := c.state ≠ .none ∧ c.part = p
    let page (t : State) (g : Page) : Prop := t.page p = g ∧ ∀ k, k ≠ p → t.page k = s.page k
    let stat (n : Nat) : Page := { pg with busy := false, stat := n, wait := none, waitPart := none }
    let only (i : Instr) (n : Nat) : Prop := EndsIn i s fun t => t = { s with pages := t.pages } ∧ page t (stat n)
    let wait : Page := { pg with busy := true, wait := some x }
    let ctx (t : State) (y : Ctx) : Prop := t.ctx x = y ∧ ∀ k, k ≠ x → t.ctx k = s.ctx k
    let stops (t : State) : Prop := ∀ k g, find s.gangs k = some g →
      find t.gangs k = some (if s.ctxOf g = x then { g with stopped := true } else g)
    let calm : Prop := s.launches = [] ∧ s.queues = []
    let open_ : Prop := p < 8 ∧ (s.part p).linked = true ∧ pg.busy = false
    (∀ i, i ∈ [Instr.qbind p, .ctxnew p, .ctxstop p, .ctxend p, .fresume p, .fend p, .thaw p, .bind p, .accession p, .pgset p, .sstab p] →
      (¬ open_ → exec i s = .next s) ∧ (open_ → ((s.part p).live = false ∨ (s.part p).closing ≠ 0) → only i 3))
    ∧ (open_ → (s.part p).live = true → (s.part p).closing = 0 →
      (let y := bits (A 0) 8 6
        let q := A 0 % 64
        let fine : Prop := (s.ctx y).state ≠ .none ∧ (s.ctx y).part = p ∧ A 1 % 64 = 0 ∧ A 1 < 2 ^ 56
        (fine → EndsIn (.qbind p) s fun t => t = { s with pages := t.pages, queues := t.queues } ∧ page t (stat 0)
          ∧ t.queue p q = { s.queue p q with bind := some (y, A 1) } ∧ ∀ p' q', q' < 64 → ¬ (p' = p ∧ q' = q) → t.queue p' q' = s.queue p' q')
        ∧ (¬ fine → only (.qbind p) 2))
      ∧ (let w := bits (A 0) 16 6
        let rt := bit (A 0) 24
        let fine : Prop := (w = 0 ∨ bit (s.part p).worlds w = true) ∧ A 1 % 8192 = 0 ∧ isHbm (A 1) = true
          ∧ bit (s.part p).halves (A 1 / 2 ^ 35) = true ∧ s.provOf (A 1) = 4 * w + 1 ∧ (rt = true → w = 0)
        let second : Prop := rt = true ∧ ∃ k y, (k, y) ∈ s.ctxs ∧ y.part = p ∧ y.state ≠ .none ∧ y.runtime = true
        (c.state ≠ .none → only (.ctxnew p) (if c.part = p then 3 else 2))
        ∧ (c.state = .none → ¬ fine → only (.ctxnew p) 2) ∧ (c.state = .none → fine → second → only (.ctxnew p) 3)
        ∧ (c.state = .none → fine → ¬ second → EndsIn (.ctxnew p) s fun t => t = { s with pages := t.pages, ctxs := t.ctxs } ∧ page t (stat 0)
            ∧ ctx t { state := .resident, part := p, root := A 1, world := w, runtime := rt }))
      ∧ ((¬ mine → only (.ctxstop p) 2 ∧ only (.ctxend p) 2)
        ∧ (mine → (c.state = .saved ∨ c.state = .failed) → only (.ctxstop p) 3)
        ∧ (mine → (c.state = .quiescent ∨ c.state = .halted) → only (.ctxstop p) 0)
        ∧ (mine → c.state = .resident →
            let to_ (e : Bool) (t : State) : Prop := t = { s with pages := t.pages, ctxs := t.ctxs, gangs := t.gangs } ∧ page t wait ∧ stops t
              ∧ ctx t { c with state := .stopping, halting := false, quietFor := 0, ending := e || c.ending }
            EndsIn (.ctxstop p) s (to_ false) ∧ EndsIn (.ctxend p) s (to_ true))
        ∧ (mine → c.state = .stopping →
            EndsIn (.ctxstop p) s (fun t => t = { s with pages := t.pages, ctxs := t.ctxs } ∧ page t wait ∧ ctx t c)
            ∧ EndsIn (.ctxend p) s fun t => t = { s with pages := t.pages, ctxs := t.ctxs } ∧ page t wait ∧ ctx t { c with ending := true })
        ∧ (mine → c.state = .failed → EndsIn (.ctxend p) s fun t => t = { s with pages := t.pages, ctxs := t.ctxs, gangs := t.gangs }
            ∧ page t wait ∧ stops t ∧ ctx t { c with state := .stopping, ending := true, quietFor := 0 })
        ∧ (mine → (c.state = .quiescent ∨ c.state = .halted ∨ c.state = .saved) → calm → EndsIn (.ctxend p) s fun t =>
            (t.page p).busy = false ∧ (t.page p).stat = 0 ∧ (t.ctx x).state = .none ∧ (∀ k, k ≠ x → t.ctx k = s.ctx k)
            ∧ (∀ k g, find s.groups k = some g → g.ctx = x → find t.groups k = none) ∧ ∀ k, k ≠ p → t.part k = s.part k))
      ∧ (let seq := A 0 % 2 ^ 32
        let gone (t : State) : Prop := t.part p = { s.part p with faults := (t.part p).faults } ∧ (∀ k, k ≠ p → t.part k = s.part k)
          ∧ ∀ j, find (t.part p).faults j = if j = seq then none else find (s.part p).faults j
        let due (r : FaultRec) : Prop := find (s.part p).faults seq = some r ∧ (r.kind = 1 ∨ r.kind = 2)
        ((¬ ∃ r, due r) → only (.fresume p) 2 ∧ only (.fend p) 2)
        ∧ ∀ r, due r →
          ((∀ l ∈ s.launches, l.2.addWait ≠ some seq ∧ l.2.statWait ≠ some seq) → EndsIn (.fresume p) s fun t =>
            t = { s with pages := t.pages, parts := t.parts, gangs := t.gangs, streams := t.streams, bulks := t.bulks, queues := t.queues }
            ∧ page t (stat 0) ∧ gone t
            ∧ (∀ k g, find s.gangs k = some g → g.page.map (fun f => f.seq) ≠ some seq ∨ s.partOf g ≠ p → find t.gangs k = some g)
            ∧ (∀ k g f, find s.gangs k = some g → g.page = some f → f.seq = seq → s.partOf g = p → f.entry = none →
                (t.gang k).page = none ∧ (t.gang k).regs = g.regs ∧ (g.sched.park = some .page → (t.gang k).sched.park = none)
                ∧ (t.gang k).slices = (g.onSlices f.slices fun _ y =>
                  { y with reexec := if f.lanes = 0 then y.reexec else some f.lanes, rep := none, stall := none }).slices)
            ∧ (∀ k y, find s.streams k = some y → y.fault = some seq → (s.group y.group).part = p →
                find t.streams k = some { y with fault := none, state := if y.stopping then 3 else 1, stopping := false })
            ∧ (∀ k y, find s.bulks k = some y → y.fault = some seq → y.part = p → find t.bulks k = some { y with fault := none })
            ∧ ∀ q, q < 64 → t.queue p q = { s.queue p q with
                fault := if (s.queue p q).fault = some seq then none else (s.queue p q).fault
                hfault := if (s.queue p q).hfault = some seq then none else (s.queue p q).hfault })
          ∧ (¬ ((s.ctx r.ctx).state ≠ .none ∧ (s.ctx r.ctx).part = p) → EndsIn (.fend p) s fun t => t = { s with pages := t.pages, parts := t.parts }
              ∧ page t (stat 0) ∧ gone t)
          ∧ ((s.ctx r.ctx).state = .resident → (s.ctx r.ctx).part = p → EndsIn (.fend p) s fun t =>
              t = { s with pages := t.pages, parts := t.parts, ctxs := t.ctxs, gangs := t.gangs } ∧ page t { pg with busy := true, wait := some r.ctx }
              ∧ gone t ∧ (∀ k, k ≠ r.ctx → t.ctx k = s.ctx k)
              ∧ t.ctx r.ctx = { s.ctx r.ctx with state := .stopping, halting := false, quietFor := 0, ending := true }
              ∧ ∀ k g, find s.gangs k = some g → find t.gangs k = some (if s.ctxOf g = r.ctx then { g with stopped := true } else g)))
      ∧ (let ready : Prop := s.chip.session = true ∧ (s.part p).session = true ∧ (s.part p).ide = true
        let back (y : Ctx) : Prop := y.part = p ∧ y.state = .quiescent ∧ y.linkStop = true ∧ y.world ≠ 0
        (¬ ready → only (.thaw p) 3)
        ∧ (ready → EndsIn (.thaw p) s fun t => t = { s with pages := t.pages, ctxs := t.ctxs, gangs := t.gangs } ∧ page t (stat 0)
          ∧ (∀ k, (back (s.ctx k) → t.ctx k = { s.ctx k with state := .resident, linkStop := false }) ∧ (¬ back (s.ctx k) → t.ctx k = s.ctx k))
          ∧ ∀ k g, find s.gangs k = some g → (back (s.ctx (s.ctxOf g)) →
              find t.gangs k = some { g with stopped := false, sched := { g.sched with active := false } })
            ∧ (¬ back (s.ctx (s.ctxOf g)) → find t.gangs k = some g)))
      ∧ ((¬ (mine ∧ A 1 + 64 ≤ 2 ^ 51) → only (.bind p) 2)
        ∧ (mine → A 1 + 64 ≤ 2 ^ 51 → EndsIn (.bind p) s fun t => t = { s with pages := t.pages, ctxs := t.ctxs } ∧ page t (stat 0)
          ∧ ctx t { c with binding := some (s.bytes (hostBase + A 1) 64) }))
      ∧ ((¬ (mine ∧ A 1 % 4096 = 0) → only (.accession p) 2) ∧ (mine → A 1 % 4096 = 0 → c.binding = none → only (.accession p) 3)
        ∧ ∀ b, mine → A 1 % 4096 = 0 → c.binding = some b →
          ((s.ecolPlaces x (A 1 + 4096) (A 2) false = none ∨ s.ecolPlaces x (A 1) 4096 true = none) → only (.accession p) 5)
          ∧ ∀ ps d, s.ecolPlaces x (A 1 + 4096) (A 2) false = some ps → s.ecolPlaces x (A 1) 4096 true = some [(d, 4096)] →
              s.poisoned d 4096 = false → EndsIn (.accession p) s fun t =>
              t = { s with pages := t.pages, mem := t.mem, inked := t.inked, poison := t.poison, chip := { s.chip with serial := s.chip.serial + 1 } }
              ∧ page t (stat 0) ∧ t.bytes d 4096 = s.accessionRecord b (ps.flatMap fun q => s.bytes q.1 q.2)
              ∧ ∀ a, (a < d ∨ d + 4096 ≤ a) → t.byte a = s.byte a)
      ∧ (let b := A 2 % 256
        let at_ (i : Nat) : Nat := A 0 + 65536 * i
        let clears (i : Nat) : Prop := b % 4 = 0 ∨ (b % 4 = 1
          ∧ ¬ (s.provOf (at_ i) / 4 = b / 4 ∧ (s.provOf (at_ i) % 4 = 1 ∨ s.provOf (at_ i) % 4 = 2)))
        let key (v : Nat) : Nat := if v % 4 = 2 then 0 else v / 4
        let changes (n : Nat) (t : State) : Prop := (∀ i, i < n → t.provOf (at_ i) = b
            ∧ (∀ u y, y ∈ get [] t.tlb u → y.maps (at_ i) 65536 = false)
            ∧ ∀ j, j < 65536 → (clears i → t.byte (at_ i + j) = 0)
              ∧ (¬ clears i → key (s.provOf (at_ i)) = key b → t.byte (at_ i + j) = s.byte (at_ i + j)))
          ∧ (∀ a, (a < A 0 ∨ at_ n ≤ a) → t.byte a = s.byte a ∧ t.provOf a = s.provOf a)
        (A 0 % 65536 ≠ 0 → only (.pgset p) 2)
        ∧ (A 0 % 65536 = 0 →
          ((∀ i, i < A 1 → s.pgsetOk p (at_ i) b = true) → EndsIn (.pgset p) s fun t => page t (stat 0) ∧ changes (A 1) t)
          ∧ ∀ n, n < A 1 → (∀ i, i < n → s.pgsetOk p (at_ i) b = true) → s.pgsetOk p (at_ n) b = false →
              EndsIn (.pgset p) s fun t => page t { stat 5 with res := w64 (at_ n) } ∧ changes n t))
      ∧ (let fine : Prop := A 0 % 16 = 0 ∧ A 1 < 2 ^ 32 ∧ ∀ i, i < (A 0 % 65536 + 16 * A 1 + 65535) / 65536 →
          let pa := A 0 + 65536 * i
          isHbm pa = true ∧ bit (s.part p).halves (pa / 2 ^ 35) = true ∧ s.provOf pa = 1
        (¬ fine → only (.sstab p) 2)
        ∧ (fine → EndsIn (.sstab p) s fun t => t = { s with pages := t.pages, parts := t.parts } ∧ page t (stat 0)
          ∧ t.part p = { s.part p with sstab := A 0, sscount := A 1 } ∧ ∀ k, k ≠ p → t.part k = s.part k)))
    ∧ (p = 8 → let y := A 0 % 8
      (pg.busy = true → ∀ i, i ∈ [Instr.pcreate, .preset, .pdestroy, .chipset] → exec i s = .next s)
      ∧ (pg.busy = false →
        (let cons := A 1
          let halves := A 2 % 2 ^ 24
          let b := s.bytes (hostBase + A 3) 256
          let low := lowestHalf halves
          let img := hostBase + field b 0x30 8
          let len := field b 0x38 8
          ((s.part y).live = true → only .pcreate 3)
          ∧ ((s.part y).live = false → s.createOk cons halves (A 3) b = false → only .pcreate 2)
          ∧ ((s.part y).live = false → s.createOk cons halves (A 3) b = true → s.firmwareValid = false → only .pcreate 5)
          ∧ ((s.part y).live = false → s.createOk cons halves (A 3) b = true → s.firmwareValid = true → Memory.wf s.mem → EndsIn .pcreate s fun t =>
              page t { stat 0 with res := w64 low } ∧ (∀ k, k ≠ y → t.part k = s.part k)
              ∧ (let z := t.part y
                z.live = true ∧ z.consorts = cons ∧ z.halves = halves ∧ z.budgets = (List.range 5).map (fun i => field b (4 * i) 4)
                ∧ z.sshare = field b 0x14 2 ∧ z.fring = field b 0x18 8 ∧ z.uring = field b 0x20 8 ∧ z.worlds = field b 0x28 8 ∧ z.born = s.clock
                ∧ z.stvec = 0 ∧ z.closing = 0 ∧ z.sscount = 0 ∧ z.up = (s.part y).up ∧ z.tdi = (s.part y).tdi)
              ∧ (∀ i, i < len → t.byte (low + i) = s.byte (img + i)) ∧ (∀ i, i < (len + 65535) / 65536 → s.provOf (low + 65536 * i) ≠ 253 → t.provOf (low + 65536 * i) = 1)
              ∧ ∀ a, (a < low ∨ low + len ≤ a) → t.byte a = if isHbm a = true ∧ bit halves (a / 2 ^ 35) = true then 0 else s.byte a))
        ∧ ((s.part y).live = false → only .preset 3 ∧ only .pdestroy 3)
        ∧ ((s.part y).live = true → (s.part y).closing = 0 →
            let scrubbed (t : State) (a : Nat) : Prop := t.byte a = if isHbm a = true ∧ bit (s.part y).halves (a / 2 ^ 35) = true then 0 else s.byte a
            ((s.partCtxs y = []) → EndsIn .pdestroy s fun t => (t.page 8).busy = false ∧ (t.page 8).stat = 0
                ∧ (t.part y).live = false ∧ (t.part y).consorts = 0 ∧ (t.part y).halves = 0 ∧ (∀ k, k ≠ y → t.part k = s.part k)
                ∧ (∃ u, u ∈ (t.part y).held ∧ u.final = true ∧ u.seq = (s.part y).seconds + 1 ∧ u.clock = s.clock)
                ∧ (∀ a, scrubbed t a) ∧ ∀ q, q < 64 → t.queue y q = {})
            ∧ ((s.partCtxs y = []) → (s.part y).ptlen = 0 → EndsIn .preset s fun t => (t.page 8).busy = false ∧ (t.page 8).stat = 0
                ∧ t.part y = { s.part y with stvec := 0, stvecOld := [], hold := false, faults := [], waiting := [], hangs := [] }
                ∧ (∀ k, k ≠ y → t.part k = s.part k) ∧ (∀ a, scrubbed t a) ∧ ∀ q, q < 64 → t.queue y q = {})
            ∧ (s.partCtxs y ≠ [] → rising s.ctxs = true → (∀ k ∈ s.partCtxs y, (s.ctx k).state = .resident) →
                let goes (how : Nat) (t : State) : Prop := page t { pg with busy := true, waitPart := some y } ∧ t.part y = { s.part y with closing := how }
                  ∧ (∀ k, k ≠ y → t.part k = s.part k) ∧ (∀ k, k ∉ s.partCtxs y → t.ctx k = s.ctx k) ∧ SameMemory s t
                  ∧ ∀ k ∈ s.partCtxs y, t.ctx k = { s.ctx k with state := .stopping, halting := false, quietFor := 0, ending := true }
                EndsIn .preset s (goes 1) ∧ EndsIn .pdestroy s (goes 2)))
        ∧ ((∃ q ∈ s.chip.ports, q.2.up = true) → only .chipset 3)
        ∧ ((∀ q ∈ s.chip.ports, q.2.up = false) → EndsIn .chipset s fun t =>
            t = { s with pages := t.pages, chip := { s.chip with number := A 0 % 2 ^ 12 } } ∧ page t (stat 0))))
    ∧ ∀ (off v : Nat),
      let set_ (f : Chip → Chip) : Prop := exec (.registerWrite 9 off v) s = .next { s with chip := f s.chip }
      let n := v % 16
      ((p ≤ 8 → (p < 8 → (s.part p).linked = true) →
        (off = 4 → EndsIn (.registerWrite p off v) s fun t => t = { s with pages := t.pages } ∧ page t { pg with tok := w32 v })
        ∧ (off ∈ [8, 16, 24, 32] → EndsIn (.registerWrite p off v) s fun t => t = { s with pages := t.pages }
            ∧ page t { pg with args := pg.args.set (off / 8 - 1) (w64 v) })
        ∧ (∀ k i, (p < 8 ∧ (k, i) ∈ [(1, Instr.qbind p), (2, .ctxnew p), (3, .ctxstop p), (4, .ctxend p), (5, .fresume p), (6, .fend p),
              (7, .thaw p), (8, .bind p), (9, .accession p), (10, .pgset p), (11, .sstab p)])
            ∨ (p = 8 ∧ (k, i) ∈ [(0x20, Instr.pcreate), (0x21, .preset), (0x22, .pdestroy), (0x23, .chipset)]) →
            v % 256 = k → exec (.registerWrite p 0 v) s = exec i s)
        ∧ (pg.busy = false → (p < 8 → v % 256 = 0 ∨ 12 ≤ v % 256) → (p = 8 → v % 256 < 0x20 ∨ 0x24 ≤ v % 256) → only (.registerWrite p 0 v) 1))
      ∧ (p < 8 → (s.part p).linked = false → exec (.registerWrite p off v) s = .next s)
      ∧ (off = 0 → set_ fun c => { c with ering := v % 2 ^ 64 / 64 * 64 })
      ∧ (off = 8 → set_ fun c => { c with elsize := if 1 ≤ n ∧ n ≤ 12 then n else 12 })
      ∧ (off = 16 → set_ fun c => { c with fwpa := v % 2 ^ 64 }) ∧ (off = 24 → set_ fun c => { c with fwlen := v % 2 ^ 32 })
      ∧ (let a := (off % 4096, v % 2 ^ 256, v / 2 ^ 256)
        exec (.registerWrite 10 off v) s = .next { s with chip := { s.chip with admitted := s.chip.admitted.filter (· != a) ++ [a] } })
      ∧ EndsIn (.registerWrite 11 off v) s fun t => t = { s with chip := { s.chip with trusted := t.chip.trusted } }
        ∧ ∀ w, get [] t.chip.trusted w = if w = off then (get [] s.chip.trusted off).filter (· != v % 4096) ++ [v % 4096] else get [] s.chip.trusted w)

/-- Resets, the link, the host's accesses and SPDM. HOT_RESET leaves host memory and other chips' memory, no context, no
partition, no session and every port down, and boots a staged image. VF_FLR resets the partition and its function's registers.
LINK_DOWN stops the protected contexts; LINK_RETURN and IDE_KEY_PROGRAMMING bring the link and keys back. HOST_MEMORY_ACCESS
reads, writes or updates its own memory and the pages that are host-shared or world 0's, else it is refused and logged; it reads
the registers of a function that the link carries. An SPDM request is answered where the connection has come far enough, else
with an error (19 R398, R399, R405; 18 R379; 07 R168; 20 R416, R423, R424). The connection's states and the message bytes are
the model's (log entry 62, PRESUMED), and so are the TDI's states at LINK_DOWN, LINK_RETURN and IDE_KEY_PROGRAMMING (log entry
61, DESIGN CHOICE) and what HOT_RESET keeps (log entry 66, DESIGN CHOICE); what VF_FLR keeps (log entry 67, DEDUCED) and how
registers are read (log entry 70, DEDUCED) are its reading. -/
def Obligations.ResetsLinksAndSessions : Prop :=
  ∀ (s : State),
    (EndsIn .hotReset s fun t =>
      t = { State.reset with agenda := s.agenda, turn := s.turn, free := t.free, names := s.names, mem := t.mem, poison := t.poison, chip := t.chip }
      ∧ (∀ a, t.byte a = if isHost a = true ∨ 2 ^ 62 ≤ a then s.byte a else 0)
      ∧ (∀ a, t.isPoison a = if isHost a = true ∨ (2 ^ 62 ≤ a ∧ a < 2 ^ 80) then s.isPoison a else false)
      ∧ (∀ k, find t.chip.ports k = (find s.chip.ports k).map fun q => { q with up := false, key := none })
      ∧ t.chip = { s.chip with
          ports := t.chip.ports, flits := [], trusted := [], spdm := 0, session := false, tickets := [], ering := 0, elsize := 0
          fwpa := 0, fwlen := 0, corr := 0, corrUnit := [], epoch := s.chip.epoch + 1
          serial := t.chip.serial, errors := t.chip.errors, egap := t.chip.egap, image := t.chip.image
          boot := t.chip.boot, hmap := t.chip.hmap, unavailable := t.chip.unavailable, broken := [] }
      ∧ (s.chip.broken = [] → t.chip.hmap = s.chip.hmap ∧ t.chip.unavailable = s.chip.unavailable)
      ∧ t.firmwareValid = firmwareOk t.firmware ∧ (s.chip.fwlen = 0 → t.chip.image = s.chip.image)
      ∧ (s.chip.broken = [] → s.chip.fwlen = 0 → t.free = s.free ∧ t.chip.serial = s.chip.serial ∧ t.chip.errors = s.chip.errors ∧ t.chip.egap = s.chip.egap)
      ∧ (s.chip.broken = [] → s.chip.fwlen ≠ 0 →
          t.chip.serial = s.chip.serial + 1 ∧ ∃ r, r ∈ t.chip.errors ∧ r.kind = 6 ∧ r.serial = s.chip.serial)
      ∧ (s.chip.fwlen ≠ 0 →
          let img := s.bytes (hostBase + s.chip.fwpa) s.chip.fwlen
          let good : Prop := s.chip.fwpa + s.chip.fwlen ≤ 2 ^ 51 ∧ Config.shake256 (Config.firmwareKey img) = Config.vendorDigest
            ∧ Config.verifies (Config.firmwareKey img) (Config.firmwareBody img) (Config.firmwareSignature img) = true
            ∧ Config.minimumVersion ≤ Config.securityVersion img
          (good → t.firmware = img ∧ t.firmwareValid = true ∧ t.measure 1 = Config.shake256 img ∧ t.measure 2 = Config.microcode img)
          ∧ (¬ good → t.chip.image = s.chip.image)))
    ∧ (∀ (p : Nat),
      let pt := s.part p
      let others (t : State) : Prop := ∀ k, k ≠ p → t.part k = s.part k
      (8 ≤ p → ∀ i, i ∈ [Instr.vfFlr p, .linkDown p, .linkReturn p, .ideKeyProgramming p] → exec i s = .next s)
      ∧ (p < 8 →
        (let blank (t : State) : Prop := t.page p = {} ∧ (∀ k, k ≠ p → (s.page k).waitPart ≠ some p → t.page k = s.page k) ∧ others t
        ((pt.live = false ∨ pt.closing ≠ 0) → EndsIn (.vfFlr p) s fun t => t = { s with pages := t.pages } ∧ blank t ∧ ∀ k, k ≠ p → t.page k = s.page k)
        ∧ (pt.live = true → pt.closing = 0 → s.partCtxs p = [] → pt.ptlen = 0 → EndsIn (.vfFlr p) s fun t => blank t
              ∧ t.part p = { pt with stvec := 0, stvecOld := [], hold := false, faults := [], waiting := [], hangs := [] } ∧ (∀ q, q < 64 → t.queue p q = {})
              ∧ ∀ a, t.byte a = if isHbm a = true ∧ bit pt.halves (a / 2 ^ 35) = true then 0 else s.byte a)
        ∧ (pt.live = true → pt.closing = 0 → s.partCtxs p ≠ [] → rising s.ctxs = true → (∀ k ∈ s.partCtxs p, (s.ctx k).state = .resident) →
              EndsIn (.vfFlr p) s fun t => blank t ∧ t.part p = { pt with closing := 1 } ∧ SameMemory s t
                ∧ (∀ k ∈ s.partCtxs p, t.ctx k = { s.ctx k with state := .stopping, halting := false, quietFor := 0, ending := true })
                ∧ ∀ k, k ∉ s.partCtxs p → t.ctx k = s.ctx k))
        ∧ (let stops (y : Ctx) : Prop := y.part = p ∧ y.state = .resident ∧ y.world ≠ 0
          rising s.ctxs = true → EndsIn (.linkDown p) s fun t => t = { s with parts := t.parts, ctxs := t.ctxs, gangs := t.gangs, free := t.free } ∧ others t
            ∧ (t.part p).linked = false ∧ (let cut : Part := { pt with ide := false, session := false }
              t.part p = { cut with up := false } ∨ t.part p = { cut with tdi := .unlocked } ∨ t.part p = { cut with tdi := .error })
            ∧ (∀ k, (stops (s.ctx k) → t.ctx k = { s.ctx k with state := .stopping, halting := false, quietFor := 0, linkStop := true })
              ∧ (¬ stops (s.ctx k) → t.ctx k = s.ctx k))
            ∧ ∀ k g, find s.gangs k = some g → (stops (s.ctx (s.ctxOf g)) → find t.gangs k = some { g with stopped := true })
              ∧ (¬ stops (s.ctx (s.ctxOf g)) → find t.gangs k = some g))
        ∧ ((∀ l ∈ s.launches, l.2.part ≠ p) → (∀ g ∈ s.gangs, g.2.owed = none) → pt.hangs = [] →
          (pt.waiting = [] → EndsIn (.linkReturn p) s fun t => t = { s with parts := t.parts } ∧ others t ∧ t.part p = { pt with up := true, tdi := .run })
          ∧ ∀ r, pt.waiting = [r] → (s.setPart p { pt with up := true, tdi := .run }).ringRoom p = true → pt.fring + 2 ^ 23 ≤ 2 ^ 51 →
            let h := hostBase + pt.fring
            let slot := h + 64 + 128 * (s.num h 4 % 2 ^ s.num (h + 8) 4)
            EndsIn (.linkReturn p) s fun t => t.bytes slot 128 = s.recordBytes (s.num h 4) r ∧ t.num h 4 = (s.num h 4 + 1) % 2 ^ 32 ∧ others t
              ∧ t.part p = { pt with up := true, tdi := .run, waiting := [], faults := (t.part p).faults }
              ∧ find (t.part p).faults (s.num h 4) = some r ∧ ∀ a, (a < h ∨ h + 2 ^ 23 ≤ a) → t.byte a = s.byte a)
        ∧ EndsIn (.ideKeyProgramming p) s fun t => t = { s with parts := t.parts } ∧ others t
            ∧ t.part p = { pt with ide := true, tdi := if pt.tdi = .unlocked then .locked else pt.tdi }))
    ∧ (∀ (op a n data cmp : Nat),
      let i := Instr.hostMemoryAccess op a n data cmp
      let own : Prop := 2 ^ 51 ≤ a ∧ a + n ≤ 2 ^ 52
      let carried : Prop := ∀ q ∈ s.parts, q.2.live = true → isHbm a = true → bit q.2.halves (a / 2 ^ 35) = true → q.2.linked = true
      let visible : Prop := a + n ≤ 0xC000000000 ∧ ∀ b, a / 65536 ≤ b → b ≤ (a + n - 1) / 65536 →
        s.provOf (65536 * b) / 4 ≠ 63 ∧ (s.provOf (65536 * b) % 4 = 2 ∨ s.provOf (65536 * b) = 1)
      let shape : Prop := 0 < n ∧ n ≤ 4096 ∧ op ≤ 4 ∧ (op < 2 ∨ ((n = 4 ∨ n = 8) ∧ a % n = 0))
      let d := data % 2 ^ (8 * n)
      let old := s.num a n
      let gives (r : Reply) (t : State) : Prop := t = { s with mem := t.mem, inked := t.inked, poison := t.poison, chip := { s.chip with reply := r } }
      let becomes (v : Nat) (t : State) : Prop := t.num a n = v ∧ ∀ b, (b < a ∨ a + n ≤ b) → t.byte b = s.byte b
      let fn := a / 2 ^ 16
      let reads (o k x : Nat) : Prop := a % 2 ^ 16 = o → n = k → exec i s = .next { s with chip := { s.chip with reply := { value := x } } }
      (op = 5 → (8 < fn ∨ (fn < 8 ∧ (s.part fn).up = false)) → exec i s = .next s)
      ∧ (op = 5 → (fn = 8 ∨ (fn < 8 ∧ (s.part fn).up = true)) →
        let g := s.page fn
        reads 0 4 0 ∧ reads 4 4 g.tok.toNat ∧ reads 0x30 8 g.res.toNat ∧ (g.args.length = 4 → ∀ k v, g.args[k]? = some v → reads (8 + 8 * k) 8 v.toNat)
        ∧ (g.stat < 2 ^ 31 → reads 0x28 4 (g.stat + if g.busy then 2 ^ 31 else 0))
        ∧ (fn = 8 → s.chip.ering < 2 ^ 64 → reads 0x2000 8 s.chip.ering)
        ∧ (fn = 8 → s.chip.corr < 2 ^ 64 → reads 0x2020 8 s.chip.corr)
        ∧ (fn = 8 → ∀ d k, d < 4 → k < 512 → reads (0x2100 + 512 * d + k) 1 (s.hmapByte d k).toNat))
      ∧ (op ≠ 5 → ¬ own → ¬ carried → exec i s = .next s)
      ∧ (op ≠ 5 → (own ∨ carried) →
        (¬ (shape ∧ (own ∨ visible)) → exec i s = .next { s with chip := { s.chip with logged := s.chip.logged + 1, reply := { status := 1 } } })
        ∧ (shape → (own ∨ visible) →
          (op = 0 → exec i s = .next { s with chip := { s.chip with reply := { value := old, poison := s.poisoned a n } } })
          ∧ (op = 1 → s.poisoned a n = false → EndsIn i s fun t => gives {} t ∧ becomes d t)
          ∧ (2 ≤ op → s.poisoned a n = true → exec i s = .next { s with chip := { s.chip with reply := { value := old, poison := true } } })
          ∧ (2 ≤ op → s.poisoned a n = false → EndsIn i s fun t => gives { value := old } t
              ∧ becomes (if op = 2 then (old + d) % 2 ^ (8 * n) else if op = 3 then d
                else if old = cmp % 2 ^ (8 * n) then d else old) t))))
    ∧ ∀ (nonce : Nat),
      let c := s.chip
      let text (code m : Nat) (data : List Byte) : List Byte := (List.range 32).map (Config.spdmByte code m) ++ data
      let signed (m : Nat) (bs : List Byte) : List Byte := bs ++ (List.range 3309).map (Config.signature c.number (bs ++ toBytes 32 m))
      let mail (i : Instr) (y : Chip) : Prop := exec i s = .next { s with chip := y }
      let error (i : Instr) (code : Nat) : Prop := mail i { c with mail := (List.range 4).map (Config.spdmByte 0x7F code) }
      mail .getVersion { c with spdm := 1, mail := text 0x84 0 [] }
      ∧ (if 1 ≤ c.spdm then mail .getCapabilities { c with spdm := 2, mail := text 0xE1 0 [] } else error .getCapabilities 0xE1)
      ∧ (if 2 ≤ c.spdm then mail .negotiateAlgorithms { c with spdm := 3, mail := text 0xE3 0 [] } else error .negotiateAlgorithms 0xE3)
      ∧ (3 ≤ c.spdm → mail .getDigests { c with mail := text 0x81 0 (toBytes 32 Config.identityDigest) }
        ∧ mail .getCertificate { c with mail := text 0x82 0 [] } ∧ mail (.challenge nonce) { c with mail := signed nonce (text 0x83 nonce []) }
        ∧ mail (.getMeasurements nonce) { c with
            mail := signed nonce (text 0xE0 nonce (toBytes 32 (s.measure 1) ++ toBytes 32 (s.measure 2) ++ toBytes 32 (s.measure 3) ++ toBytes 32 (s.measure 4))) }
        ∧ mail (.keyExchange nonce) { c with spdm := 4, mail := signed nonce (text 0xE4 nonce []) })
      ∧ (c.spdm < 3 → error .getDigests 0x81 ∧ error .getCertificate 0x82 ∧ error (.challenge nonce) 0x83 ∧ error (.getMeasurements nonce) 0xE0
        ∧ error (.keyExchange nonce) 0xE4)
      ∧ (c.spdm ≠ 4 → error .finish 0xE5)
      ∧ (c.spdm = 4 → EndsIn .finish s fun t => t = { s with parts := t.parts, chip := { c with spdm := 3, session := true, mail := text 0xE5 0 [] } }
          ∧ ∀ k, find t.parts k = (find s.parts k).map fun q => { q with session := true })
      ∧ (c.session = true → mail .keyUpdate { c with mail := text 0xE9 0 [] } ∧ mail .endSession { c with session := false, mail := text 0xEC 0 [] })
      ∧ (c.session = false → error .keyUpdate 0xE9 ∧ error .endSession 0xEC)

/-- Other chips, metering records and repair. PORT_TRAINING opens a port to an admitted peer only; flits are accepted in
sequence, buffered up to 64 ahead, dropped beyond, a duplicate acknowledged again; they are resent after 10,000 cycles and given
up at the 64th resend; a crossbar request is sent again after 2,048, and a duplicate is acknowledged. A peer's access does what
its kind says where the second stage allows it. Usage records close each 2,500,000,000 cycles; ring records are written in order
where there is room. The scrubber counts a corrected error and poisons an uncorrectable one; a spare way or a partner slice
takes the place of a failing one, and a failing core or row waits for its spare or makes its consort unavailable; a containment
stops contexts and traffic and leaves a record (19 R406 to R410, R414; 20 R415, R416, R420 to R422, R425). The encodings of
these events are the model's (log entries 63 and 103, DESIGN CHOICE), and so are a containment's hold and its mark on contexts
(log entry 61, DESIGN CHOICE) and which lines a failing slice or way holds (log entry 65, DESIGN CHOICE); giving up at the 64th
resend (log entry 64, DEDUCED), the number of a usage record (log entry 68, DEDUCED) and that a failing row or core waits for a
reset (log entry 96, DEDUCED) are its reading. -/
def Obligations.HuturRecordsAndRepair : Prop :=
  ∀ (s : State),
    let c := s.chip
    let noPort : Prop := ∀ q ∈ c.ports, q.2.up = false
    let flits (t : State) (k : Nat) : Flits := get {} t.chip.flits k
    let logs (t : State) (kind part unit pa detail : Nat) : Prop := t.chip.serial = c.serial + 1
      ∧ ∃ r, t.chip.errors.getLast? = some r ∧ r.kind = kind ∧ r.serial = c.serial ∧ r.clock = s.clock ∧ (part < 8 → r.part = part)
        ∧ r.unit = unit ∧ r.pa = pa ∧ r.detail = detail
    (∀ (port chip digest meas : Nat),
      (12 ≤ port → exec (.portTraining port chip digest meas) s = .next s)
      ∧ (port < 12 → EndsIn (.portTraining port chip digest meas) s fun t => t = { s with chip := t.chip }
          ∧ t.chip = { c with ports := t.chip.ports, logged := t.chip.logged, sessions := t.chip.sessions }
          ∧ (∀ k, k ≠ port → find t.chip.ports k = find c.ports k)
          ∧ ((chip, digest, meas) ∈ c.admitted → find t.chip.ports port = some { up := true, chip := chip, key := some c.sessions }
              ∧ t.chip.logged = c.logged ∧ t.chip.sessions = c.sessions + 1)
          ∧ ((chip, digest, meas) ∉ c.admitted → find t.chip.ports port = some { up := false, chip := chip }
              ∧ t.chip.logged = c.logged + 1 ∧ t.chip.sessions = c.sessions))
      ∧ EndsIn (.huturPortDown port) s fun t => t = { s with chip := { c with ports := t.chip.ports } }
          ∧ ∀ k, find t.chip.ports k = if k = port then (find c.ports k).map fun q => { q with up := false, key := none } else find c.ports k)
    ∧ (∀ (src seq data : Nat), (noPort → exec (.flitReceive src seq data) s = .next s)
      ∧ (¬ noPort → seq < 2 ^ 32 → (flits s src).expect < 2 ^ 32 →
          let f := flits s src
          let d := (seq + 2 ^ 32 - f.expect) % 2 ^ 32
          let ends (P : Flits → Prop) : Prop := EndsIn (.flitReceive src seq data) s fun t => t = { s with chip := { c with flits := t.chip.flits } }
            ∧ (∀ k, k ≠ src → flits t k = flits s k) ∧ P (flits t src)
          (data = 0 → ends fun g => g = { f with unacked := f.unacked.filter fun u => u.seq != seq })
          ∧ (data = 1 → EndsIn (.flitReceive src seq data) s fun t => t = { s with chip := { c with flits := t.chip.flits }, poison := t.poison }
              ∧ (∀ k, k ≠ src → flits t k = flits s k) ∧ flits t src = { f with unacked := f.unacked.filter fun u => u.seq != seq }
              ∧ ∀ w, t.isPoison w = (s.isPoison w || f.unacked.any fun u => u.seq == seq && (protWords u.flat u.len).contains w))
          ∧ (2 ≤ data → d = 0 → ends fun g => g = { f with expect := g.expect, delivered := g.delivered, ahead := g.ahead, acks := g.acks }
              ∧ ∃ ds, g.acks = f.acks ++ ((List.range (ds.length + 1)).map fun i => (f.expect + i) % 2 ^ 32) ∧ g.delivered = f.delivered ++ data :: ds ∧ g.expect = (f.expect + 1 + ds.length) % 2 ^ 32 ∧ ds.length ≤ 64
                ∧ (∀ (i x : Nat), ds[i]? = some x → ((f.expect + 1 + i) % 2 ^ 32, x) ∈ f.ahead)
                ∧ (∀ a ∈ g.ahead, a ∈ f.ahead) ∧ (ds.length < 64 → ∀ a ∈ f.ahead, a.1 ≠ g.expect))
          ∧ (2 ≤ data → 1 ≤ d → d ≤ 64 → (∀ a ∈ f.ahead, a.1 ≠ seq) → ends fun g => g = { f with ahead := f.ahead ++ [(seq, data)] })
          ∧ (2 ≤ data → 2 ^ 31 ≤ d → ends fun g => g = { f with acks := f.acks ++ [seq] })
          ∧ (2 ≤ data → d < 2 ^ 31 → (64 < d ∨ (1 ≤ d ∧ ∃ a ∈ f.ahead, a.1 = seq)) → ends fun g => g = f)))
    ∧ (∀ (dst : Nat), (find c.flits dst = none → exec (.flitResend dst) s = .next s)
      ∧ ∀ f, find c.flits dst = some f →
        let due (u : Flit) : Prop := ¬ noPort ∧ (s.part u.part).hold = false ∧ (u.sent = false ∨ (u.at_ + 10000 ≤ s.clock ∧ u.tries < 64))
        let next (u : Flit) : Flit := if u.sent then { u with tries := u.tries + 1, at_ := s.clock } else { u with sent := true, at_ := s.clock }
        ((∀ u ∈ f.unacked, ¬ due u) → exec (.flitResend dst) s = .next s)
        ∧ ∀ (i : Nat) (u : Flit), f.unacked[i]? = some u → due u → (∀ (j : Nat) (v : Flit), j < i → f.unacked[j]? = some v → ¬ due v) →
          EndsIn (.flitResend dst) s fun t =>
            (∀ k, find t.chip.flits k = if k = dst then some { f with unacked := f.unacked.set i (next u) } else find c.flits k)
            ∧ (∀ k, k ≠ u.part → t.part k = s.part k)
            ∧ ((next u).tries ≠ 64 → t = { s with chip := { c with flits := t.chip.flits }, parts := t.parts })
            ∧ ((next u).tries = 64 → logs t 7 255 (Config.errorUnit s.free) 0 0 ∧ t = { s with chip := t.chip, parts := t.parts, free := s.free + 1 }))
    ∧ (∀ (i : Nat), (s.underway.length ≤ i → exec (.crossbarResend i) s = .next s)
      ∧ ∀ gk id, s.underway[i]? = some (gk, id) →
        let g := s.gang gk
        let late : Prop := ∃ d ∈ g.work.flight, d.id = id ∧ d.at_ + 2048 ≤ s.clock
        (¬ late → exec (.crossbarResend i) s = .next s)
        ∧ (late → EndsIn (.crossbarResend i) s fun t => t = { s with
              gangs := t.gangs, parts := t.parts, chip := { c with flows := t.chip.flows }, free := s.free + 1 }
            ∧ (∀ d, g.work.flight.find? (fun d => d.id == id && decide (d.at_ + 2048 ≤ s.clock)) = some d → ∀ k, get {} t.chip.flows k =
              match d.cross with
              | some (j, n) => if k = j ∧ n < (get {} c.flows k).expect then { get {} c.flows k with acked := some n } else get {} c.flows k
              | none => get {} c.flows k)
            ∧ (∀ k, k ≠ gk → t.gang k = s.gang k) ∧ (∀ k, k ≠ s.partOf g → t.part k = s.part k)
            ∧ t.gang gk = { g with work := { g.work with flight := (t.gang gk).work.flight } } ∧ (t.gang gk).work.flight.length = g.work.flight.length
            ∧ ∀ (j : Nat) (d : Deliv), g.work.flight[j]? = some d → (t.gang gk).work.flight[j]? = some (if d.id = id then { d with at_ := s.clock } else d)))
    ∧ (∀ (kind p ty blk off n data world tier : Nat) (bad : Bool), p < 64 → ty < 32 →
      let op := kind + 16 * p + 1024 * ty + 2 ^ 15 * b2n bad
      let i := Instr.peerWindowAccess op blk off n data world tier
      let pt := s.part p
      let d := data % 2 ^ (8 * n)
      let gives (r : Reply) (t : State) : Prop := t = { s with
          mem := t.mem, inked := t.inked, poison := t.poison, parts := t.parts, chip := { c with reply := r }, free := s.free + 1 }
        ∧ (∀ k, k ≠ p → t.part k = s.part k) ∧ t.part p = { pt with balance := (t.part p).balance, meters := (t.part p).meters }
      kind < 16 →
      ((noPort ∨ pt.live = false ∨ pt.hold = true ∨ 10 < kind ∨ n = 0 ∨ 128 < n) → exec i s = .next s)
      ∧ (¬ noPort → pt.live = true → pt.hold = false → kind ≤ 10 → 1 ≤ n → n ≤ 128 →
        (s.secondStage p blk off n world tier (kind != 0) = none → exec i s = .next { s with chip := { c with reply := { status := 1 } } })
        ∧ ∀ a, s.secondStage p blk off n world tier (kind != 0) = some a →
          let old := s.num a n
          let new := if kind = 1 then d else if kind = 10 then (if old = d then data / 2 ^ (8 * n) % 2 ^ (8 * n) else old) else amo (kind - 2) ty old d
          (isHost a = true → pt.linked = false → exec i s = .next s)
          ∧ ((isHost a = true → pt.linked = true) →
            (kind = 0 → EndsIn i s fun t => gives { value := old, poison := s.poisoned a n } t ∧ SameMemory s t)
            ∧ (2 ≤ kind → s.poisoned a n = true → EndsIn i s fun t => gives { poison := true } t ∧ SameMemory s t)
            ∧ (kind = 1 → bad = true → EndsIn i s fun t => gives {} t ∧ (∀ w, t.isPoison w = (s.isPoison w || (protWords a n).contains w))
                ∧ t.num a n = d ∧ ∀ b, (b < a ∨ a + n ≤ b) → t.byte b = s.byte b)
            ∧ (kind = 1 → bad = false → s.refusedByPoison a n = true → EndsIn i s fun t => gives { poison := true } t ∧ SameMemory s t)
            ∧ (1 ≤ kind → (kind = 1 → bad = false) → s.poisoned a n = false → EndsIn i s fun t => gives (if kind = 1 then {} else { value := old }) t
                ∧ t.num a n = new % 2 ^ (8 * n) ∧ ∀ b, (b < a ∨ a + n ≤ b) → t.byte b = s.byte b))))
    ∧ (∀ (p : Nat),
      let pt := s.part p
      let due : Prop := pt.live = true ∧ pt.born + 2500000000 * (pt.seconds + 1) ≤ s.clock
      let only (t : State) : Prop := ∀ k, k ≠ p → t.part k = s.part k
      (¬ due → exec (.usageRecordClose p) s = .next s)
      ∧ (due → EndsIn (.usageRecordClose p) s fun t => t = { s with parts := t.parts } ∧ only t
          ∧ (let u : Usage := { seq := pt.seconds + 1, clock := s.clock, counters := pt.meters.map (· % 2 ^ 64) }
            t.part p = { pt with
              seconds := pt.seconds + 1, held := if pt.held.length < 8 then pt.held ++ [u] else pt.held.tail ++ [u]
              gap := if pt.held.length < 8 then pt.gap else pt.gap + 1 }))
      ∧ (p < 8 →
        let h := hostBase + pt.uring
        let ls := s.num (h + 8) 4
        let slot := h + 64 + 4096 * (s.num h 4 % 2 ^ ls)
        ((pt.held = [] ∨ s.usageRoom p = false) → exec (.ringRecordWrite p) s = .next s)
        ∧ ∀ u rest, pt.held = u :: rest → s.usageRoom p = true → pt.uring + 2 ^ 25 ≤ 2 ^ 51 → EndsIn (.ringRecordWrite p) s fun t =>
            t = { s with mem := t.mem, inked := t.inked, poison := t.poison, parts := t.parts } ∧ only t
            ∧ (let hash := Config.shake256 (usageBody p pt.gap pt.hprev u) % 2 ^ 256
              t.part p = { pt with held := rest, gap := 0, hprev := hash }
              ∧ t.bytes slot 4096 = signedRecord c.number (usageBody p pt.gap pt.hprev u ++ toBytes 32 hash))
            ∧ t.num h 4 = (s.num h 4 + 1) % 2 ^ 32 ∧ ∀ a, (a < h ∨ h + 8 ≤ a) → (a < slot ∨ slot + 4096 ≤ a) → t.byte a = s.byte a)
      ∧ (8 < p → exec (.ringRecordWrite p) s = .next s))
    ∧ (let h := hostBase + c.ering
      let slot := h + 64 + 4096 * (s.num h 4 % 2 ^ c.elsize)
      ((c.errors = [] ∨ c.ering = 0 ∨ s.recRoom h c.elsize = false) → exec (.ringRecordWrite 8) s = .next s)
      ∧ ∀ r rest, c.errors = r :: rest → c.ering ≠ 0 → s.recRoom h c.elsize = true → c.elsize ≤ 12 → c.ering + 2 ^ 25 ≤ 2 ^ 51 →
          EndsIn (.ringRecordWrite 8) s fun t =>
            t = { s with mem := t.mem, inked := t.inked, poison := t.poison, chip := { c with errors := rest, egap := 0 } }
            ∧ t.bytes slot 4096 = signedRecord c.number (errorFront c.egap r) ∧ t.num h 4 = (s.num h 4 + 1) % 2 ^ 32
            ∧ ∀ a, (a < h ∨ h + 8 ≤ a) → (a < slot ∨ slot + 4096 ≤ a) → t.byte a = s.byte a)
    ∧ (∀ (a err : Nat),
      let w := protAt a
      let m := sliceMark a
      let i := Instr.patrolScrub a err
      let place (x : Nat) : Nat := let v := ((s.ownerAt x).map (·.2.1)).getD 255; if v = 0 ∨ v = 255 then x else x - x % 65536
      let counts (unit pa : Nat) : Prop :=
        let recent := (get [] c.corrUnit unit).filter fun t => decide (s.clock < t + 2 ^ 40)
        EndsIn i s fun t => t = { s with chip := t.chip } ∧ t.chip.corr = min (c.corr + 1) (2 ^ 64 - 1)
          ∧ (recent.length + 1 < 2 ^ 16 → t.chip = { c with corr := t.chip.corr, corrUnit := t.chip.corrUnit }
              ∧ get [] t.chip.corrUnit unit = recent ++ [s.clock])
          ∧ (2 ^ 16 ≤ recent.length + 1 → get [] t.chip.corrUnit unit = [] ∧ logs t 1 255 unit (place pa) 0)
      let poisons (x unit : Nat) (pa : Nat) : Prop := EndsIn i s fun t => t = { s with poison := t.poison, chip := t.chip } ∧ logs t 2 255 unit pa 0
          ∧ ∀ y, t.isPoison y = if y = x then true else s.isPoison y
      (isHost a = true → (err ≠ 2 → exec i s = .next s)
        ∧ (err = 2 → EndsIn i s fun t => t = { s with poison := t.poison } ∧ ∀ y, t.isPoison y = if y = w then true else s.isPoison y))
      ∧ (isHost a = false → err < 3 →
        ((s.scrubbed a = false ∨ s.isPoison w = true ∨ err = 0) → exec i s = .next s)
        ∧ (s.scrubbed a = true → s.isPoison w = false → (err = 1 → counts (s.unitAt a) w)
          ∧ (err = 2 → s.ownerAt a = s.ownerAt w → poisons w (s.unitAt a) (place w))))
      ∧ (isHost a = false → 3 ≤ err →
        ((isHbm a = false ∨ 6 ≤ err ∨ (err < 5 ∧ s.isPoison m = true) ∨ (err = 5 ∧ s.isPoison m = false)) → exec i s = .next s)
        ∧ (isHbm a = true →
          (s.isPoison m = false → (err = 3 → counts (s.sliceUnit a) (markPlace m))
            ∧ (err = 4 → s.ownerAt a = s.ownerAt (markPlace m) → poisons m (s.sliceUnit a) (place (markPlace m))))
          ∧ (err = 5 → s.isPoison m = true → EndsIn i s fun t => t = { s with poison := t.poison }
              ∧ ∀ y, t.isPoison y = if y = protAt (markPlace m) then true else if y = m then false else s.isPoison y))))
    ∧ (∀ (die sl way : Nat),
      let o := 224 + 2 * sl
      let e0 := s.hmapNum die o 1
      let e1 := s.hmapNum die (o + 1) 1
      let pair (x y : Nat) : Nat := if x % 32 < y % 32 then x + y * 256 else y + x * 256
      let fails (i : Instr) : Prop := (32 * die + sl ∈ c.failing → exec i s = .next s) ∧ (32 * die + sl ∉ c.failing → EndsIn i s fun t =>
        (s.liveGangs = [] → t = { s with poison := t.poison, free := t.free, chip := { c with hmap := t.chip.hmap, failing := t.chip.failing } })
        ∧ t.hmapNum die 20 4 = Nat.lor (s.hmapNum die 20 4) (2 ^ sl) ∧ (∀ k, k ∈ t.chip.failing ↔ k ∈ c.failing ∨ k = 32 * die + sl)
        ∧ ∀ d k, k < 512 → d ≠ die ∨ k < 20 ∨ 24 ≤ k → t.hmapByte d k = s.hmapByte d k)
      let takes (x : Nat) : Prop := EndsIn (.wayRepair die sl way) s fun t => t = { s with chip := t.chip, poison := t.poison, free := t.free }
        ∧ t.hmapNum die o 2 = x
        ∧ (∀ d k, k < 512 → d ≠ die ∨ k < o ∨ o + 2 ≤ k → t.hmapByte d k = s.hmapByte d k) ∧ t.chip.failing = c.failing
        ∧ logs t 6 255 (unitOf die 1 sl) 0 (o + x * 65536)
      (¬ (die < 4 ∧ sl < 32) → exec (.sliceFailing die sl) s = .next s) ∧ (die < 4 → sl < 32 → fails (.sliceFailing die sl))
      ∧ ((4 ≤ die ∨ 96 ≤ sl ∨ (32 ≤ sl ∧ 32 < way) ∨ (sl < 32 ∧ (18 ≤ way ∨ e0 % 32 = way ∨ e1 % 32 = way))) →
          exec (.wayRepair die sl way) s = .next s)
      ∧ (die < 4 → 32 ≤ sl → sl < 96 → way ≤ 32 →
        let core := 64 * die + (sl - 32)
        let row := if way < 32 then some way else none
        let b := (core, row.map (s.physicalRow core))
        let becomes (y : Chip) : Prop := exec (.wayRepair die sl way) s = .next { s with chip := y }
        (b ∈ c.broken → exec (.wayRepair die sl way) s = .next s)
        ∧ (b ∉ c.broken → s.hasSpare core row = true → becomes { c with broken := c.broken ++ [b] })
        ∧ (b ∉ c.broken → s.hasSpare core row = false → becomes { c with unavailable := Nat.lor c.unavailable (2 ^ (core / 4)) }))
      ∧ (die < 4 → sl < 32 → way < 18 → e0 % 32 ≠ way → e1 % 32 ≠ way →
        (bit e0 5 = true → takes (pair (way + 128) e1)) ∧ (bit e0 5 = false → bit e1 5 = true → takes (pair e0 (way + 128)))
        ∧ (bit e0 5 = false → bit e1 5 = false → fails (.wayRepair die sl way))))
    ∧ ∀ (unit parts : Nat), rising s.ctxs = true →
      let u := unit % 2 ^ 24
      let hit (p : Nat) : Prop := p < 8 ∧ bit parts p = true ∧ (s.part p).live = true
      let stops (y : Ctx) : Prop := hit y.part ∧ y.state = .resident
      EndsIn (.containment unit parts) s fun t => t = { s with parts := t.parts, ctxs := t.ctxs, gangs := t.gangs, chip := t.chip }
        ∧ (∀ p, (hit p → t.part p = { s.part p with hold := true }) ∧ (¬ hit p → t.part p = s.part p))
        ∧ (∀ k, (stops (s.ctx k) → t.ctx k = { s.ctx k with state := .stopping, halting := false, quietFor := 0, linkStop := true })
          ∧ (¬ stops (s.ctx k) → t.ctx k = s.ctx k))
        ∧ (∀ k g, find s.gangs k = some g → (stops (s.ctx (s.ctxOf g)) → find t.gangs k = some { g with stopped := true })
          ∧ (¬ stops (s.ctx (s.ctxOf g)) → find t.gangs k = some g))
        ∧ (∀ p, hit p → ∃ r, r ∈ t.chip.errors ∧ r.kind = 8 ∧ r.part = p ∧ r.unit = u ∧ r.clock = s.clock)
        ∧ t.chip.failingPorts = c.failingPorts ++ (if bits u 4 4 = 3 then [u] else [])
end

