-- ==== Sys2Proof/Laws/Store.lean ====
section
/-! SUPPORT. The laws of finite maps: reading after writing, and the canonical form. The reading laws hold of every list, in
ascending order or not. -/

namespace Sys2Proof.Machine

variable {α : Type}

/-! ### Reading after writing -/

@[simp] theorem find_put_same (m : Store α) (k : Nat) (v : α) : find (put m k v) k = some v := by
  induction m with
  | nil => simp [put, find]
  | cons p m ih =>
    obtain ⟨j, w⟩ := p
    simp only [put]
    split
    · simp [find]
    · split
      · simp [find]
      · simp [find, *]

theorem find_put_other (m : Store α) {k j : Nat} (v : α) (h : j ≠ k) : find (put m k v) j = find m j := by
  induction m with
  | nil => simp [put, find, h]
  | cons p m ih =>
    obtain ⟨i, w⟩ := p
    simp only [put]
    split
    · simp [find, h]
    · split
      · next e => subst e; simp [find, h]
      · simp only [find, ih]

theorem find_put (m : Store α) (k j : Nat) (v : α) : find (put m k v) j = if j = k then some v else find m j := by
  split
  · next h => subst h; exact find_put_same m j v
  · next h => exact find_put_other m v h

@[simp] theorem find_del_same (m : Store α) (k : Nat) : find (del m k) k = none := by
  induction m with
  | nil => simp [del, find]
  | cons p m ih =>
    obtain ⟨j, w⟩ := p
    by_cases h : j = k
    · subst h; simpa [del, find] using ih
    · have h' : k ≠ j := fun e => h e.symm
      simpa [del, find, h, h'] using ih

theorem find_del_other (m : Store α) {k j : Nat} (h : j ≠ k) : find (del m k) j = find m j := by
  induction m with
  | nil => simp [del, find]
  | cons p m ih =>
    obtain ⟨i, w⟩ := p
    by_cases e : i = k
    · subst e; simpa [del, find, h] using ih
    · simp only [del, List.filter, find]
      simp only [del] at ih
      rw [show (i != k) = true by simpa using e]
      simp only [find, ih]

@[simp] theorem get_put_same (d : α) (m : Store α) (k : Nat) (v : α) : get d (put m k v) k = v := by simp [get]

theorem get_put_other (d : α) (m : Store α) {k j : Nat} (v : α) (h : j ≠ k) : get d (put m k v) j = get d m j := by
  simp [get, find_put_other m v h]

theorem get_put (d : α) (m : Store α) (k j : Nat) (v : α) : get d (put m k v) j = if j = k then v else get d m j := by
  split
  · next h => subst h; simp
  · next h => exact get_put_other d m v h

@[simp] theorem put_put_same (m : Store α) (k : Nat) (v w : α) : put (put m k v) k w = put m k w := by
  induction m with
  | nil => simp [put]
  | cons p m ih =>
    obtain ⟨j, x⟩ := p
    by_cases h : k < j
    · simp [put, h]
    · by_cases e : k = j
      · subst e; simp [put]
      · simp [put, h, e, ih]

section

variable [DecidableEq α]

@[simp] theorem get_set_same (d : α) (m : Store α) (k : Nat) (v : α) : get d (set d m k v) k = v := by
  unfold set
  split
  · next h => simp [get, h]
  · simp

theorem get_set_other (d : α) (m : Store α) {k j : Nat} (v : α) (h : j ≠ k) : get d (set d m k v) j = get d m j := by
  unfold set
  split
  · simp [get, find_del_other m h]
  · exact get_put_other d m v h

theorem get_set (d : α) (m : Store α) (k j : Nat) (v : α) : get d (set d m k v) j = if j = k then v else get d m j := by
  split
  · next h => subst h; simp
  · next h => exact get_set_other d m v h

end

/-! ### Order -/

theorem rising_tail {p : Nat × α} {m : Store α} (h : rising (p :: m) = true) : rising m = true := by
  cases m with
  | nil => rfl
  | cons q m => obtain ⟨j, v⟩ := p; obtain ⟨k, w⟩ := q; simp only [rising, Bool.and_eq_true] at h; exact h.2

/-- A rising map whose keys all lie above a key. -/
theorem rising_cons {j : Nat} {v : α} {m : Store α} :
    rising ((j, v) :: m) = true ↔ (∀ p ∈ m, j < p.1) ∧ rising m = true := by
  induction m generalizing j v with
  | nil => simp [rising]
  | cons q m ih =>
    obtain ⟨k, w⟩ := q
    simp only [rising, Bool.and_eq_true, decide_eq_true_eq, List.mem_cons, forall_eq_or_imp]
    constructor
    · rintro ⟨h, hr⟩
      exact ⟨⟨h, fun p hp => h.trans ((ih.mp hr).1 p hp)⟩, hr⟩
    · rintro ⟨⟨h, -⟩, hr⟩
      exact ⟨h, hr⟩

theorem mem_put {m : Store α} {k : Nat} {v : α} {p : Nat × α} (h : p ∈ put m k v) : p = (k, v) ∨ p ∈ m := by
  induction m with
  | nil => simpa [put] using h
  | cons q m ih =>
    obtain ⟨j, w⟩ := q
    simp only [put] at h
    split at h
    · simpa using h
    · split at h
      · rcases List.mem_cons.mp h with h | h
        · exact .inl h
        · exact .inr (List.mem_cons_of_mem _ h)
      · rcases List.mem_cons.mp h with h | h
        · exact .inr (h ▸ List.mem_cons_self)
        · exact (ih h).imp id (List.mem_cons_of_mem _)

theorem rising_put {m : Store α} (k : Nat) (v : α) (h : rising m = true) : rising (put m k v) = true := by
  induction m with
  | nil => rfl
  | cons q m ih =>
    obtain ⟨j, w⟩ := q
    have hm := rising_cons.mp h
    simp only [put]
    split
    · next hk =>
      refine rising_cons.mpr ⟨fun p hp => ?_, h⟩
      rcases List.mem_cons.mp hp with hp | hp
      · exact hp ▸ hk
      · exact hk.trans (hm.1 p hp)
    · split
      · next e => subst e; exact rising_cons.mpr hm
      · next hk e =>
        refine rising_cons.mpr ⟨fun p hp => ?_, ih hm.2⟩
        rcases mem_put hp with hp | hp
        · subst hp; show j < k; omega
        · exact hm.1 p hp

theorem rising_filter {m : Store α} (f : Nat × α → Bool) (h : rising m = true) : rising (m.filter f) = true := by
  induction m with
  | nil => rfl
  | cons q m ih =>
    obtain ⟨j, w⟩ := q
    have hm := rising_cons.mp h
    by_cases hf : f (j, w) = true
    · rw [List.filter_cons_of_pos hf]
      exact rising_cons.mpr ⟨fun p hp => hm.1 p (List.mem_filter.mp hp).1, ih hm.2⟩
    · rw [List.filter_cons_of_neg hf]
      exact ih hm.2

/-! ### The canonical form -/

section

variable [DecidableEq α] {d : α}

theorem canonical_iff {m : Store α} : canonical d m = true ↔ rising m = true ∧ ∀ p ∈ m, p.2 ≠ d := by
  simp [canonical]

theorem canonical_nil : canonical d ([] : Store α) = true := by simp [canonical, rising]

theorem canonical_put {m : Store α} (k : Nat) {v : α} (hv : v ≠ d) (h : canonical d m = true) :
    canonical d (put m k v) = true := by
  rw [canonical_iff] at h ⊢
  refine ⟨rising_put k v h.1, fun p hp => ?_⟩
  rcases mem_put hp with rfl | hp
  · exact hv
  · exact h.2 p hp

theorem canonical_filter {m : Store α} (f : Nat × α → Bool) (h : canonical d m = true) : canonical d (m.filter f) = true := by
  rw [canonical_iff] at h ⊢
  exact ⟨rising_filter f h.1, fun p hp => h.2 p (List.mem_filter.mp hp).1⟩

theorem canonical_set {m : Store α} (k : Nat) (v : α) (h : canonical d m = true) : canonical d (set d m k v) = true := by
  unfold set
  split
  · exact canonical_filter _ h
  · next hv => exact canonical_put k hv h

/-- A canonical map is its reading: two that read alike everywhere are equal. -/
theorem canonical_ext {m n : Store α} (hm : canonical d m = true) (hn : canonical d n = true)
    (h : ∀ k, get d m k = get d n k) : m = n := by
  have find_low : ∀ {q : Nat × α} {m : Store α}, rising (q :: m) = true → ∀ k, k < q.1 → find (q :: m) k = none := by
    intro q m hr k hk
    have above := (rising_cons (j := q.1) (v := q.2)).mp hr
    have : ∀ l : Store α, (∀ p ∈ l, k < p.1) → find l k = none := by
      intro l hl
      induction l with
      | nil => rfl
      | cons p l ih =>
        obtain ⟨j, w⟩ := p
        have : k ≠ j := Nat.ne_of_lt (hl (j, w) List.mem_cons_self)
        simp [find, this, ih fun p hp => hl p (List.mem_cons_of_mem _ hp)]
    exact this _ fun p hp => by
      rcases List.mem_cons.mp hp with rfl | hp
      · exact hk
      · exact hk.trans (above.1 p hp)
  induction m generalizing n with
  | nil =>
    cases n with
    | nil => rfl
    | cons q n =>
      obtain ⟨j, w⟩ := q
      have := h j
      simp [get, find] at this
      exact absurd this.symm ((canonical_iff.mp hn).2 (j, w) List.mem_cons_self)
  | cons p m ih =>
    obtain ⟨j, v⟩ := p
    cases n with
    | nil =>
      have := h j
      simp [get, find] at this
      exact absurd this ((canonical_iff.mp hm).2 (j, v) List.mem_cons_self)
    | cons q n =>
      obtain ⟨k, w⟩ := q
      have cm := canonical_iff.mp hm
      have cn := canonical_iff.mp hn
      have hjk : j = k := by
        rcases Nat.lt_trichotomy j k with hlt | he | hlt
        · have := h j
          simp only [get, find_low cn.1 j hlt] at this
          simp [find] at this
          exact absurd this (cm.2 (j, v) List.mem_cons_self)
        · exact he
        · have := h k
          simp only [get, find_low cm.1 k hlt] at this
          simp [find] at this
          exact absurd this.symm (cn.2 (k, w) List.mem_cons_self)
      subst hjk
      have hv : v = w := by simpa [get, find] using h j
      subst hv
      have rm := rising_cons.mp cm.1
      have rn := rising_cons.mp cn.1
      congr 1
      refine ih (canonical_iff.mpr ⟨rm.2, fun p hp => cm.2 p (List.mem_cons_of_mem _ hp)⟩)
        (canonical_iff.mpr ⟨rn.2, fun p hp => cn.2 p (List.mem_cons_of_mem _ hp)⟩) fun i => ?_
      by_cases hi : i = j
      · subst hi
        have none_of : ∀ l : Store α, (∀ p ∈ l, i < p.1) → find l i = none := by
          intro l hl
          induction l with
          | nil => rfl
          | cons p l ih =>
            obtain ⟨a, b⟩ := p
            have : i ≠ a := Nat.ne_of_lt (hl (a, b) List.mem_cons_self)
            simp [find, this, ih fun p hp => hl p (List.mem_cons_of_mem _ hp)]
        simp [get, none_of m rm.1, none_of n rn.1]
      · have := h i
        simpa [get, find, hi] using this

end

end Sys2Proof.Machine
end

