-- ==== Sys2Proof/Laws/State.lean ====
section
/-! SUPPORT. One lemma per field per update of the state, each true by definition, so that no later proof unfolds a record
update; and what reading a unit gives after a unit was replaced. -/

namespace Sys2Proof.Machine

variable (s : State)

/-! ### setGang -/

@[simp] theorem State.setGang_clock (k : Nat) (g : Gang) : (s.setGang k g).clock = s.clock := rfl
@[simp] theorem State.setGang_agenda (k : Nat) (g : Gang) : (s.setGang k g).agenda = s.agenda := rfl
@[simp] theorem State.setGang_turn (k : Nat) (g : Gang) : (s.setGang k g).turn = s.turn := rfl
@[simp] theorem State.setGang_free (k : Nat) (g : Gang) : (s.setGang k g).free = s.free := rfl
@[simp] theorem State.setGang_names (k : Nat) (g : Gang) : (s.setGang k g).names = s.names := rfl
@[simp] theorem State.setGang_cur (k : Nat) (g : Gang) : (s.setGang k g).cur = s.cur := rfl
@[simp] theorem State.setGang_mem (k : Nat) (g : Gang) : (s.setGang k g).mem = s.mem := rfl
@[simp] theorem State.setGang_poison (k : Nat) (g : Gang) : (s.setGang k g).poison = s.poison := rfl
@[simp] theorem State.setGang_inked (k : Nat) (g : Gang) : (s.setGang k g).inked = s.inked := rfl
@[simp] theorem State.setGang_prov (k : Nat) (g : Gang) : (s.setGang k g).prov = s.prov := rfl
@[simp] theorem State.setGang_veils (k : Nat) (g : Gang) : (s.setGang k g).veils = s.veils := rfl
@[simp] theorem State.setGang_halves (k : Nat) (g : Gang) : (s.setGang k g).halves = s.halves := rfl
@[simp] theorem State.setGang_rereads (k : Nat) (g : Gang) : (s.setGang k g).rereads = s.rereads := rfl
@[simp] theorem State.setGang_aside (k : Nat) (g : Gang) : (s.setGang k g).aside = s.aside := rfl
@[simp] theorem State.setGang_gangs (k : Nat) (g : Gang) : (s.setGang k g).gangs = put s.gangs k g := rfl
@[simp] theorem State.setGang_groups (k : Nat) (g : Gang) : (s.setGang k g).groups = s.groups := rfl
@[simp] theorem State.setGang_rounds (k : Nat) (g : Gang) : (s.setGang k g).rounds = s.rounds := rfl
@[simp] theorem State.setGang_cores (k : Nat) (g : Gang) : (s.setGang k g).cores = s.cores := rfl
@[simp] theorem State.setGang_links (k : Nat) (g : Gang) : (s.setGang k g).links = s.links := rfl
@[simp] theorem State.setGang_tlb (k : Nat) (g : Gang) : (s.setGang k g).tlb = s.tlb := rfl
@[simp] theorem State.setGang_axis (k : Nat) (g : Gang) : (s.setGang k g).axis = s.axis := rfl
@[simp] theorem State.setGang_streams (k : Nat) (g : Gang) : (s.setGang k g).streams = s.streams := rfl
@[simp] theorem State.setGang_engines (k : Nat) (g : Gang) : (s.setGang k g).engines = s.engines := rfl
@[simp] theorem State.setGang_credits (k : Nat) (g : Gang) : (s.setGang k g).credits = s.credits := rfl
@[simp] theorem State.setGang_bulks (k : Nat) (g : Gang) : (s.setGang k g).bulks = s.bulks := rfl
@[simp] theorem State.setGang_oblds (k : Nat) (g : Gang) : (s.setGang k g).oblds = s.oblds := rfl
@[simp] theorem State.setGang_queues (k : Nat) (g : Gang) : (s.setGang k g).queues = s.queues := rfl
@[simp] theorem State.setGang_launches (k : Nat) (g : Gang) : (s.setGang k g).launches = s.launches := rfl
@[simp] theorem State.setGang_ctxs (k : Nat) (g : Gang) : (s.setGang k g).ctxs = s.ctxs := rfl
@[simp] theorem State.setGang_parts (k : Nat) (g : Gang) : (s.setGang k g).parts = s.parts := rfl
@[simp] theorem State.setGang_pages (k : Nat) (g : Gang) : (s.setGang k g).pages = s.pages := rfl
@[simp] theorem State.setGang_chip (k : Nat) (g : Gang) : (s.setGang k g).chip = s.chip := rfl

/-! ### setGroup -/

@[simp] theorem State.setGroup_clock (k : Nat) (g : Group) : (s.setGroup k g).clock = s.clock := rfl
@[simp] theorem State.setGroup_agenda (k : Nat) (g : Group) : (s.setGroup k g).agenda = s.agenda := rfl
@[simp] theorem State.setGroup_turn (k : Nat) (g : Group) : (s.setGroup k g).turn = s.turn := rfl
@[simp] theorem State.setGroup_free (k : Nat) (g : Group) : (s.setGroup k g).free = s.free := rfl
@[simp] theorem State.setGroup_names (k : Nat) (g : Group) : (s.setGroup k g).names = s.names := rfl
@[simp] theorem State.setGroup_cur (k : Nat) (g : Group) : (s.setGroup k g).cur = s.cur := rfl
@[simp] theorem State.setGroup_mem (k : Nat) (g : Group) : (s.setGroup k g).mem = s.mem := rfl
@[simp] theorem State.setGroup_poison (k : Nat) (g : Group) : (s.setGroup k g).poison = s.poison := rfl
@[simp] theorem State.setGroup_inked (k : Nat) (g : Group) : (s.setGroup k g).inked = s.inked := rfl
@[simp] theorem State.setGroup_prov (k : Nat) (g : Group) : (s.setGroup k g).prov = s.prov := rfl
@[simp] theorem State.setGroup_veils (k : Nat) (g : Group) : (s.setGroup k g).veils = s.veils := rfl
@[simp] theorem State.setGroup_halves (k : Nat) (g : Group) : (s.setGroup k g).halves = s.halves := rfl
@[simp] theorem State.setGroup_rereads (k : Nat) (g : Group) : (s.setGroup k g).rereads = s.rereads := rfl
@[simp] theorem State.setGroup_aside (k : Nat) (g : Group) : (s.setGroup k g).aside = s.aside := rfl
@[simp] theorem State.setGroup_gangs (k : Nat) (g : Group) : (s.setGroup k g).gangs = s.gangs := rfl
@[simp] theorem State.setGroup_groups (k : Nat) (g : Group) : (s.setGroup k g).groups = put s.groups k g := rfl
@[simp] theorem State.setGroup_rounds (k : Nat) (g : Group) : (s.setGroup k g).rounds = s.rounds := rfl
@[simp] theorem State.setGroup_cores (k : Nat) (g : Group) : (s.setGroup k g).cores = s.cores := rfl
@[simp] theorem State.setGroup_links (k : Nat) (g : Group) : (s.setGroup k g).links = s.links := rfl
@[simp] theorem State.setGroup_tlb (k : Nat) (g : Group) : (s.setGroup k g).tlb = s.tlb := rfl
@[simp] theorem State.setGroup_axis (k : Nat) (g : Group) : (s.setGroup k g).axis = s.axis := rfl
@[simp] theorem State.setGroup_streams (k : Nat) (g : Group) : (s.setGroup k g).streams = s.streams := rfl
@[simp] theorem State.setGroup_engines (k : Nat) (g : Group) : (s.setGroup k g).engines = s.engines := rfl
@[simp] theorem State.setGroup_credits (k : Nat) (g : Group) : (s.setGroup k g).credits = s.credits := rfl
@[simp] theorem State.setGroup_bulks (k : Nat) (g : Group) : (s.setGroup k g).bulks = s.bulks := rfl
@[simp] theorem State.setGroup_oblds (k : Nat) (g : Group) : (s.setGroup k g).oblds = s.oblds := rfl
@[simp] theorem State.setGroup_queues (k : Nat) (g : Group) : (s.setGroup k g).queues = s.queues := rfl
@[simp] theorem State.setGroup_launches (k : Nat) (g : Group) : (s.setGroup k g).launches = s.launches := rfl
@[simp] theorem State.setGroup_ctxs (k : Nat) (g : Group) : (s.setGroup k g).ctxs = s.ctxs := rfl
@[simp] theorem State.setGroup_parts (k : Nat) (g : Group) : (s.setGroup k g).parts = s.parts := rfl
@[simp] theorem State.setGroup_pages (k : Nat) (g : Group) : (s.setGroup k g).pages = s.pages := rfl
@[simp] theorem State.setGroup_chip (k : Nat) (g : Group) : (s.setGroup k g).chip = s.chip := rfl

/-! ### setCore -/

@[simp] theorem State.setCore_clock (k : Nat) (c : Core) : (s.setCore k c).clock = s.clock := rfl
@[simp] theorem State.setCore_agenda (k : Nat) (c : Core) : (s.setCore k c).agenda = s.agenda := rfl
@[simp] theorem State.setCore_turn (k : Nat) (c : Core) : (s.setCore k c).turn = s.turn := rfl
@[simp] theorem State.setCore_free (k : Nat) (c : Core) : (s.setCore k c).free = s.free := rfl
@[simp] theorem State.setCore_names (k : Nat) (c : Core) : (s.setCore k c).names = s.names := rfl
@[simp] theorem State.setCore_cur (k : Nat) (c : Core) : (s.setCore k c).cur = s.cur := rfl
@[simp] theorem State.setCore_mem (k : Nat) (c : Core) : (s.setCore k c).mem = s.mem := rfl
@[simp] theorem State.setCore_poison (k : Nat) (c : Core) : (s.setCore k c).poison = s.poison := rfl
@[simp] theorem State.setCore_inked (k : Nat) (c : Core) : (s.setCore k c).inked = s.inked := rfl
@[simp] theorem State.setCore_prov (k : Nat) (c : Core) : (s.setCore k c).prov = s.prov := rfl
@[simp] theorem State.setCore_veils (k : Nat) (c : Core) : (s.setCore k c).veils = s.veils := rfl
@[simp] theorem State.setCore_halves (k : Nat) (c : Core) : (s.setCore k c).halves = s.halves := rfl
@[simp] theorem State.setCore_rereads (k : Nat) (c : Core) : (s.setCore k c).rereads = s.rereads := rfl
@[simp] theorem State.setCore_aside (k : Nat) (c : Core) : (s.setCore k c).aside = s.aside := rfl
@[simp] theorem State.setCore_gangs (k : Nat) (c : Core) : (s.setCore k c).gangs = s.gangs := rfl
@[simp] theorem State.setCore_groups (k : Nat) (c : Core) : (s.setCore k c).groups = s.groups := rfl
@[simp] theorem State.setCore_rounds (k : Nat) (c : Core) : (s.setCore k c).rounds = s.rounds := rfl
@[simp] theorem State.setCore_cores (k : Nat) (c : Core) : (s.setCore k c).cores = put s.cores k c := rfl
@[simp] theorem State.setCore_links (k : Nat) (c : Core) : (s.setCore k c).links = s.links := rfl
@[simp] theorem State.setCore_tlb (k : Nat) (c : Core) : (s.setCore k c).tlb = s.tlb := rfl
@[simp] theorem State.setCore_axis (k : Nat) (c : Core) : (s.setCore k c).axis = s.axis := rfl
@[simp] theorem State.setCore_streams (k : Nat) (c : Core) : (s.setCore k c).streams = s.streams := rfl
@[simp] theorem State.setCore_engines (k : Nat) (c : Core) : (s.setCore k c).engines = s.engines := rfl
@[simp] theorem State.setCore_credits (k : Nat) (c : Core) : (s.setCore k c).credits = s.credits := rfl
@[simp] theorem State.setCore_bulks (k : Nat) (c : Core) : (s.setCore k c).bulks = s.bulks := rfl
@[simp] theorem State.setCore_oblds (k : Nat) (c : Core) : (s.setCore k c).oblds = s.oblds := rfl
@[simp] theorem State.setCore_queues (k : Nat) (c : Core) : (s.setCore k c).queues = s.queues := rfl
@[simp] theorem State.setCore_launches (k : Nat) (c : Core) : (s.setCore k c).launches = s.launches := rfl
@[simp] theorem State.setCore_ctxs (k : Nat) (c : Core) : (s.setCore k c).ctxs = s.ctxs := rfl
@[simp] theorem State.setCore_parts (k : Nat) (c : Core) : (s.setCore k c).parts = s.parts := rfl
@[simp] theorem State.setCore_pages (k : Nat) (c : Core) : (s.setCore k c).pages = s.pages := rfl
@[simp] theorem State.setCore_chip (k : Nat) (c : Core) : (s.setCore k c).chip = s.chip := rfl

/-! ### setLink -/

@[simp] theorem State.setLink_clock (k : Nat) (l : Link) : (s.setLink k l).clock = s.clock := rfl
@[simp] theorem State.setLink_agenda (k : Nat) (l : Link) : (s.setLink k l).agenda = s.agenda := rfl
@[simp] theorem State.setLink_turn (k : Nat) (l : Link) : (s.setLink k l).turn = s.turn := rfl
@[simp] theorem State.setLink_free (k : Nat) (l : Link) : (s.setLink k l).free = s.free := rfl
@[simp] theorem State.setLink_names (k : Nat) (l : Link) : (s.setLink k l).names = s.names := rfl
@[simp] theorem State.setLink_cur (k : Nat) (l : Link) : (s.setLink k l).cur = s.cur := rfl
@[simp] theorem State.setLink_mem (k : Nat) (l : Link) : (s.setLink k l).mem = s.mem := rfl
@[simp] theorem State.setLink_poison (k : Nat) (l : Link) : (s.setLink k l).poison = s.poison := rfl
@[simp] theorem State.setLink_inked (k : Nat) (l : Link) : (s.setLink k l).inked = s.inked := rfl
@[simp] theorem State.setLink_prov (k : Nat) (l : Link) : (s.setLink k l).prov = s.prov := rfl
@[simp] theorem State.setLink_veils (k : Nat) (l : Link) : (s.setLink k l).veils = s.veils := rfl
@[simp] theorem State.setLink_halves (k : Nat) (l : Link) : (s.setLink k l).halves = s.halves := rfl
@[simp] theorem State.setLink_rereads (k : Nat) (l : Link) : (s.setLink k l).rereads = s.rereads := rfl
@[simp] theorem State.setLink_aside (k : Nat) (l : Link) : (s.setLink k l).aside = s.aside := rfl
@[simp] theorem State.setLink_gangs (k : Nat) (l : Link) : (s.setLink k l).gangs = s.gangs := rfl
@[simp] theorem State.setLink_groups (k : Nat) (l : Link) : (s.setLink k l).groups = s.groups := rfl
@[simp] theorem State.setLink_rounds (k : Nat) (l : Link) : (s.setLink k l).rounds = s.rounds := rfl
@[simp] theorem State.setLink_cores (k : Nat) (l : Link) : (s.setLink k l).cores = s.cores := rfl
@[simp] theorem State.setLink_links (k : Nat) (l : Link) : (s.setLink k l).links = put s.links k l := rfl
@[simp] theorem State.setLink_tlb (k : Nat) (l : Link) : (s.setLink k l).tlb = s.tlb := rfl
@[simp] theorem State.setLink_axis (k : Nat) (l : Link) : (s.setLink k l).axis = s.axis := rfl
@[simp] theorem State.setLink_streams (k : Nat) (l : Link) : (s.setLink k l).streams = s.streams := rfl
@[simp] theorem State.setLink_engines (k : Nat) (l : Link) : (s.setLink k l).engines = s.engines := rfl
@[simp] theorem State.setLink_credits (k : Nat) (l : Link) : (s.setLink k l).credits = s.credits := rfl
@[simp] theorem State.setLink_bulks (k : Nat) (l : Link) : (s.setLink k l).bulks = s.bulks := rfl
@[simp] theorem State.setLink_oblds (k : Nat) (l : Link) : (s.setLink k l).oblds = s.oblds := rfl
@[simp] theorem State.setLink_queues (k : Nat) (l : Link) : (s.setLink k l).queues = s.queues := rfl
@[simp] theorem State.setLink_launches (k : Nat) (l : Link) : (s.setLink k l).launches = s.launches := rfl
@[simp] theorem State.setLink_ctxs (k : Nat) (l : Link) : (s.setLink k l).ctxs = s.ctxs := rfl
@[simp] theorem State.setLink_parts (k : Nat) (l : Link) : (s.setLink k l).parts = s.parts := rfl
@[simp] theorem State.setLink_pages (k : Nat) (l : Link) : (s.setLink k l).pages = s.pages := rfl
@[simp] theorem State.setLink_chip (k : Nat) (l : Link) : (s.setLink k l).chip = s.chip := rfl

/-! ### setStream -/

@[simp] theorem State.setStream_clock (k : Nat) (c : StreamCtx) : (s.setStream k c).clock = s.clock := rfl
@[simp] theorem State.setStream_agenda (k : Nat) (c : StreamCtx) : (s.setStream k c).agenda = s.agenda := rfl
@[simp] theorem State.setStream_turn (k : Nat) (c : StreamCtx) : (s.setStream k c).turn = s.turn := rfl
@[simp] theorem State.setStream_free (k : Nat) (c : StreamCtx) : (s.setStream k c).free = s.free := rfl
@[simp] theorem State.setStream_names (k : Nat) (c : StreamCtx) : (s.setStream k c).names = s.names := rfl
@[simp] theorem State.setStream_cur (k : Nat) (c : StreamCtx) : (s.setStream k c).cur = s.cur := rfl
@[simp] theorem State.setStream_mem (k : Nat) (c : StreamCtx) : (s.setStream k c).mem = s.mem := rfl
@[simp] theorem State.setStream_poison (k : Nat) (c : StreamCtx) : (s.setStream k c).poison = s.poison := rfl
@[simp] theorem State.setStream_inked (k : Nat) (c : StreamCtx) : (s.setStream k c).inked = s.inked := rfl
@[simp] theorem State.setStream_prov (k : Nat) (c : StreamCtx) : (s.setStream k c).prov = s.prov := rfl
@[simp] theorem State.setStream_veils (k : Nat) (c : StreamCtx) : (s.setStream k c).veils = s.veils := rfl
@[simp] theorem State.setStream_halves (k : Nat) (c : StreamCtx) : (s.setStream k c).halves = s.halves := rfl
@[simp] theorem State.setStream_rereads (k : Nat) (c : StreamCtx) : (s.setStream k c).rereads = s.rereads := rfl
@[simp] theorem State.setStream_aside (k : Nat) (c : StreamCtx) : (s.setStream k c).aside = s.aside := rfl
@[simp] theorem State.setStream_gangs (k : Nat) (c : StreamCtx) : (s.setStream k c).gangs = s.gangs := rfl
@[simp] theorem State.setStream_groups (k : Nat) (c : StreamCtx) : (s.setStream k c).groups = s.groups := rfl
@[simp] theorem State.setStream_rounds (k : Nat) (c : StreamCtx) : (s.setStream k c).rounds = s.rounds := rfl
@[simp] theorem State.setStream_cores (k : Nat) (c : StreamCtx) : (s.setStream k c).cores = s.cores := rfl
@[simp] theorem State.setStream_links (k : Nat) (c : StreamCtx) : (s.setStream k c).links = s.links := rfl
@[simp] theorem State.setStream_tlb (k : Nat) (c : StreamCtx) : (s.setStream k c).tlb = s.tlb := rfl
@[simp] theorem State.setStream_axis (k : Nat) (c : StreamCtx) : (s.setStream k c).axis = s.axis := rfl
@[simp] theorem State.setStream_streams (k : Nat) (c : StreamCtx) : (s.setStream k c).streams = put s.streams k c := rfl
@[simp] theorem State.setStream_engines (k : Nat) (c : StreamCtx) : (s.setStream k c).engines = s.engines := rfl
@[simp] theorem State.setStream_credits (k : Nat) (c : StreamCtx) : (s.setStream k c).credits = s.credits := rfl
@[simp] theorem State.setStream_bulks (k : Nat) (c : StreamCtx) : (s.setStream k c).bulks = s.bulks := rfl
@[simp] theorem State.setStream_oblds (k : Nat) (c : StreamCtx) : (s.setStream k c).oblds = s.oblds := rfl
@[simp] theorem State.setStream_queues (k : Nat) (c : StreamCtx) : (s.setStream k c).queues = s.queues := rfl
@[simp] theorem State.setStream_launches (k : Nat) (c : StreamCtx) : (s.setStream k c).launches = s.launches := rfl
@[simp] theorem State.setStream_ctxs (k : Nat) (c : StreamCtx) : (s.setStream k c).ctxs = s.ctxs := rfl
@[simp] theorem State.setStream_parts (k : Nat) (c : StreamCtx) : (s.setStream k c).parts = s.parts := rfl
@[simp] theorem State.setStream_pages (k : Nat) (c : StreamCtx) : (s.setStream k c).pages = s.pages := rfl
@[simp] theorem State.setStream_chip (k : Nat) (c : StreamCtx) : (s.setStream k c).chip = s.chip := rfl

/-! ### setQueue -/

@[simp] theorem State.setQueue_clock (p q : Nat) (c : Queue) : (s.setQueue p q c).clock = s.clock := rfl
@[simp] theorem State.setQueue_agenda (p q : Nat) (c : Queue) : (s.setQueue p q c).agenda = s.agenda := rfl
@[simp] theorem State.setQueue_turn (p q : Nat) (c : Queue) : (s.setQueue p q c).turn = s.turn := rfl
@[simp] theorem State.setQueue_free (p q : Nat) (c : Queue) : (s.setQueue p q c).free = s.free := rfl
@[simp] theorem State.setQueue_names (p q : Nat) (c : Queue) : (s.setQueue p q c).names = s.names := rfl
@[simp] theorem State.setQueue_cur (p q : Nat) (c : Queue) : (s.setQueue p q c).cur = s.cur := rfl
@[simp] theorem State.setQueue_mem (p q : Nat) (c : Queue) : (s.setQueue p q c).mem = s.mem := rfl
@[simp] theorem State.setQueue_poison (p q : Nat) (c : Queue) : (s.setQueue p q c).poison = s.poison := rfl
@[simp] theorem State.setQueue_inked (p q : Nat) (c : Queue) : (s.setQueue p q c).inked = s.inked := rfl
@[simp] theorem State.setQueue_prov (p q : Nat) (c : Queue) : (s.setQueue p q c).prov = s.prov := rfl
@[simp] theorem State.setQueue_veils (p q : Nat) (c : Queue) : (s.setQueue p q c).veils = s.veils := rfl
@[simp] theorem State.setQueue_halves (p q : Nat) (c : Queue) : (s.setQueue p q c).halves = s.halves := rfl
@[simp] theorem State.setQueue_rereads (p q : Nat) (c : Queue) : (s.setQueue p q c).rereads = s.rereads := rfl
@[simp] theorem State.setQueue_aside (p q : Nat) (c : Queue) : (s.setQueue p q c).aside = s.aside := rfl
@[simp] theorem State.setQueue_gangs (p q : Nat) (c : Queue) : (s.setQueue p q c).gangs = s.gangs := rfl
@[simp] theorem State.setQueue_groups (p q : Nat) (c : Queue) : (s.setQueue p q c).groups = s.groups := rfl
@[simp] theorem State.setQueue_rounds (p q : Nat) (c : Queue) : (s.setQueue p q c).rounds = s.rounds := rfl
@[simp] theorem State.setQueue_cores (p q : Nat) (c : Queue) : (s.setQueue p q c).cores = s.cores := rfl
@[simp] theorem State.setQueue_links (p q : Nat) (c : Queue) : (s.setQueue p q c).links = s.links := rfl
@[simp] theorem State.setQueue_tlb (p q : Nat) (c : Queue) : (s.setQueue p q c).tlb = s.tlb := rfl
@[simp] theorem State.setQueue_axis (p q : Nat) (c : Queue) : (s.setQueue p q c).axis = s.axis := rfl
@[simp] theorem State.setQueue_streams (p q : Nat) (c : Queue) : (s.setQueue p q c).streams = s.streams := rfl
@[simp] theorem State.setQueue_engines (p q : Nat) (c : Queue) : (s.setQueue p q c).engines = s.engines := rfl
@[simp] theorem State.setQueue_credits (p q : Nat) (c : Queue) : (s.setQueue p q c).credits = s.credits := rfl
@[simp] theorem State.setQueue_bulks (p q : Nat) (c : Queue) : (s.setQueue p q c).bulks = s.bulks := rfl
@[simp] theorem State.setQueue_oblds (p q : Nat) (c : Queue) : (s.setQueue p q c).oblds = s.oblds := rfl
@[simp] theorem State.setQueue_queues (p q : Nat) (c : Queue) : (s.setQueue p q c).queues = put s.queues (64 * p + q) c := rfl
@[simp] theorem State.setQueue_launches (p q : Nat) (c : Queue) : (s.setQueue p q c).launches = s.launches := rfl
@[simp] theorem State.setQueue_ctxs (p q : Nat) (c : Queue) : (s.setQueue p q c).ctxs = s.ctxs := rfl
@[simp] theorem State.setQueue_parts (p q : Nat) (c : Queue) : (s.setQueue p q c).parts = s.parts := rfl
@[simp] theorem State.setQueue_pages (p q : Nat) (c : Queue) : (s.setQueue p q c).pages = s.pages := rfl
@[simp] theorem State.setQueue_chip (p q : Nat) (c : Queue) : (s.setQueue p q c).chip = s.chip := rfl

/-! ### setLaunch -/

@[simp] theorem State.setLaunch_clock (k : Nat) (l : Launch) : (s.setLaunch k l).clock = s.clock := rfl
@[simp] theorem State.setLaunch_agenda (k : Nat) (l : Launch) : (s.setLaunch k l).agenda = s.agenda := rfl
@[simp] theorem State.setLaunch_turn (k : Nat) (l : Launch) : (s.setLaunch k l).turn = s.turn := rfl
@[simp] theorem State.setLaunch_free (k : Nat) (l : Launch) : (s.setLaunch k l).free = s.free := rfl
@[simp] theorem State.setLaunch_names (k : Nat) (l : Launch) : (s.setLaunch k l).names = s.names := rfl
@[simp] theorem State.setLaunch_cur (k : Nat) (l : Launch) : (s.setLaunch k l).cur = s.cur := rfl
@[simp] theorem State.setLaunch_mem (k : Nat) (l : Launch) : (s.setLaunch k l).mem = s.mem := rfl
@[simp] theorem State.setLaunch_poison (k : Nat) (l : Launch) : (s.setLaunch k l).poison = s.poison := rfl
@[simp] theorem State.setLaunch_inked (k : Nat) (l : Launch) : (s.setLaunch k l).inked = s.inked := rfl
@[simp] theorem State.setLaunch_prov (k : Nat) (l : Launch) : (s.setLaunch k l).prov = s.prov := rfl
@[simp] theorem State.setLaunch_veils (k : Nat) (l : Launch) : (s.setLaunch k l).veils = s.veils := rfl
@[simp] theorem State.setLaunch_halves (k : Nat) (l : Launch) : (s.setLaunch k l).halves = s.halves := rfl
@[simp] theorem State.setLaunch_rereads (k : Nat) (l : Launch) : (s.setLaunch k l).rereads = s.rereads := rfl
@[simp] theorem State.setLaunch_aside (k : Nat) (l : Launch) : (s.setLaunch k l).aside = s.aside := rfl
@[simp] theorem State.setLaunch_gangs (k : Nat) (l : Launch) : (s.setLaunch k l).gangs = s.gangs := rfl
@[simp] theorem State.setLaunch_groups (k : Nat) (l : Launch) : (s.setLaunch k l).groups = s.groups := rfl
@[simp] theorem State.setLaunch_rounds (k : Nat) (l : Launch) : (s.setLaunch k l).rounds = s.rounds := rfl
@[simp] theorem State.setLaunch_cores (k : Nat) (l : Launch) : (s.setLaunch k l).cores = s.cores := rfl
@[simp] theorem State.setLaunch_links (k : Nat) (l : Launch) : (s.setLaunch k l).links = s.links := rfl
@[simp] theorem State.setLaunch_tlb (k : Nat) (l : Launch) : (s.setLaunch k l).tlb = s.tlb := rfl
@[simp] theorem State.setLaunch_axis (k : Nat) (l : Launch) : (s.setLaunch k l).axis = s.axis := rfl
@[simp] theorem State.setLaunch_streams (k : Nat) (l : Launch) : (s.setLaunch k l).streams = s.streams := rfl
@[simp] theorem State.setLaunch_engines (k : Nat) (l : Launch) : (s.setLaunch k l).engines = s.engines := rfl
@[simp] theorem State.setLaunch_credits (k : Nat) (l : Launch) : (s.setLaunch k l).credits = s.credits := rfl
@[simp] theorem State.setLaunch_bulks (k : Nat) (l : Launch) : (s.setLaunch k l).bulks = s.bulks := rfl
@[simp] theorem State.setLaunch_oblds (k : Nat) (l : Launch) : (s.setLaunch k l).oblds = s.oblds := rfl
@[simp] theorem State.setLaunch_queues (k : Nat) (l : Launch) : (s.setLaunch k l).queues = s.queues := rfl
@[simp] theorem State.setLaunch_launches (k : Nat) (l : Launch) : (s.setLaunch k l).launches = put s.launches k l := rfl
@[simp] theorem State.setLaunch_ctxs (k : Nat) (l : Launch) : (s.setLaunch k l).ctxs = s.ctxs := rfl
@[simp] theorem State.setLaunch_parts (k : Nat) (l : Launch) : (s.setLaunch k l).parts = s.parts := rfl
@[simp] theorem State.setLaunch_pages (k : Nat) (l : Launch) : (s.setLaunch k l).pages = s.pages := rfl
@[simp] theorem State.setLaunch_chip (k : Nat) (l : Launch) : (s.setLaunch k l).chip = s.chip := rfl

/-! ### setCtx -/

@[simp] theorem State.setCtx_clock (k : Nat) (x : Ctx) : (s.setCtx k x).clock = s.clock := rfl
@[simp] theorem State.setCtx_agenda (k : Nat) (x : Ctx) : (s.setCtx k x).agenda = s.agenda := rfl
@[simp] theorem State.setCtx_turn (k : Nat) (x : Ctx) : (s.setCtx k x).turn = s.turn := rfl
@[simp] theorem State.setCtx_free (k : Nat) (x : Ctx) : (s.setCtx k x).free = s.free := rfl
@[simp] theorem State.setCtx_names (k : Nat) (x : Ctx) : (s.setCtx k x).names = s.names := rfl
@[simp] theorem State.setCtx_cur (k : Nat) (x : Ctx) : (s.setCtx k x).cur = s.cur := rfl
@[simp] theorem State.setCtx_mem (k : Nat) (x : Ctx) : (s.setCtx k x).mem = s.mem := rfl
@[simp] theorem State.setCtx_poison (k : Nat) (x : Ctx) : (s.setCtx k x).poison = s.poison := rfl
@[simp] theorem State.setCtx_inked (k : Nat) (x : Ctx) : (s.setCtx k x).inked = s.inked := rfl
@[simp] theorem State.setCtx_prov (k : Nat) (x : Ctx) : (s.setCtx k x).prov = s.prov := rfl
@[simp] theorem State.setCtx_veils (k : Nat) (x : Ctx) : (s.setCtx k x).veils = s.veils := rfl
@[simp] theorem State.setCtx_halves (k : Nat) (x : Ctx) : (s.setCtx k x).halves = s.halves := rfl
@[simp] theorem State.setCtx_rereads (k : Nat) (x : Ctx) : (s.setCtx k x).rereads = s.rereads := rfl
@[simp] theorem State.setCtx_aside (k : Nat) (x : Ctx) : (s.setCtx k x).aside = s.aside := rfl
@[simp] theorem State.setCtx_gangs (k : Nat) (x : Ctx) : (s.setCtx k x).gangs = s.gangs := rfl
@[simp] theorem State.setCtx_groups (k : Nat) (x : Ctx) : (s.setCtx k x).groups = s.groups := rfl
@[simp] theorem State.setCtx_rounds (k : Nat) (x : Ctx) : (s.setCtx k x).rounds = s.rounds := rfl
@[simp] theorem State.setCtx_cores (k : Nat) (x : Ctx) : (s.setCtx k x).cores = s.cores := rfl
@[simp] theorem State.setCtx_links (k : Nat) (x : Ctx) : (s.setCtx k x).links = s.links := rfl
@[simp] theorem State.setCtx_tlb (k : Nat) (x : Ctx) : (s.setCtx k x).tlb = s.tlb := rfl
@[simp] theorem State.setCtx_axis (k : Nat) (x : Ctx) : (s.setCtx k x).axis = s.axis := rfl
@[simp] theorem State.setCtx_streams (k : Nat) (x : Ctx) : (s.setCtx k x).streams = s.streams := rfl
@[simp] theorem State.setCtx_engines (k : Nat) (x : Ctx) : (s.setCtx k x).engines = s.engines := rfl
@[simp] theorem State.setCtx_credits (k : Nat) (x : Ctx) : (s.setCtx k x).credits = s.credits := rfl
@[simp] theorem State.setCtx_bulks (k : Nat) (x : Ctx) : (s.setCtx k x).bulks = s.bulks := rfl
@[simp] theorem State.setCtx_oblds (k : Nat) (x : Ctx) : (s.setCtx k x).oblds = s.oblds := rfl
@[simp] theorem State.setCtx_queues (k : Nat) (x : Ctx) : (s.setCtx k x).queues = s.queues := rfl
@[simp] theorem State.setCtx_launches (k : Nat) (x : Ctx) : (s.setCtx k x).launches = s.launches := rfl
@[simp] theorem State.setCtx_ctxs (k : Nat) (x : Ctx) : (s.setCtx k x).ctxs = put s.ctxs k x := rfl
@[simp] theorem State.setCtx_parts (k : Nat) (x : Ctx) : (s.setCtx k x).parts = s.parts := rfl
@[simp] theorem State.setCtx_pages (k : Nat) (x : Ctx) : (s.setCtx k x).pages = s.pages := rfl
@[simp] theorem State.setCtx_chip (k : Nat) (x : Ctx) : (s.setCtx k x).chip = s.chip := rfl

/-! ### setPart -/

@[simp] theorem State.setPart_clock (k : Nat) (p : Part) : (s.setPart k p).clock = s.clock := rfl
@[simp] theorem State.setPart_agenda (k : Nat) (p : Part) : (s.setPart k p).agenda = s.agenda := rfl
@[simp] theorem State.setPart_turn (k : Nat) (p : Part) : (s.setPart k p).turn = s.turn := rfl
@[simp] theorem State.setPart_free (k : Nat) (p : Part) : (s.setPart k p).free = s.free := rfl
@[simp] theorem State.setPart_names (k : Nat) (p : Part) : (s.setPart k p).names = s.names := rfl
@[simp] theorem State.setPart_cur (k : Nat) (p : Part) : (s.setPart k p).cur = s.cur := rfl
@[simp] theorem State.setPart_mem (k : Nat) (p : Part) : (s.setPart k p).mem = s.mem := rfl
@[simp] theorem State.setPart_poison (k : Nat) (p : Part) : (s.setPart k p).poison = s.poison := rfl
@[simp] theorem State.setPart_inked (k : Nat) (p : Part) : (s.setPart k p).inked = s.inked := rfl
@[simp] theorem State.setPart_prov (k : Nat) (p : Part) : (s.setPart k p).prov = s.prov := rfl
@[simp] theorem State.setPart_veils (k : Nat) (p : Part) : (s.setPart k p).veils = s.veils := rfl
@[simp] theorem State.setPart_halves (k : Nat) (p : Part) : (s.setPart k p).halves = s.halves := rfl
@[simp] theorem State.setPart_rereads (k : Nat) (p : Part) : (s.setPart k p).rereads = s.rereads := rfl
@[simp] theorem State.setPart_aside (k : Nat) (p : Part) : (s.setPart k p).aside = s.aside := rfl
@[simp] theorem State.setPart_gangs (k : Nat) (p : Part) : (s.setPart k p).gangs = s.gangs := rfl
@[simp] theorem State.setPart_groups (k : Nat) (p : Part) : (s.setPart k p).groups = s.groups := rfl
@[simp] theorem State.setPart_rounds (k : Nat) (p : Part) : (s.setPart k p).rounds = s.rounds := rfl
@[simp] theorem State.setPart_cores (k : Nat) (p : Part) : (s.setPart k p).cores = s.cores := rfl
@[simp] theorem State.setPart_links (k : Nat) (p : Part) : (s.setPart k p).links = s.links := rfl
@[simp] theorem State.setPart_tlb (k : Nat) (p : Part) : (s.setPart k p).tlb = s.tlb := rfl
@[simp] theorem State.setPart_axis (k : Nat) (p : Part) : (s.setPart k p).axis = s.axis := rfl
@[simp] theorem State.setPart_streams (k : Nat) (p : Part) : (s.setPart k p).streams = s.streams := rfl
@[simp] theorem State.setPart_engines (k : Nat) (p : Part) : (s.setPart k p).engines = s.engines := rfl
@[simp] theorem State.setPart_credits (k : Nat) (p : Part) : (s.setPart k p).credits = s.credits := rfl
@[simp] theorem State.setPart_bulks (k : Nat) (p : Part) : (s.setPart k p).bulks = s.bulks := rfl
@[simp] theorem State.setPart_oblds (k : Nat) (p : Part) : (s.setPart k p).oblds = s.oblds := rfl
@[simp] theorem State.setPart_queues (k : Nat) (p : Part) : (s.setPart k p).queues = s.queues := rfl
@[simp] theorem State.setPart_launches (k : Nat) (p : Part) : (s.setPart k p).launches = s.launches := rfl
@[simp] theorem State.setPart_ctxs (k : Nat) (p : Part) : (s.setPart k p).ctxs = s.ctxs := rfl
@[simp] theorem State.setPart_parts (k : Nat) (p : Part) : (s.setPart k p).parts = put s.parts k p := rfl
@[simp] theorem State.setPart_pages (k : Nat) (p : Part) : (s.setPart k p).pages = s.pages := rfl
@[simp] theorem State.setPart_chip (k : Nat) (p : Part) : (s.setPart k p).chip = s.chip := rfl

/-! ### setPage -/

@[simp] theorem State.setPage_clock (k : Nat) (p : Page) : (s.setPage k p).clock = s.clock := rfl
@[simp] theorem State.setPage_agenda (k : Nat) (p : Page) : (s.setPage k p).agenda = s.agenda := rfl
@[simp] theorem State.setPage_turn (k : Nat) (p : Page) : (s.setPage k p).turn = s.turn := rfl
@[simp] theorem State.setPage_free (k : Nat) (p : Page) : (s.setPage k p).free = s.free := rfl
@[simp] theorem State.setPage_names (k : Nat) (p : Page) : (s.setPage k p).names = s.names := rfl
@[simp] theorem State.setPage_cur (k : Nat) (p : Page) : (s.setPage k p).cur = s.cur := rfl
@[simp] theorem State.setPage_mem (k : Nat) (p : Page) : (s.setPage k p).mem = s.mem := rfl
@[simp] theorem State.setPage_poison (k : Nat) (p : Page) : (s.setPage k p).poison = s.poison := rfl
@[simp] theorem State.setPage_inked (k : Nat) (p : Page) : (s.setPage k p).inked = s.inked := rfl
@[simp] theorem State.setPage_prov (k : Nat) (p : Page) : (s.setPage k p).prov = s.prov := rfl
@[simp] theorem State.setPage_veils (k : Nat) (p : Page) : (s.setPage k p).veils = s.veils := rfl
@[simp] theorem State.setPage_halves (k : Nat) (p : Page) : (s.setPage k p).halves = s.halves := rfl
@[simp] theorem State.setPage_rereads (k : Nat) (p : Page) : (s.setPage k p).rereads = s.rereads := rfl
@[simp] theorem State.setPage_aside (k : Nat) (p : Page) : (s.setPage k p).aside = s.aside := rfl
@[simp] theorem State.setPage_gangs (k : Nat) (p : Page) : (s.setPage k p).gangs = s.gangs := rfl
@[simp] theorem State.setPage_groups (k : Nat) (p : Page) : (s.setPage k p).groups = s.groups := rfl
@[simp] theorem State.setPage_rounds (k : Nat) (p : Page) : (s.setPage k p).rounds = s.rounds := rfl
@[simp] theorem State.setPage_cores (k : Nat) (p : Page) : (s.setPage k p).cores = s.cores := rfl
@[simp] theorem State.setPage_links (k : Nat) (p : Page) : (s.setPage k p).links = s.links := rfl
@[simp] theorem State.setPage_tlb (k : Nat) (p : Page) : (s.setPage k p).tlb = s.tlb := rfl
@[simp] theorem State.setPage_axis (k : Nat) (p : Page) : (s.setPage k p).axis = s.axis := rfl
@[simp] theorem State.setPage_streams (k : Nat) (p : Page) : (s.setPage k p).streams = s.streams := rfl
@[simp] theorem State.setPage_engines (k : Nat) (p : Page) : (s.setPage k p).engines = s.engines := rfl
@[simp] theorem State.setPage_credits (k : Nat) (p : Page) : (s.setPage k p).credits = s.credits := rfl
@[simp] theorem State.setPage_bulks (k : Nat) (p : Page) : (s.setPage k p).bulks = s.bulks := rfl
@[simp] theorem State.setPage_oblds (k : Nat) (p : Page) : (s.setPage k p).oblds = s.oblds := rfl
@[simp] theorem State.setPage_queues (k : Nat) (p : Page) : (s.setPage k p).queues = s.queues := rfl
@[simp] theorem State.setPage_launches (k : Nat) (p : Page) : (s.setPage k p).launches = s.launches := rfl
@[simp] theorem State.setPage_ctxs (k : Nat) (p : Page) : (s.setPage k p).ctxs = s.ctxs := rfl
@[simp] theorem State.setPage_parts (k : Nat) (p : Page) : (s.setPage k p).parts = s.parts := rfl
@[simp] theorem State.setPage_pages (k : Nat) (p : Page) : (s.setPage k p).pages = put s.pages k p := rfl
@[simp] theorem State.setPage_chip (k : Nat) (p : Page) : (s.setPage k p).chip = s.chip := rfl

/-! ### tick1 -/

@[simp] theorem State.tick1_clock : (s.tick1).clock = s.clock := rfl
@[simp] theorem State.tick1_agenda : (s.tick1).agenda = s.agenda := rfl
@[simp] theorem State.tick1_turn : (s.tick1).turn = s.turn := rfl
@[simp] theorem State.tick1_free : (s.tick1).free = s.free + 1 := rfl
@[simp] theorem State.tick1_names : (s.tick1).names = s.names := rfl
@[simp] theorem State.tick1_cur : (s.tick1).cur = s.cur := rfl
@[simp] theorem State.tick1_mem : (s.tick1).mem = s.mem := rfl
@[simp] theorem State.tick1_poison : (s.tick1).poison = s.poison := rfl
@[simp] theorem State.tick1_inked : (s.tick1).inked = s.inked := rfl
@[simp] theorem State.tick1_prov : (s.tick1).prov = s.prov := rfl
@[simp] theorem State.tick1_veils : (s.tick1).veils = s.veils := rfl
@[simp] theorem State.tick1_halves : (s.tick1).halves = s.halves := rfl
@[simp] theorem State.tick1_rereads : (s.tick1).rereads = s.rereads := rfl
@[simp] theorem State.tick1_aside : (s.tick1).aside = s.aside := rfl
@[simp] theorem State.tick1_gangs : (s.tick1).gangs = s.gangs := rfl
@[simp] theorem State.tick1_groups : (s.tick1).groups = s.groups := rfl
@[simp] theorem State.tick1_rounds : (s.tick1).rounds = s.rounds := rfl
@[simp] theorem State.tick1_cores : (s.tick1).cores = s.cores := rfl
@[simp] theorem State.tick1_links : (s.tick1).links = s.links := rfl
@[simp] theorem State.tick1_tlb : (s.tick1).tlb = s.tlb := rfl
@[simp] theorem State.tick1_axis : (s.tick1).axis = s.axis := rfl
@[simp] theorem State.tick1_streams : (s.tick1).streams = s.streams := rfl
@[simp] theorem State.tick1_engines : (s.tick1).engines = s.engines := rfl
@[simp] theorem State.tick1_credits : (s.tick1).credits = s.credits := rfl
@[simp] theorem State.tick1_bulks : (s.tick1).bulks = s.bulks := rfl
@[simp] theorem State.tick1_oblds : (s.tick1).oblds = s.oblds := rfl
@[simp] theorem State.tick1_queues : (s.tick1).queues = s.queues := rfl
@[simp] theorem State.tick1_launches : (s.tick1).launches = s.launches := rfl
@[simp] theorem State.tick1_ctxs : (s.tick1).ctxs = s.ctxs := rfl
@[simp] theorem State.tick1_parts : (s.tick1).parts = s.parts := rfl
@[simp] theorem State.tick1_pages : (s.tick1).pages = s.pages := rfl
@[simp] theorem State.tick1_chip : (s.tick1).chip = s.chip := rfl

/-! ### poke -/

@[simp] theorem State.poke_clock (a : Nat) (bs : List Byte) : (s.poke a bs).clock = s.clock := rfl
@[simp] theorem State.poke_agenda (a : Nat) (bs : List Byte) : (s.poke a bs).agenda = s.agenda := rfl
@[simp] theorem State.poke_turn (a : Nat) (bs : List Byte) : (s.poke a bs).turn = s.turn := rfl
@[simp] theorem State.poke_free (a : Nat) (bs : List Byte) : (s.poke a bs).free = s.free := rfl
@[simp] theorem State.poke_names (a : Nat) (bs : List Byte) : (s.poke a bs).names = s.names := rfl
@[simp] theorem State.poke_cur (a : Nat) (bs : List Byte) : (s.poke a bs).cur = s.cur := rfl
@[simp] theorem State.poke_mem (a : Nat) (bs : List Byte) : (s.poke a bs).mem = writeBytes s.mem a bs := rfl
@[simp] theorem State.poke_poison (a : Nat) (bs : List Byte) : (s.poke a bs).poison = s.poison := rfl
@[simp] theorem State.poke_inked (a : Nat) (bs : List Byte) : (s.poke a bs).inked = notePages s.inked a bs.length := rfl
@[simp] theorem State.poke_prov (a : Nat) (bs : List Byte) : (s.poke a bs).prov = s.prov := rfl
@[simp] theorem State.poke_veils (a : Nat) (bs : List Byte) : (s.poke a bs).veils = s.veils := rfl
@[simp] theorem State.poke_halves (a : Nat) (bs : List Byte) : (s.poke a bs).halves = s.halves := rfl
@[simp] theorem State.poke_rereads (a : Nat) (bs : List Byte) : (s.poke a bs).rereads = s.rereads := rfl
@[simp] theorem State.poke_aside (a : Nat) (bs : List Byte) : (s.poke a bs).aside = s.aside := rfl
@[simp] theorem State.poke_gangs (a : Nat) (bs : List Byte) : (s.poke a bs).gangs = s.gangs := rfl
@[simp] theorem State.poke_groups (a : Nat) (bs : List Byte) : (s.poke a bs).groups = s.groups := rfl
@[simp] theorem State.poke_rounds (a : Nat) (bs : List Byte) : (s.poke a bs).rounds = s.rounds := rfl
@[simp] theorem State.poke_cores (a : Nat) (bs : List Byte) : (s.poke a bs).cores = s.cores := rfl
@[simp] theorem State.poke_links (a : Nat) (bs : List Byte) : (s.poke a bs).links = s.links := rfl
@[simp] theorem State.poke_tlb (a : Nat) (bs : List Byte) : (s.poke a bs).tlb = s.tlb := rfl
@[simp] theorem State.poke_axis (a : Nat) (bs : List Byte) : (s.poke a bs).axis = s.axis := rfl
@[simp] theorem State.poke_streams (a : Nat) (bs : List Byte) : (s.poke a bs).streams = s.streams := rfl
@[simp] theorem State.poke_engines (a : Nat) (bs : List Byte) : (s.poke a bs).engines = s.engines := rfl
@[simp] theorem State.poke_credits (a : Nat) (bs : List Byte) : (s.poke a bs).credits = s.credits := rfl
@[simp] theorem State.poke_bulks (a : Nat) (bs : List Byte) : (s.poke a bs).bulks = s.bulks := rfl
@[simp] theorem State.poke_oblds (a : Nat) (bs : List Byte) : (s.poke a bs).oblds = s.oblds := rfl
@[simp] theorem State.poke_queues (a : Nat) (bs : List Byte) : (s.poke a bs).queues = s.queues := rfl
@[simp] theorem State.poke_launches (a : Nat) (bs : List Byte) : (s.poke a bs).launches = s.launches := rfl
@[simp] theorem State.poke_ctxs (a : Nat) (bs : List Byte) : (s.poke a bs).ctxs = s.ctxs := rfl
@[simp] theorem State.poke_parts (a : Nat) (bs : List Byte) : (s.poke a bs).parts = s.parts := rfl
@[simp] theorem State.poke_pages (a : Nat) (bs : List Byte) : (s.poke a bs).pages = s.pages := rfl
@[simp] theorem State.poke_chip (a : Nat) (bs : List Byte) : (s.poke a bs).chip = s.chip := rfl

/-! ### markPoison -/

@[simp] theorem State.markPoison_clock (w : Nat) (b : Bool) : (s.markPoison w b).clock = s.clock := rfl
@[simp] theorem State.markPoison_agenda (w : Nat) (b : Bool) : (s.markPoison w b).agenda = s.agenda := rfl
@[simp] theorem State.markPoison_turn (w : Nat) (b : Bool) : (s.markPoison w b).turn = s.turn := rfl
@[simp] theorem State.markPoison_free (w : Nat) (b : Bool) : (s.markPoison w b).free = s.free := rfl
@[simp] theorem State.markPoison_names (w : Nat) (b : Bool) : (s.markPoison w b).names = s.names := rfl
@[simp] theorem State.markPoison_cur (w : Nat) (b : Bool) : (s.markPoison w b).cur = s.cur := rfl
@[simp] theorem State.markPoison_mem (w : Nat) (b : Bool) : (s.markPoison w b).mem = s.mem := rfl
@[simp] theorem State.markPoison_poison (w : Nat) (b : Bool) : (s.markPoison w b).poison = set false s.poison w b := rfl
@[simp] theorem State.markPoison_inked (w : Nat) (b : Bool) : (s.markPoison w b).inked = s.inked := rfl
@[simp] theorem State.markPoison_prov (w : Nat) (b : Bool) : (s.markPoison w b).prov = s.prov := rfl
@[simp] theorem State.markPoison_veils (w : Nat) (b : Bool) : (s.markPoison w b).veils = s.veils := rfl
@[simp] theorem State.markPoison_halves (w : Nat) (b : Bool) : (s.markPoison w b).halves = s.halves := rfl
@[simp] theorem State.markPoison_rereads (w : Nat) (b : Bool) : (s.markPoison w b).rereads = s.rereads := rfl
@[simp] theorem State.markPoison_aside (w : Nat) (b : Bool) : (s.markPoison w b).aside = s.aside := rfl
@[simp] theorem State.markPoison_gangs (w : Nat) (b : Bool) : (s.markPoison w b).gangs = s.gangs := rfl
@[simp] theorem State.markPoison_groups (w : Nat) (b : Bool) : (s.markPoison w b).groups = s.groups := rfl
@[simp] theorem State.markPoison_rounds (w : Nat) (b : Bool) : (s.markPoison w b).rounds = s.rounds := rfl
@[simp] theorem State.markPoison_cores (w : Nat) (b : Bool) : (s.markPoison w b).cores = s.cores := rfl
@[simp] theorem State.markPoison_links (w : Nat) (b : Bool) : (s.markPoison w b).links = s.links := rfl
@[simp] theorem State.markPoison_tlb (w : Nat) (b : Bool) : (s.markPoison w b).tlb = s.tlb := rfl
@[simp] theorem State.markPoison_axis (w : Nat) (b : Bool) : (s.markPoison w b).axis = s.axis := rfl
@[simp] theorem State.markPoison_streams (w : Nat) (b : Bool) : (s.markPoison w b).streams = s.streams := rfl
@[simp] theorem State.markPoison_engines (w : Nat) (b : Bool) : (s.markPoison w b).engines = s.engines := rfl
@[simp] theorem State.markPoison_credits (w : Nat) (b : Bool) : (s.markPoison w b).credits = s.credits := rfl
@[simp] theorem State.markPoison_bulks (w : Nat) (b : Bool) : (s.markPoison w b).bulks = s.bulks := rfl
@[simp] theorem State.markPoison_oblds (w : Nat) (b : Bool) : (s.markPoison w b).oblds = s.oblds := rfl
@[simp] theorem State.markPoison_queues (w : Nat) (b : Bool) : (s.markPoison w b).queues = s.queues := rfl
@[simp] theorem State.markPoison_launches (w : Nat) (b : Bool) : (s.markPoison w b).launches = s.launches := rfl
@[simp] theorem State.markPoison_ctxs (w : Nat) (b : Bool) : (s.markPoison w b).ctxs = s.ctxs := rfl
@[simp] theorem State.markPoison_parts (w : Nat) (b : Bool) : (s.markPoison w b).parts = s.parts := rfl
@[simp] theorem State.markPoison_pages (w : Nat) (b : Bool) : (s.markPoison w b).pages = s.pages := rfl
@[simp] theorem State.markPoison_chip (w : Nat) (b : Bool) : (s.markPoison w b).chip = s.chip := rfl

/-! ### Units after an update -/

@[simp] theorem State.gang_setGang_same (k : Nat) (g : Gang) : (s.setGang k g).gang k = g := by simp [State.gang, State.setGang]
theorem State.gang_setGang_other (k : Nat) (g : Gang) {j : Nat} (h : j ≠ k) : (s.setGang k g).gang j = s.gang j := by
  simp [State.gang, State.setGang, get_put_other _ _ _ h]
@[simp] theorem State.group_setGang (k : Nat) (g : Gang) (j : Nat) : (s.setGang k g).group j = s.group j := rfl
@[simp] theorem State.core_setGang (k : Nat) (g : Gang) (j : Nat) : (s.setGang k g).core j = s.core j := rfl
@[simp] theorem State.link_setGang (k : Nat) (g : Gang) (j : Nat) : (s.setGang k g).link j = s.link j := rfl
@[simp] theorem State.stream_setGang (k : Nat) (g : Gang) (j : Nat) : (s.setGang k g).stream j = s.stream j := rfl
@[simp] theorem State.launch_setGang (k : Nat) (g : Gang) (j : Nat) : (s.setGang k g).launch j = s.launch j := rfl
@[simp] theorem State.ctx_setGang (k : Nat) (g : Gang) (j : Nat) : (s.setGang k g).ctx j = s.ctx j := rfl
@[simp] theorem State.part_setGang (k : Nat) (g : Gang) (j : Nat) : (s.setGang k g).part j = s.part j := rfl
@[simp] theorem State.page_setGang (k : Nat) (g : Gang) (j : Nat) : (s.setGang k g).page j = s.page j := rfl
@[simp] theorem State.group_setGroup_same (k : Nat) (g : Group) : (s.setGroup k g).group k = g := by simp [State.group, State.setGroup]
theorem State.group_setGroup_other (k : Nat) (g : Group) {j : Nat} (h : j ≠ k) : (s.setGroup k g).group j = s.group j := by
  simp [State.group, State.setGroup, get_put_other _ _ _ h]
@[simp] theorem State.gang_setGroup (k : Nat) (g : Group) (j : Nat) : (s.setGroup k g).gang j = s.gang j := rfl
@[simp] theorem State.core_setGroup (k : Nat) (g : Group) (j : Nat) : (s.setGroup k g).core j = s.core j := rfl
@[simp] theorem State.link_setGroup (k : Nat) (g : Group) (j : Nat) : (s.setGroup k g).link j = s.link j := rfl
@[simp] theorem State.stream_setGroup (k : Nat) (g : Group) (j : Nat) : (s.setGroup k g).stream j = s.stream j := rfl
@[simp] theorem State.launch_setGroup (k : Nat) (g : Group) (j : Nat) : (s.setGroup k g).launch j = s.launch j := rfl
@[simp] theorem State.ctx_setGroup (k : Nat) (g : Group) (j : Nat) : (s.setGroup k g).ctx j = s.ctx j := rfl
@[simp] theorem State.part_setGroup (k : Nat) (g : Group) (j : Nat) : (s.setGroup k g).part j = s.part j := rfl
@[simp] theorem State.page_setGroup (k : Nat) (g : Group) (j : Nat) : (s.setGroup k g).page j = s.page j := rfl
@[simp] theorem State.core_setCore_same (k : Nat) (c : Core) : (s.setCore k c).core k = c := by simp [State.core, State.setCore]
theorem State.core_setCore_other (k : Nat) (c : Core) {j : Nat} (h : j ≠ k) : (s.setCore k c).core j = s.core j := by
  simp [State.core, State.setCore, get_put_other _ _ _ h]
@[simp] theorem State.gang_setCore (k : Nat) (c : Core) (j : Nat) : (s.setCore k c).gang j = s.gang j := rfl
@[simp] theorem State.group_setCore (k : Nat) (c : Core) (j : Nat) : (s.setCore k c).group j = s.group j := rfl
@[simp] theorem State.link_setCore (k : Nat) (c : Core) (j : Nat) : (s.setCore k c).link j = s.link j := rfl
@[simp] theorem State.stream_setCore (k : Nat) (c : Core) (j : Nat) : (s.setCore k c).stream j = s.stream j := rfl
@[simp] theorem State.launch_setCore (k : Nat) (c : Core) (j : Nat) : (s.setCore k c).launch j = s.launch j := rfl
@[simp] theorem State.ctx_setCore (k : Nat) (c : Core) (j : Nat) : (s.setCore k c).ctx j = s.ctx j := rfl
@[simp] theorem State.part_setCore (k : Nat) (c : Core) (j : Nat) : (s.setCore k c).part j = s.part j := rfl
@[simp] theorem State.page_setCore (k : Nat) (c : Core) (j : Nat) : (s.setCore k c).page j = s.page j := rfl
@[simp] theorem State.link_setLink_same (k : Nat) (l : Link) : (s.setLink k l).link k = l := by simp [State.link, State.setLink]
theorem State.link_setLink_other (k : Nat) (l : Link) {j : Nat} (h : j ≠ k) : (s.setLink k l).link j = s.link j := by
  simp [State.link, State.setLink, get_put_other _ _ _ h]
@[simp] theorem State.gang_setLink (k : Nat) (l : Link) (j : Nat) : (s.setLink k l).gang j = s.gang j := rfl
@[simp] theorem State.group_setLink (k : Nat) (l : Link) (j : Nat) : (s.setLink k l).group j = s.group j := rfl
@[simp] theorem State.core_setLink (k : Nat) (l : Link) (j : Nat) : (s.setLink k l).core j = s.core j := rfl
@[simp] theorem State.stream_setLink (k : Nat) (l : Link) (j : Nat) : (s.setLink k l).stream j = s.stream j := rfl
@[simp] theorem State.launch_setLink (k : Nat) (l : Link) (j : Nat) : (s.setLink k l).launch j = s.launch j := rfl
@[simp] theorem State.ctx_setLink (k : Nat) (l : Link) (j : Nat) : (s.setLink k l).ctx j = s.ctx j := rfl
@[simp] theorem State.part_setLink (k : Nat) (l : Link) (j : Nat) : (s.setLink k l).part j = s.part j := rfl
@[simp] theorem State.page_setLink (k : Nat) (l : Link) (j : Nat) : (s.setLink k l).page j = s.page j := rfl
@[simp] theorem State.stream_setStream_same (k : Nat) (c : StreamCtx) : (s.setStream k c).stream k = c := by simp [State.stream, State.setStream]
theorem State.stream_setStream_other (k : Nat) (c : StreamCtx) {j : Nat} (h : j ≠ k) : (s.setStream k c).stream j = s.stream j := by
  simp [State.stream, State.setStream, get_put_other _ _ _ h]
@[simp] theorem State.gang_setStream (k : Nat) (c : StreamCtx) (j : Nat) : (s.setStream k c).gang j = s.gang j := rfl
@[simp] theorem State.group_setStream (k : Nat) (c : StreamCtx) (j : Nat) : (s.setStream k c).group j = s.group j := rfl
@[simp] theorem State.core_setStream (k : Nat) (c : StreamCtx) (j : Nat) : (s.setStream k c).core j = s.core j := rfl
@[simp] theorem State.link_setStream (k : Nat) (c : StreamCtx) (j : Nat) : (s.setStream k c).link j = s.link j := rfl
@[simp] theorem State.launch_setStream (k : Nat) (c : StreamCtx) (j : Nat) : (s.setStream k c).launch j = s.launch j := rfl
@[simp] theorem State.ctx_setStream (k : Nat) (c : StreamCtx) (j : Nat) : (s.setStream k c).ctx j = s.ctx j := rfl
@[simp] theorem State.part_setStream (k : Nat) (c : StreamCtx) (j : Nat) : (s.setStream k c).part j = s.part j := rfl
@[simp] theorem State.page_setStream (k : Nat) (c : StreamCtx) (j : Nat) : (s.setStream k c).page j = s.page j := rfl
@[simp] theorem State.launch_setLaunch_same (k : Nat) (l : Launch) : (s.setLaunch k l).launch k = l := by simp [State.launch, State.setLaunch]
theorem State.launch_setLaunch_other (k : Nat) (l : Launch) {j : Nat} (h : j ≠ k) : (s.setLaunch k l).launch j = s.launch j := by
  simp [State.launch, State.setLaunch, get_put_other _ _ _ h]
@[simp] theorem State.gang_setLaunch (k : Nat) (l : Launch) (j : Nat) : (s.setLaunch k l).gang j = s.gang j := rfl
@[simp] theorem State.group_setLaunch (k : Nat) (l : Launch) (j : Nat) : (s.setLaunch k l).group j = s.group j := rfl
@[simp] theorem State.core_setLaunch (k : Nat) (l : Launch) (j : Nat) : (s.setLaunch k l).core j = s.core j := rfl
@[simp] theorem State.link_setLaunch (k : Nat) (l : Launch) (j : Nat) : (s.setLaunch k l).link j = s.link j := rfl
@[simp] theorem State.stream_setLaunch (k : Nat) (l : Launch) (j : Nat) : (s.setLaunch k l).stream j = s.stream j := rfl
@[simp] theorem State.ctx_setLaunch (k : Nat) (l : Launch) (j : Nat) : (s.setLaunch k l).ctx j = s.ctx j := rfl
@[simp] theorem State.part_setLaunch (k : Nat) (l : Launch) (j : Nat) : (s.setLaunch k l).part j = s.part j := rfl
@[simp] theorem State.page_setLaunch (k : Nat) (l : Launch) (j : Nat) : (s.setLaunch k l).page j = s.page j := rfl
@[simp] theorem State.ctx_setCtx_same (k : Nat) (x : Ctx) : (s.setCtx k x).ctx k = x := by simp [State.ctx, State.setCtx]
theorem State.ctx_setCtx_other (k : Nat) (x : Ctx) {j : Nat} (h : j ≠ k) : (s.setCtx k x).ctx j = s.ctx j := by
  simp [State.ctx, State.setCtx, get_put_other _ _ _ h]
@[simp] theorem State.gang_setCtx (k : Nat) (x : Ctx) (j : Nat) : (s.setCtx k x).gang j = s.gang j := rfl
@[simp] theorem State.group_setCtx (k : Nat) (x : Ctx) (j : Nat) : (s.setCtx k x).group j = s.group j := rfl
@[simp] theorem State.core_setCtx (k : Nat) (x : Ctx) (j : Nat) : (s.setCtx k x).core j = s.core j := rfl
@[simp] theorem State.link_setCtx (k : Nat) (x : Ctx) (j : Nat) : (s.setCtx k x).link j = s.link j := rfl
@[simp] theorem State.stream_setCtx (k : Nat) (x : Ctx) (j : Nat) : (s.setCtx k x).stream j = s.stream j := rfl
@[simp] theorem State.launch_setCtx (k : Nat) (x : Ctx) (j : Nat) : (s.setCtx k x).launch j = s.launch j := rfl
@[simp] theorem State.part_setCtx (k : Nat) (x : Ctx) (j : Nat) : (s.setCtx k x).part j = s.part j := rfl
@[simp] theorem State.page_setCtx (k : Nat) (x : Ctx) (j : Nat) : (s.setCtx k x).page j = s.page j := rfl
@[simp] theorem State.part_setPart_same (k : Nat) (p : Part) : (s.setPart k p).part k = p := by simp [State.part, State.setPart]
theorem State.part_setPart_other (k : Nat) (p : Part) {j : Nat} (h : j ≠ k) : (s.setPart k p).part j = s.part j := by
  simp [State.part, State.setPart, get_put_other _ _ _ h]
@[simp] theorem State.gang_setPart (k : Nat) (p : Part) (j : Nat) : (s.setPart k p).gang j = s.gang j := rfl
@[simp] theorem State.group_setPart (k : Nat) (p : Part) (j : Nat) : (s.setPart k p).group j = s.group j := rfl
@[simp] theorem State.core_setPart (k : Nat) (p : Part) (j : Nat) : (s.setPart k p).core j = s.core j := rfl
@[simp] theorem State.link_setPart (k : Nat) (p : Part) (j : Nat) : (s.setPart k p).link j = s.link j := rfl
@[simp] theorem State.stream_setPart (k : Nat) (p : Part) (j : Nat) : (s.setPart k p).stream j = s.stream j := rfl
@[simp] theorem State.launch_setPart (k : Nat) (p : Part) (j : Nat) : (s.setPart k p).launch j = s.launch j := rfl
@[simp] theorem State.ctx_setPart (k : Nat) (p : Part) (j : Nat) : (s.setPart k p).ctx j = s.ctx j := rfl
@[simp] theorem State.page_setPart (k : Nat) (p : Part) (j : Nat) : (s.setPart k p).page j = s.page j := rfl
@[simp] theorem State.page_setPage_same (k : Nat) (p : Page) : (s.setPage k p).page k = p := by simp [State.page, State.setPage]
theorem State.page_setPage_other (k : Nat) (p : Page) {j : Nat} (h : j ≠ k) : (s.setPage k p).page j = s.page j := by
  simp [State.page, State.setPage, get_put_other _ _ _ h]
@[simp] theorem State.gang_setPage (k : Nat) (p : Page) (j : Nat) : (s.setPage k p).gang j = s.gang j := rfl
@[simp] theorem State.group_setPage (k : Nat) (p : Page) (j : Nat) : (s.setPage k p).group j = s.group j := rfl
@[simp] theorem State.core_setPage (k : Nat) (p : Page) (j : Nat) : (s.setPage k p).core j = s.core j := rfl
@[simp] theorem State.link_setPage (k : Nat) (p : Page) (j : Nat) : (s.setPage k p).link j = s.link j := rfl
@[simp] theorem State.stream_setPage (k : Nat) (p : Page) (j : Nat) : (s.setPage k p).stream j = s.stream j := rfl
@[simp] theorem State.launch_setPage (k : Nat) (p : Page) (j : Nat) : (s.setPage k p).launch j = s.launch j := rfl
@[simp] theorem State.ctx_setPage (k : Nat) (p : Page) (j : Nat) : (s.setPage k p).ctx j = s.ctx j := rfl
@[simp] theorem State.part_setPage (k : Nat) (p : Page) (j : Nat) : (s.setPage k p).part j = s.part j := rfl

/-- Replacing a unit twice is replacing it once. -/
@[simp] theorem State.setGang_setGang (k : Nat) (g h : Gang) : (s.setGang k g).setGang k h = s.setGang k h := by
  simp [State.setGang]

@[simp] theorem State.setGroup_setGroup (k : Nat) (g h : Group) : (s.setGroup k g).setGroup k h = s.setGroup k h := by
  simp [State.setGroup]

@[simp] theorem State.setCore_setCore (k : Nat) (g h : Core) : (s.setCore k g).setCore k h = s.setCore k h := by
  simp [State.setCore]

@[simp] theorem State.setPart_setPart (k : Nat) (g h : Part) : (s.setPart k g).setPart k h = s.setPart k h := by
  simp [State.setPart]

/-! ### Bytes after an update that leaves memory alone -/

@[simp] theorem State.byte_setGang (k : Nat) (g : Gang) (x : Nat) : (s.setGang k g).byte x = s.byte x := rfl
@[simp] theorem State.byte_setGroup (k : Nat) (g : Group) (x : Nat) : (s.setGroup k g).byte x = s.byte x := rfl
@[simp] theorem State.byte_setCore (k : Nat) (c : Core) (x : Nat) : (s.setCore k c).byte x = s.byte x := rfl
@[simp] theorem State.byte_setLink (k : Nat) (l : Link) (x : Nat) : (s.setLink k l).byte x = s.byte x := rfl
@[simp] theorem State.byte_setStream (k : Nat) (c : StreamCtx) (x : Nat) : (s.setStream k c).byte x = s.byte x := rfl
@[simp] theorem State.byte_setQueue (p q : Nat) (c : Queue) (x : Nat) : (s.setQueue p q c).byte x = s.byte x := rfl
@[simp] theorem State.byte_setLaunch (k : Nat) (l : Launch) (x : Nat) : (s.setLaunch k l).byte x = s.byte x := rfl
@[simp] theorem State.byte_setCtx (k : Nat) (y : Ctx) (x : Nat) : (s.setCtx k y).byte x = s.byte x := rfl
@[simp] theorem State.byte_setPart (k : Nat) (p : Part) (x : Nat) : (s.setPart k p).byte x = s.byte x := rfl
@[simp] theorem State.byte_setPage (k : Nat) (p : Page) (x : Nat) : (s.setPage k p).byte x = s.byte x := rfl
@[simp] theorem State.byte_tick1 (x : Nat) : (s.tick1).byte x = s.byte x := rfl
@[simp] theorem State.byte_markPoison (w : Nat) (b : Bool) (x : Nat) : (s.markPoison w b).byte x = s.byte x := rfl

end Sys2Proof.Machine
end

