-- ==== Sys2Proof/Laws/Memory.lean ====
section
/-! SUPPORT. Memory: what a byte reads as after a write, what a store leaves alone, and that every memory operation keeps
the canonical form. -/

namespace Sys2Proof.Machine

/-! ### Reading after writing -/

theorem get_writeByte (m : List Host.Cell) (a x : Nat) (b : Byte) :
    get Config.unwritten (writeByte m a b) x = if x = a then b else get Config.unwritten m x := get_set _ m a x b

/-- What a byte reads as after bytes were written from an address on. -/
theorem get_writeBytes (m : List Host.Cell) (a x : Nat) (bs : List Byte) :
    get Config.unwritten (writeBytes m a bs) x = if a ≤ x ∧ x < a + bs.length then bs.getD (x - a) 0 else get Config.unwritten m x := by
  induction bs generalizing m a with
  | nil => simp [writeBytes, show ¬ (a ≤ x ∧ x < a) by omega]
  | cons b bs ih =>
    simp only [writeBytes, ih, get_writeByte, List.length_cons]
    by_cases h : x = a
    · subst h
      rw [if_neg (by omega), if_pos rfl, if_pos (by omega)]
      simp
    · by_cases hx : a + 1 ≤ x ∧ x < a + 1 + bs.length
      · rw [if_pos hx, if_pos (by omega)]
        obtain ⟨j, hj⟩ : ∃ j, x - a = j + 1 := ⟨x - (a + 1), by omega⟩
        rw [hj, show x - (a + 1) = j by omega]
        simp
      · rw [if_neg hx, if_neg h, if_neg (by omega)]

/-- A byte of a range just written. -/
theorem State.byte_poke (s : State) (a x : Nat) (bs : List Byte) :
    (s.poke a bs).byte x = if a ≤ x ∧ x < a + bs.length then bs.getD (x - a) 0 else s.byte x :=
  get_writeBytes s.mem a x bs

/-- Marks of poison change no byte. -/
theorem State.mem_foldl_markPoison (s : State) (ws : List Nat) (b : Bool) :
    (ws.foldl (fun s w => s.markPoison w b) s).mem = s.mem := by
  induction ws generalizing s with
  | nil => rfl
  | cons w ws ih => simp [ih]

theorem State.byte_foldl_markPoison (s : State) (ws : List Nat) (b : Bool) (x : Nat) :
    (ws.foldl (fun s w => s.markPoison w b) s).byte x = s.byte x := by
  simp [State.byte, State.mem_foldl_markPoison]

/-- A store that is not refused writes its bytes and no others; a refused one changes nothing (07 R161). -/
theorem State.byte_storeAll (s : State) (a x : Nat) (bs : List Byte) :
    (s.storeAll a bs).byte x =
      if s.refusedByPoison a bs.length = false ∧ a ≤ x ∧ x < a + bs.length then bs.getD (x - a) 0 else s.byte x := by
  unfold State.storeAll State.store
  by_cases h : s.refusedByPoison a bs.length = true
  · simp [h]
  · have h' : s.refusedByPoison a bs.length = false := by simpa using h
    simp [h', State.byte_foldl_markPoison, State.byte_poke]

theorem State.byte_storeAll_outside (s : State) {a x : Nat} {bs : List Byte} (h : x < a ∨ a + bs.length ≤ x) :
    (s.storeAll a bs).byte x = s.byte x := by
  rw [State.byte_storeAll, if_neg (by omega)]

/-! ### The canonical form -/

theorem writeByte_wf {m : List Host.Cell} (a : Nat) (b : Byte) (h : Memory.wf m) : Memory.wf (writeByte m a b) := canonical_set a b h

theorem writeBytes_wf {m : List Host.Cell} (a : Nat) (bs : List Byte) (h : Memory.wf m) : Memory.wf (writeBytes m a bs) := by
  induction bs generalizing m a with
  | nil => exact h
  | cons b bs ih => exact ih _ (writeByte_wf a b h)

theorem State.poke_wf {s : State} (a : Nat) (bs : List Byte) (h : Memory.wf s.mem) : Memory.wf (s.poke a bs).mem :=
  writeBytes_wf a bs h

theorem State.store_wf {s : State} (a : Nat) (bs : List Byte) (h : Memory.wf s.mem) : Memory.wf (s.store a bs).1.mem := by
  unfold State.store
  split
  · exact h
  · simpa [State.mem_foldl_markPoison] using writeBytes_wf a bs h

theorem State.storeAll_wf {s : State} (a : Nat) (bs : List Byte) (h : Memory.wf s.mem) : Memory.wf (s.storeAll a bs).mem :=
  State.store_wf a bs h

theorem State.setNum_wf {s : State} (a n x : Nat) (h : Memory.wf s.mem) : Memory.wf (s.setNum a n x).mem := State.storeAll_wf _ _ h

theorem State.storePoisoned_wf {s : State} (a : Nat) (bs : List Byte) (h : Memory.wf s.mem) :
    Memory.wf (s.storePoisoned a bs).mem := by
  simpa [State.storePoisoned, State.mem_foldl_markPoison] using writeBytes_wf a bs h

theorem State.engStore_wf {s : State} (a : Nat) (bs : List Byte) (h : Memory.wf s.mem) : Memory.wf (s.engStore a bs).mem := by
  unfold State.engStore
  generalize protWords a bs.length = ws
  induction ws generalizing s with
  | nil => exact h
  | cons w ws ih => exact ih (State.storeAll_wf _ _ h)

theorem State.clearRange_wf {s : State} (a n : Nat) (h : Memory.wf s.mem) : Memory.wf (s.clearRange a n).mem :=
  canonical_filter _ h

theorem State.setBar_wf {s : State} (a : Nat) (b : Bar) (h : Memory.wf s.mem) : Memory.wf (s.setBar a b).mem := by
  unfold State.setBar
  simp only
  split
  · exact State.storeAll_wf a b.bytes h
  · exact State.storeAll_wf a b.bytes h

/-- Equal readings of canonical memories are equal memories. -/
theorem Memory.ext {m n : List Host.Cell} (hm : Memory.wf m) (hn : Memory.wf n)
    (h : ∀ a, get Config.unwritten m a = get Config.unwritten n a) : m = n := canonical_ext hm hn h

end Sys2Proof.Machine
end

