-- ==== Sys2Proof/Laws/Gang.lean ====
section
/-! SUPPORT. The registers of a gang: what a register reads as after a write, what a write leaves alone, and what retiring an
instruction does. -/

namespace Sys2Proof.Machine

/-! ### Lanes -/

theorem mem_lanesOf {m : Mask} {l : Nat} : l ∈ lanesOf m ↔ l < 32 ∧ has m l = true := by simp [lanesOf, those]

theorem has_lt {m : Mask} {l : Nat} (h : has m l = true) : l < 32 := by
  by_contra hl
  simp [has, BitVec.getLsbD_of_ge m l (by omega)] at h

theorem mem_lanesOf' {m : Mask} {l : Nat} : l ∈ lanesOf m ↔ has m l = true := by
  rw [mem_lanesOf]; exact ⟨fun h => h.2, fun h => ⟨has_lt h, h⟩⟩

/-! ### The register file -/

/-- Every lane and slot has a place of its own. -/
theorem slotKey_inj {l k m n : Nat} (hl : l < 32) (hk : k < 32) : slotKey l m = slotKey k n ↔ l = k ∧ m = n := by
  unfold slotKey; omega

/-- Two names of a lane, or names of two lanes, stand in different places. -/
theorem Gang.vecKey_inj (g : Gang) {l k m n : Nat} (hl : l < 32) (hk : k < 32) : g.vecKey l m = g.vecKey k n ↔ l = k ∧ m = n := by
  unfold Gang.vecKey
  rw [slotKey_inj hl hk]
  constructor
  · rintro ⟨rfl, h⟩
    refine ⟨rfl, ?_⟩
    split at h <;> split at h <;> omega
  · rintro ⟨rfl, rfl⟩; exact ⟨rfl, rfl⟩

@[simp] theorem Gang.vecKey_writeV (g : Gang) (l n k m : Nat) (x : W32) : (g.writeV l n x).vecKey k m = g.vecKey k m := by
  unfold Gang.writeV; split <;> rfl

@[simp] theorem Gang.supH_writeV (g : Gang) (l n : Nat) (x : W32) : (g.writeV l n x).supH = g.supH := by
  unfold Gang.writeV; split <;> rfl

@[simp] theorem Gang.slices_writeV (g : Gang) (l n : Nat) (x : W32) : (g.writeV l n x).slices = g.slices := by
  unfold Gang.writeV; split <;> rfl

/-- WriteV and ReadV (00 R12): the register written reads as the word, and every other as before. -/
theorem Gang.readV_writeV (g : Gang) {l k : Nat} (m n : Nat) (x : W32) (hl : l < 32) (hk : k < 32) :
    (g.writeV l n x).readV k m = if k = l ∧ m = n then x else g.readV k m := by
  unfold Gang.readV
  simp only [Gang.supH_writeV, Gang.vecKey_writeV]
  by_cases hs : g.supH = true ∧ n < 8
  · by_cases hm : g.supH = true ∧ m < 8
    · have key : (8 * k + m = 8 * l + n) ↔ (k = l ∧ m = n) := by omega
      rw [if_pos hm, if_pos hm]
      unfold Gang.writeV
      rw [if_pos hs]
      simp only [Shadow.read, Regs.putShadow, find_put, key]
      by_cases h : k = l ∧ m = n
      · rw [if_pos h, if_pos h]
      · rw [if_neg h, if_neg h]
    · have hn : ¬ (k = l ∧ m = n) := by rintro ⟨-, rfl⟩; exact hm hs
      rw [if_neg hm, if_neg hm, if_neg hn]
      unfold Gang.writeV
      rw [if_pos hs]; rfl
  · by_cases hm : g.supH = true ∧ m < 8
    · have hn : ¬ (k = l ∧ m = n) := by rintro ⟨-, rfl⟩; exact hs hm
      rw [if_pos hm, if_pos hm, if_neg hn]
      unfold Gang.writeV
      rw [if_neg hs]; rfl
    · rw [if_neg hm, if_neg hm]
      unfold Gang.writeV
      rw [if_neg hs]
      simp only [Regs.putVec, get_set, Gang.vecKey_inj g hk hl]

/-- What a fold of writes over lanes leaves. -/
theorem Gang.readV_foldl_writeV (g : Gang) (ls : List Nat) (n m k : Nat) (f : Nat → W32) (hk : k < 32) (hls : ∀ l ∈ ls, l < 32) :
    (ls.foldl (fun g l => g.writeV l n (f l)) g).readV k m = if k ∈ ls ∧ m = n then f k else g.readV k m := by
  induction ls generalizing g with
  | nil => simp
  | cons l ls ih =>
    have hl := hls l List.mem_cons_self
    rw [List.foldl_cons, ih _ fun x hx => hls x (List.mem_cons_of_mem _ hx), Gang.readV_writeV g m n (f l) hl hk]
    by_cases h1 : k ∈ ls ∧ m = n
    · rw [if_pos h1, if_pos ⟨List.mem_cons_of_mem _ h1.1, h1.2⟩]
    · rw [if_neg h1]
      by_cases h2 : k = l ∧ m = n
      · obtain ⟨rfl, rfl⟩ := h2; simp
      · rw [if_neg h2, if_neg]
        rintro ⟨hm, rfl⟩
        rcases List.mem_cons.mp hm with rfl | hm
        · exact h2 ⟨rfl, rfl⟩
        · exact h1 ⟨hm, rfl⟩

/-- A word per lane: the lanes of the mask read as it, every other lane and register as before (01 R15). -/
theorem Gang.readV_writeLanes (g : Gang) (m : Mask) (n k l : Nat) (f : Nat → W32) (hl : l < 32) :
    (g.writeLanes m n f).readV l k = if has m l = true ∧ k = n then f l else g.readV l k := by
  unfold Gang.writeLanes
  rw [Gang.readV_foldl_writeV g _ n k l f hl fun x hx => (mem_lanesOf.mp hx).1]
  simp [mem_lanesOf']

theorem Gang.foldl_writeV_inv {β : Type} (p : Gang → β) (h : ∀ g l n x, p (Gang.writeV g l n x) = p g) (g : Gang) (ls : List Nat)
    (n : Nat) (f : Nat → W32) : p (ls.foldl (fun g l => g.writeV l n (f l)) g) = p g := by
  induction ls generalizing g with
  | nil => rfl
  | cons l ls ih => rw [List.foldl_cons, ih, h]

/-- Writing registers changes nothing but registers. -/
theorem Gang.writeV_frame (g : Gang) (l n : Nat) (x : W32) : g.writeV l n x = { g with regs := (g.writeV l n x).regs } := by
  unfold Gang.writeV; split <;> rfl

theorem Gang.writeLanes_frame (g : Gang) (m : Mask) (n : Nat) (f : Nat → W32) :
    g.writeLanes m n f = { g with regs := (g.writeLanes m n f).regs } := by
  unfold Gang.writeLanes
  induction lanesOf m generalizing g with
  | nil => rfl
  | cons l ls ih =>
    rw [List.foldl_cons, ih, Gang.writeV_frame]

/-! ### Predicates -/

/-- A predicate bit after a write. -/
theorem Gang.readP_writeP (g : Gang) (l n k m : Nat) (x : Bool) (hl : l < 32) :
    (g.writeP l n x).readP k m = if k = l ∧ m = n then x else g.readP k m := by
  unfold Gang.writeP Gang.readP Gang.pmask
  simp only [get_set]
  by_cases hm : m = n
  · subst hm
    have e : (BitVec.ofNat 32 (2 ^ l)).getLsbD k = decide (k = l) := by
      by_cases hk : k < 32
      · rw [BitVec.getLsbD_ofNat, Nat.testBit_two_pow]; simp [hk, eq_comm]
      · have : k ≠ l := by omega
        rw [BitVec.getLsbD_of_ge _ _ (by omega)]; simp [this]
    generalize BitVec.ofNat 32 (2 ^ l) = b at e ⊢
    by_cases hk : k < 32
    · cases x <;> by_cases hkl : k = l <;> simp_all [has]
    · have hkl : k ≠ l := by omega
      cases x <;> simp [has, hkl, BitVec.getLsbD_of_ge _ _ (Nat.le_of_not_lt hk)]
  · simp [hm]

theorem Gang.readP_writePreds (g : Gang) (m : Mask) (n k l : Nat) (f : Nat → Bool) :
    (g.writePreds m n f).readP l k = if has m l = true ∧ k = n then f l else g.readP l k := by
  unfold Gang.writePreds
  have gen : ∀ (ls : List Nat) (g : Gang), (∀ x ∈ ls, x < 32) →
      (ls.foldl (fun g l => g.writeP l n (f l)) g).readP l k = if l ∈ ls ∧ k = n then f l else g.readP l k := by
    intro ls
    induction ls with
    | nil => intro g _; simp
    | cons x ls ih =>
      intro g h
      rw [List.foldl_cons, ih _ fun y hy => h y (List.mem_cons_of_mem _ hy), Gang.readP_writeP g x n l k (f x) (h x List.mem_cons_self)]
      by_cases h1 : l ∈ ls ∧ k = n
      · rw [if_pos h1, if_pos ⟨List.mem_cons_of_mem _ h1.1, h1.2⟩]
      · rw [if_neg h1]
        by_cases h2 : l = x ∧ k = n
        · obtain ⟨rfl, rfl⟩ := h2; simp
        · rw [if_neg h2, if_neg]
          rintro ⟨hm, rfl⟩
          rcases List.mem_cons.mp hm with rfl | hm
          · exact h2 ⟨rfl, rfl⟩
          · exact h1 ⟨hm, rfl⟩
  rw [gen _ g fun x hx => (mem_lanesOf.mp hx).1]
  simp [mem_lanesOf']

/-! ### Pending registers -/

/-- Being a register's later writer changes its pending state and nothing else (10 R224). -/
theorem Gang.laterWriter_frame (g : Gang) (m : Mask) (n : Nat) :
    g.laterWriter m n = { g with regs := { g.regs with pend := (g.laterWriter m n).regs.pend } } := by
  unfold Gang.laterWriter
  simp only
  split
  · rfl
  · split <;> rfl

theorem Gang.laterWriters_frame (g : Gang) (m : Mask) (ns : List Nat) :
    g.laterWriters m ns = { g with regs := { g.regs with pend := (g.laterWriters m ns).regs.pend } } := by
  unfold Gang.laterWriters
  induction ns generalizing g with
  | nil => rfl
  | cons n ns ih => rw [List.foldl_cons, ih, Gang.laterWriter_frame]

@[simp] theorem Gang.readV_laterWriter (g : Gang) (m : Mask) (n l k : Nat) : (g.laterWriter m n).readV l k = g.readV l k := by
  rw [Gang.laterWriter_frame]; rfl

@[simp] theorem Gang.readV_laterWriters (g : Gang) (m : Mask) (ns : List Nat) (l k : Nat) :
    (g.laterWriters m ns).readV l k = g.readV l k := by
  rw [Gang.laterWriters_frame]; rfl

@[simp] theorem Gang.readP_laterWriter (g : Gang) (m : Mask) (n l k : Nat) : (g.laterWriter m n).readP l k = g.readP l k := by
  rw [Gang.laterWriter_frame]; rfl

/-! ### Retirement -/

/-- Slice `i` of a gang whose slices were changed one by one. -/
theorem Gang.slice_onSlices (g : Gang) (ss : List Nat) (f : Nat → Slice → Slice) {i : Nat} (h : i < g.slices.length) :
    (g.onSlices ss f).slice i = if ss.contains i then f i (g.slice i) else g.slice i := by
  simp [Gang.onSlices, Gang.slice, h]

/-- Everything that retiring an instruction does: the cohort's slices go on to their next repetition or word, and the
scheduler notes the retirement (03 R67, R80; 10 R218, R223). -/
theorem State.advance_eq (s : State) (gk : Nat) (ss : List Nat) :
    s.advance gk ss =
      s.setGang gk { (s.gang gk).onSlices ss (fun _ x => x.advance s.clock) with sched := (s.gang gk).sched.retire } := rfl

@[simp] theorem State.mem_advance (s : State) (gk : Nat) (ss : List Nat) : (s.advance gk ss).mem = s.mem := rfl

@[simp] theorem State.byte_advance (s : State) (gk : Nat) (ss : List Nat) (a : Nat) : (s.advance gk ss).byte a = s.byte a := rfl

@[simp] theorem Slice.base_advance (x : Slice) (c : Nat) : (x.advance c).base = x.base := by
  unfold Slice.advance; split
  · simp only; split <;> rfl
  · rfl

/-- Changing slices in a way that keeps their window bases keeps every base. -/
theorem Gang.base_onSlices (g : Gang) (ss : List Nat) (f : Nat → Slice → Slice) (hf : ∀ i x, (f i x).base = x.base) (i : Nat) :
    ((g.onSlices ss f).slice i).base = (g.slice i).base := by
  by_cases h : i < g.slices.length
  · rw [Gang.slice_onSlices _ _ _ h]; split
    · exact hf _ _
    · rfl
  · simp [Gang.slice, Gang.onSlices, List.getElem?_eq_none (by omega : g.slices.length ≤ i)]

/-- A register reads the same in gangs that agree on the bank in use, the registers and the window bases. -/
theorem Gang.readV_congr {g h : Gang} (l n : Nat) (h1 : h.supH = g.supH) (h2 : h.regs.vec = g.regs.vec)
    (h3 : h.regs.shadow = g.regs.shadow) (h4 : (h.slice (l / 4)).base = (g.slice (l / 4)).base) : h.readV l n = g.readV l n := by
  unfold Gang.readV Gang.vecKey; rw [h1, h2, h3, h4]

/-- A register after an instruction retires is what it was before. -/
theorem State.readV_advance (s : State) (gk : Nat) (ss : List Nat) (l n : Nat) :
    ((s.advance gk ss).gang gk).readV l n = (s.gang gk).readV l n := by
  rw [State.advance_eq, State.gang_setGang_same]
  exact Gang.readV_congr l n rfl rfl rfl (Gang.base_onSlices _ ss _ (fun _ x => x.base_advance _) _)

/-- What any core instruction answers: a fault where no gang issues it, the trap or stall of the issue checks, or its
effect. -/
theorem issue_go {i : Instr} {effect : Issue → State → State} {s : State} {e : Issue} (h : s.front i = .go e) :
    issue i effect s = .next (effect e s) := by simp [issue, h]

theorem issue_done {i : Instr} {effect : Issue → State → State} {s t : State} (h : s.front i = .done t) :
    issue i effect s = .next t := by simp [issue, h]

theorem issue_none {i : Instr} {effect : Issue → State → State} {s : State} (h : s.front i = .none) :
    issue i effect s = .fault .noIssuer := by simp [issue, h]

theorem issue_not_refused (i : Instr) (effect : Issue → State → State) (s : State) (r : Refusal) :
    issue i effect s ≠ .refused r := by
  unfold issue; split <;> simp

end Sys2Proof.Machine
end

