-- ==== Sys2Proof/Laws/Flags.lean ====
section
/-! SUPPORT. What the issue checks answer, what writing results changes, and everything that the end of a computing
instruction does. -/

namespace Sys2Proof.Machine

/-! ### The issue checks -/

/-- An instruction that the issue checks let through is issued by the gang, the slices and the address that `cur` names; its
registers are the gang's. -/
theorem State.front_go {s : State} {i : Instr} {e : Issue} (h : s.front i = .go e) :
    e.gk = s.cur.gang ∧ find s.gangs s.cur.gang = some e.g ∧ e.ss = s.cur.slices ∧ e.pc = s.cur.pc := by
  have key : ∃ e₀, s.issueOf i = some e₀ ∧ e.gk = e₀.gk ∧ e.g = e₀.g ∧ e.ss = e₀.ss ∧ e.pc = e₀.pc := by
    unfold State.front at h
    cases hx : s.issueOf i with
    | none => simp [hx] at h
    | some e₀ =>
      refine ⟨e₀, rfl, ?_⟩
      simp only [hx] at h
      cases hd : s.decodeFault e₀ i with
      | some p => simp [hd] at h
      | none =>
        simp only [hd] at h
        cases hf : s.frontStall e₀ i with
        | some r => simp [hf] at h
        | none =>
          simp only [hf] at h
          split at h
          · split at h
            · simp at h
            · obtain rfl := Front.go.inj h; exact ⟨rfl, rfl, rfl, rfl⟩
          · split at h
            · cases hc : s.captureStop e₀ i with
              | some t => simp [hc] at h
              | none => simp only [hc] at h; obtain rfl := Front.go.inj h; exact ⟨rfl, rfl, rfl, rfl⟩
            · simp at h
  obtain ⟨e₀, hx, h1, h2, h3, h4⟩ := key
  unfold State.issueOf at hx
  cases hg : find s.gangs s.cur.gang with
  | none => simp [hg] at hx
  | some g =>
    simp only [hg] at hx
    obtain rfl := Option.some.inj hx
    exact ⟨h1, by rw [h2], h3, h4⟩

theorem State.front_gang {s : State} {i : Instr} {e : Issue} (h : s.front i = .go e) : s.gang e.gk = e.g := by
  obtain ⟨h1, h2, -⟩ := State.front_go h
  simp [State.gang, get, h1, h2]

/-! ### Parts of a gang that writes leave alone -/

/-- Writing a vector register leaves the predicates, random states and pending state alone. -/
theorem Gang.writeV_regs (g : Gang) (l n : Nat) (x : W32) :
    (g.writeV l n x).regs.pred = g.regs.pred ∧ (g.writeV l n x).regs.xs = g.regs.xs ∧ (g.writeV l n x).regs.pend = g.regs.pend := by
  unfold Gang.writeV; split <;> exact ⟨rfl, rfl, rfl⟩

theorem Gang.writeLanes_regs (g : Gang) (m : Mask) (n : Nat) (f : Nat → W32) :
    (g.writeLanes m n f).regs.pred = g.regs.pred ∧ (g.writeLanes m n f).regs.xs = g.regs.xs
      ∧ (g.writeLanes m n f).regs.pend = g.regs.pend := by
  refine ⟨?_, ?_, ?_⟩
  · exact Gang.foldl_writeV_inv (·.regs.pred) (fun g l n x => (g.writeV_regs l n x).1) g _ n f
  · exact Gang.foldl_writeV_inv (·.regs.xs) (fun g l n x => (g.writeV_regs l n x).2.1) g _ n f
  · exact Gang.foldl_writeV_inv (·.regs.pend) (fun g l n x => (g.writeV_regs l n x).2.2) g _ n f

/-- The other bank of v0 to v7 stands whatever register is written (01 R39). -/
theorem Gang.otherBank_writeV (g : Gang) {l : Nat} (n : Nat) (x : W32) (hl : l < 32) :
    (g.supH = false → (g.writeV l n x).regs.shadow = g.regs.shadow)
      ∧ (g.supH = true → ∀ k m, k < 32 → m < 8 →
          get 0 (g.writeV l n x).regs.vec (slotKey k m) = get 0 g.regs.vec (slotKey k m)) := by
  unfold Gang.writeV
  constructor
  · intro hs; rw [if_neg (by simp [hs])]; rfl
  · intro hs k m hk hm
    by_cases hn : n < 8
    · rw [if_pos ⟨hs, hn⟩]; rfl
    · rw [if_neg (fun h => hn h.2)]
      show get 0 (set 0 g.regs.vec (g.vecKey l n) x) (slotKey k m) = _
      rw [get_set, if_neg]
      unfold Gang.vecKey slotKey
      split <;> omega

/-- A property that every write of a lane's register keeps is kept by writes over lanes. -/
theorem Gang.foldl_keeps (P : Gang → Prop) (step : Gang → Nat → Gang) (ls : List Nat) (hls : ∀ l ∈ ls, l < 32)
    (h : ∀ g l, l < 32 → P g → P (step g l)) (g : Gang) (hg : P g) : P (ls.foldl step g) := by
  induction ls generalizing g with
  | nil => exact hg
  | cons l ls ih => exact ih (fun x hx => hls x (List.mem_cons_of_mem _ hx)) _ (h g l (hls l List.mem_cons_self) hg)

/-- What writing vector registers of lanes leaves alone: everything but the registers of the bank in use. -/
structure Gang.VecOnly (g h : Gang) : Prop where
  frame : h = { g with regs := h.regs }
  pred : h.regs.pred = g.regs.pred
  xs : h.regs.xs = g.regs.xs
  pend : h.regs.pend = g.regs.pend
  shadow : g.supH = false → h.regs.shadow = g.regs.shadow
  user : g.supH = true → ∀ k m, k < 32 → m < 8 → get 0 h.regs.vec (slotKey k m) = get 0 g.regs.vec (slotKey k m)

theorem Gang.VecOnly.rfl' (g : Gang) : Gang.VecOnly g g := ⟨rfl, rfl, rfl, rfl, fun _ => rfl, fun _ _ _ _ _ => rfl⟩

theorem Gang.VecOnly.supH {g h : Gang} (x : Gang.VecOnly g h) : h.supH = g.supH := by rw [x.frame]

theorem Gang.VecOnly.trans {g h k : Gang} (a : Gang.VecOnly g h) (b : Gang.VecOnly h k) : Gang.VecOnly g k where
  frame := by rw [b.frame, a.frame]
  pred := b.pred.trans a.pred
  xs := b.xs.trans a.xs
  pend := b.pend.trans a.pend
  shadow hs := (b.shadow (a.supH.trans hs)).trans (a.shadow hs)
  user hs l m hl hm := (b.user (a.supH.trans hs) l m hl hm).trans (a.user hs l m hl hm)

theorem Gang.VecOnly.writeV (g : Gang) {l : Nat} (n : Nat) (x : W32) (hl : l < 32) : Gang.VecOnly g (g.writeV l n x) :=
  have ⟨h1, h2, h3⟩ := g.writeV_regs l n x
  have ⟨h4, h5⟩ := g.otherBank_writeV n x hl
  ⟨g.writeV_frame l n x, h1, h2, h3, h4, h5⟩

theorem Gang.VecOnly.writeLanes (g : Gang) (m : Mask) (n : Nat) (f : Nat → W32) : Gang.VecOnly g (g.writeLanes m n f) :=
  Gang.foldl_keeps (Gang.VecOnly g) _ _ (fun _ hx => (mem_lanesOf.mp hx).1)
    (fun h _ hl hx => hx.trans (.writeV h n _ hl)) g (.rfl' g)

theorem Gang.VecOnly.writePairs (g : Gang) (m : Mask) (n : Nat) (f : Nat → W64) : Gang.VecOnly g (g.writePairs m n f) :=
  Gang.foldl_keeps (Gang.VecOnly g) _ _ (fun _ hx => (mem_lanesOf.mp hx).1)
    (fun h _ hl hx => hx.trans ((Gang.VecOnly.writeV h n _ hl).trans (.writeV _ (n + 1) _ hl))) g (.rfl' g)

/-- A pair per lane (01 R19): the even register reads as its low half, the next as its high half. -/
theorem Gang.readV_writePairs (g : Gang) (m : Mask) (n k l : Nat) (f : Nat → W64) (hl : l < 32) :
    (g.writePairs m n f).readV l k
      = if has m l = true ∧ (k = n ∨ k = n + 1) then (if k = n then lo32 (f l) else hi32 (f l)) else g.readV l k := by
  unfold Gang.writePairs
  have gen : ∀ (ls : List Nat) (g : Gang), (∀ x ∈ ls, x < 32) →
      (ls.foldl (fun g l => g.writePair l n (f l)) g).readV l k
        = if l ∈ ls ∧ (k = n ∨ k = n + 1) then (if k = n then lo32 (f l) else hi32 (f l)) else g.readV l k := by
    intro ls
    induction ls with
    | nil => intro g _; simp
    | cons x ls ih =>
      intro g h
      have hx := h x List.mem_cons_self
      rw [List.foldl_cons, ih _ fun y hy => h y (List.mem_cons_of_mem _ hy)]
      unfold Gang.writePair
      rw [Gang.readV_writeV _ _ _ _ hx hl, Gang.readV_writeV _ _ _ _ hx hl]
      by_cases h1 : l ∈ ls <;> by_cases h2 : l = x <;> by_cases h3 : k = n <;> by_cases h4 : k = n + 1 <;> simp_all
  rw [gen _ g fun x hx => (mem_lanesOf.mp hx).1]
  simp [mem_lanesOf']

/-- Writing predicates leaves everything but the predicates alone. -/
theorem Gang.writePreds_frame (g : Gang) (m : Mask) (n : Nat) (f : Nat → Bool) :
    g.writePreds m n f = { g with regs := { g.regs with pred := (g.writePreds m n f).regs.pred } } := by
  unfold Gang.writePreds
  induction lanesOf m generalizing g with
  | nil => rfl
  | cons l ls ih => rw [List.foldl_cons, ih]; rfl

/-- Advancing random states leaves everything but the random states alone. -/
theorem Gang.drawLanes_frame (g : Gang) (m : Mask) (os : Store Out) :
    g.drawLanes m os = { g with regs := { g.regs with xs := (g.drawLanes m os).regs.xs } } := by
  unfold Gang.drawLanes
  induction lanesOf m generalizing g with
  | nil => rfl
  | cons l ls ih =>
    rw [List.foldl_cons, ih]
    simp only
    split <;> rfl

/-- The lanes of the mask take the steps that they consumed (01 R32). -/
theorem Gang.xsOf_drawLanes (g : Gang) (m : Mask) (os : Store Out) (l : Nat) :
    (g.drawLanes m os).xsOf l = if has m l = true then (g.xsOf l).steps (get {} os l).draws else g.xsOf l := by
  unfold Gang.drawLanes
  have one : ∀ (g : Gang) (x d : Nat), Gang.xsOf (if d = 0 then g else g.setXs x ((g.xsOf x).steps d)) l
      = if l = x then (g.xsOf l).steps d else g.xsOf l := by
    intro g x d
    by_cases h0 : d = 0
    · subst h0; simp [Xs.steps]
    · rw [if_neg h0]
      by_cases hx : l = x
      · subst hx; simp [Gang.xsOf, Gang.setXs]
      · simp [hx, Gang.xsOf, Gang.setXs, find_put]
  have gen : ∀ (d : Nat → Nat) (ls : List Nat) (g : Gang), ls.Nodup →
      Gang.xsOf (ls.foldl (fun g x => if d x = 0 then g else g.setXs x ((g.xsOf x).steps (d x))) g) l
        = if l ∈ ls then (g.xsOf l).steps (d l) else g.xsOf l := by
    intro d ls
    induction ls with
    | nil => intro g _; simp
    | cons x ls ih =>
      intro g h
      rw [List.foldl_cons, ih _ (List.nodup_cons.mp h).2, one]
      have hx := (List.nodup_cons.mp h).1
      by_cases h1 : l = x
      · subst h1; simp [hx]
      · simp [h1]
  have nd : (lanesOf m).Nodup := List.Nodup.filter _ List.nodup_range
  refine (gen (fun x => (get {} os x).draws) _ g nd).trans ?_
  by_cases h : has m l = true
  · rw [if_pos (mem_lanesOf'.mpr h), if_pos h]
  · rw [if_neg fun h' => h (mem_lanesOf'.mp h'), if_neg h]

/-! ### Sending and writing results -/

/-- Sending an entry changes the queue that it enters and nothing else (10 R234). -/
theorem State.sendEntry_frame (s : State) (k : Nat) (ws : List W32) (m : Mask) :
    s.sendEntry k ws m = { s with links := (s.sendEntry k ws m).links } := rfl

/-- Sending a result changes queues and nothing else (03 R77). -/
theorem State.fanSend_frame (s : State) (e : Issue) (m : Mask) (wide : Bool) (f : Nat → W64) :
    s.fanSend e m wide f = { s with links := (s.fanSend e m wide f).links } := by
  have keep : ∀ (ls : List Nat) (step : State → Nat → State) (s : State),
      (∀ s x, step s x = { s with links := (step s x).links }) → ls.foldl step s = { s with links := (ls.foldl step s).links } := by
    intro ls step
    induction ls with
    | nil => intro s _; rfl
    | cons x ls ih => intro s h; rw [List.foldl_cons, ih _ h, h s x]
  unfold State.fanSend
  extract_lets fs low high both s1 s2
  have h1 : s1 = { s with links := s1.links } := by
    apply keep; intro s x; split
    · split <;> rfl
    · rfl
  have h2 : s2 = { s1 with links := s2.links } := by
    by_cases h : bit fs 5 = true
    · have : s2 = (List.range 4).foldl (fun s j =>
          if m &&& quarterMask j = 0 then s
          else s.sendEntry (portKey e.gk j) (both (lanesOf (m &&& quarterMask j))) (m &&& quarterMask j)) s1 := if_pos h
      rw [this]
      apply keep; intro s x; split <;> rfl
    · have : s2 = s1 := if_neg h
      rw [this]
  clear_value s2 s1
  split
  · rw [State.sendEntry_frame, h2, h1]
  · rw [h2, h1]

/-- Writing a vector result: the register file where the fan-out set holds it, and the queues of its other consumers. -/
theorem State.writeResult_eq (s : State) (e : Issue) (i : Instr) (m : Mask) (n : Nat) (wide : Bool) (f : Nat → W64) :
    ∃ ls, s.writeResult e i m n wide f
        = { (if bit (e.fanOf i) 0 = true then
              s.setGang e.gk (Gang.laterWriters (if wide then (s.gang e.gk).writePairs m n f
                else (s.gang e.gk).writeLanes m n fun l => lo32 (f l)) m (if wide then [n, n + 1] else [n]))
             else s) with links := ls }
      ∧ (e.fanOf i = 1 → ls = s.links) := by
  unfold State.writeResult Issue.fanOf
  extract_lets fs g names s1
  have hs1 : s1.links = s.links := by simp only [s1]; split <;> rfl
  have e1 : s1 = { s1 with links := s.links } := by rw [← hs1]
  by_cases hf : (desc i).fan = true ∧ fs ≠ 1
  · rw [if_pos hf]
    exact ⟨_, s1.fanSend_frame e m wide f, fun h => absurd h hf.2⟩
  · rw [if_neg hf]
    exact ⟨s.links, e1, fun _ => rfl⟩

/-- What writing the results of some lanes leaves: the destinations written, everything else as before. -/
structure State.Wrote (s t : State) (e : Issue) (i : Instr) (m : Mask) (os : Store Out) : Prop where
  frame : t = { s with gangs := t.gangs, links := t.links }
  others : ∀ k, k ≠ e.gk → t.gang k = s.gang k
  links : e.fanOf i = 1 → t.links = s.links
  gang : t.gang e.gk = { s.gang e.gk with regs := (t.gang e.gk).regs }
  vec : WritesV (s.gang e.gk) (t.gang e.gk) m (s.vecDests e i) (fun l n => s.outReg i (get {} os l) n)
  pred : WritesP (s.gang e.gk) (t.gang e.gk) m (s.predDests i) (fun l => (get {} os l).p)
  xs : (t.gang e.gk).regs.xs = (s.gang e.gk).regs.xs
  pend : (t.gang e.gk).regs.pend
    = ((s.gang e.gk).laterWriters m (s.vecDests e i ++ (s.predDests i).map (64 + ·))).regs.pend

theorem Gang.laterWriter_pend_congr {g h : Gang} (m : Mask) (n : Nat) (h1 : h.regs.pend = g.regs.pend) (h2 : h.supH = g.supH)
    (h3 : h.frozen = g.frozen) : (h.laterWriter m n).regs.pend = (g.laterWriter m n).regs.pend := by
  have hn : h.pname n = g.pname n := by simp only [Gang.pname, h2]
  have hp : h.pend (g.pname n) = g.pend (g.pname n) := by simp only [Gang.pend, h1]
  unfold Gang.laterWriter
  rw [hn, hp, h3]
  extract_lets p rest
  by_cases c1 : ¬ p.on = true ∨ g.frozen = true
  · rw [if_pos c1, if_pos c1]; exact h1
  · rw [if_neg c1, if_neg c1]
    by_cases c2 : rest = 0
    · rw [if_pos c2, if_pos c2]; show put h.regs.pend _ _ = put g.regs.pend _ _; rw [h1]
    · rw [if_neg c2, if_neg c2]; show put h.regs.pend _ _ = put g.regs.pend _ _; rw [h1]

theorem Gang.laterWriters_pend_congr {g h : Gang} (m : Mask) (ns : List Nat) (h1 : h.regs.pend = g.regs.pend)
    (h2 : h.supH = g.supH) (h3 : h.frozen = g.frozen) : (h.laterWriters m ns).regs.pend = (g.laterWriters m ns).regs.pend := by
  induction ns generalizing g h with
  | nil => exact h1
  | cons n ns ih =>
    refine ih (g.laterWriter_pend_congr m n h1 h2 h3) ?_ ?_
    · show (h.laterWriter m n).supH = (g.laterWriter m n).supH
      rw [Gang.laterWriter_frame, Gang.laterWriter_frame g]; exact h2
    · show (h.laterWriter m n).frozen = (g.laterWriter m n).frozen
      rw [Gang.laterWriter_frame, Gang.laterWriter_frame g]; exact h3

theorem Gang.VecOnly.frozen {g h : Gang} (x : Gang.VecOnly g h) : h.frozen = g.frozen := by rw [x.frame]; rfl

/-- Being a later writer keeps what a register reads as. -/
theorem Gang.laterWriters_regs (g : Gang) (m : Mask) (ns : List Nat) :
    (g.laterWriters m ns).regs.shadow = g.regs.shadow ∧ (g.laterWriters m ns).regs.vec = g.regs.vec
      ∧ (g.laterWriters m ns).regs.pred = g.regs.pred ∧ (g.laterWriters m ns).regs.xs = g.regs.xs := by
  rw [Gang.laterWriters_frame]; exact ⟨rfl, rfl, rfl, rfl⟩

theorem State.writeOuts_wrote (s : State) (e : Issue) (i : Instr) (m : Mask) (os : Store Out) :
    State.Wrote s (s.writeOuts e i m os) e i m os := by
  unfold State.writeOuts
  cases hd : destOf i with
  | none =>
    exact ⟨rfl, fun _ _ => rfl, fun _ => rfl, rfl, ⟨by simp [State.vecDests, hd], fun _ => rfl, fun _ _ _ _ _ => rfl⟩,
      fun l n _ => by simp [State.predDests, hd], rfl, by simp [State.vecDests, State.predDests, hd, Gang.laterWriters]⟩
  | some o =>
    simp only
    by_cases hp : o.kind = .pred
    · rw [if_pos hp]
      have hv : s.vecDests e i = [] := by simp [State.vecDests, hd, hp]
      have hq : s.predDests i = [s.cur.num o] := by simp [State.predDests, hd, hp]
      refine ⟨rfl, fun k hk => State.gang_setGang_other _ _ _ hk, fun _ => rfl, ?_, ⟨?_, ?_, ?_⟩, ?_, ?_, ?_⟩
      · rw [State.gang_setGang_same, Gang.laterWriter_frame, Gang.writePreds_frame]
      · intro l n hl
        rw [State.gang_setGang_same, Gang.readV_laterWriter, Gang.writePreds_frame, hv]; simp [Gang.readV, Gang.vecKey, Gang.slice]
      · intro _; rw [State.gang_setGang_same, Gang.laterWriter_frame, Gang.writePreds_frame]
      · intro _ l n _ _; rw [State.gang_setGang_same, Gang.laterWriter_frame, Gang.writePreds_frame]
      · intro l n hl
        rw [State.gang_setGang_same, Gang.readP_laterWriter, Gang.readP_writePreds, hq]; simp
      · rw [State.gang_setGang_same, Gang.laterWriter_frame, Gang.writePreds_frame]
      · rw [State.gang_setGang_same, hv, hq]
        show _ = ((s.gang e.gk).laterWriter m (64 + s.cur.num o)).regs.pend
        apply Gang.laterWriter_pend_congr <;> rw [Gang.writePreds_frame]
        rfl
    · rw [if_neg hp]
      have hq : s.predDests i = [] := by simp [State.predDests, hd, hp]
      obtain ⟨ls, h1, h2⟩ := s.writeResult_eq e i m (s.cur.num o) (decide ((s.opNames e o).length = 2)) fun l => (get {} os l).val
      rw [h1]
      by_cases hb : bit (e.fanOf i) 0 = true
      · rw [if_pos hb]
        have hk : ∀ w : Bool, ∃ g' : Gang, g' = (if w = true then (s.gang e.gk).writePairs m (s.cur.num o) (fun l => (get {} os l).val)
              else (s.gang e.gk).writeLanes m (s.cur.num o) fun l => lo32 (get {} os l).val) ∧ Gang.VecOnly (s.gang e.gk) g'
            ∧ ∀ l n, l < 32 → g'.readV l n
                = if has m l = true ∧ n ∈ (if w = true then [s.cur.num o, s.cur.num o + 1] else [s.cur.num o])
                  then s.outReg i (get {} os l) n else (s.gang e.gk).readV l n := by
          intro w
          cases w with
          | true =>
            refine ⟨_, rfl, .writePairs _ _ _ _, fun l n hl => ?_⟩
            rw [if_pos rfl, Gang.readV_writePairs _ _ _ _ _ _ hl]
            simp [State.outReg, hd]
          | false =>
            refine ⟨_, rfl, .writeLanes _ _ _ _, fun l n hl => ?_⟩
            rw [if_neg (by simp), Gang.readV_writeLanes _ _ _ _ _ _ hl]
            by_cases h : n = s.cur.num o <;> simp [State.outReg, hd, h]
        have hv : s.vecDests e i
            = if decide ((s.opNames e o).length = 2) = true then [s.cur.num o, s.cur.num o + 1] else [s.cur.num o] := by
          simp [State.vecDests, hd, hp, hb]
        obtain ⟨g', e1, x, r⟩ := hk (decide ((s.opNames e o).length = 2))
        rw [← e1]
        have gg : (({ s.setGang e.gk (g'.laterWriters m (if decide ((s.opNames e o).length = 2) = true
            then [s.cur.num o, s.cur.num o + 1] else [s.cur.num o])) with links := ls } : State)).gang e.gk
            = g'.laterWriters m (s.vecDests e i) := by rw [hv]; exact State.gang_setGang_same _ _ _
        have ⟨q1, q2, q3, q4⟩ := g'.laterWriters_regs m (s.vecDests e i)
        refine ⟨rfl, fun k hk => State.gang_setGang_other _ _ _ hk, h2, ?_, ⟨?_, ?_, ?_⟩, ?_, ?_, ?_⟩
        · rw [gg, Gang.laterWriters_frame, x.frame]
        · intro l n hl; rw [gg, Gang.readV_laterWriters, r l n hl, hv]
        · intro hs; rw [gg, q1]; exact x.shadow hs
        · intro hs l n hl hn; rw [gg, q2]; exact x.user hs l n hl hn
        · intro l n _; rw [gg, hq]; simp [Gang.readP, Gang.pmask, q3, x.pred]
        · rw [gg, q4]; exact x.xs
        · rw [gg, hq]; simp only [List.map_nil, List.append_nil]
          exact Gang.laterWriters_pend_congr m _ x.pend x.supH x.frozen
      · rw [if_neg hb]
        have hb' : bit (e.fanOf i) 0 = false := by simpa using hb
        have hv : s.vecDests e i = [] := by simp [State.vecDests, hd, hb']
        exact ⟨rfl, fun _ _ => rfl, h2, rfl, ⟨fun l n _ => by rw [hv]; simp; rfl, fun _ => rfl, fun _ _ _ _ _ => rfl⟩,
          fun l n _ => by rw [hq]; simp; rfl, rfl, by rw [hv, hq]; rfl⟩

/-- Everything that the end of a computing instruction does where no lane raises an enabled flag. -/
theorem State.finish_finishes (s : State) (e : Issue) (i : Instr) (os : Store Out) (h0 : raisingLanes os e.g.sys.fpctl = 0) :
    Finishes s (s.finish e i os) e i (get {} os) (flagsOf os e.act) (satOf os) := by
  have hm : e.act &&& ~~~(0 : Mask) = e.act := BitVec.and_allOnes
  have w := s.writeOuts_wrote e i e.act os
  unfold State.finish
  rw [h0]
  simp only [hm, if_true]
  generalize s.writeOuts e i e.act os = t at w
  obtain ⟨f, o, li, ga, ⟨v1, v2, v3⟩, pr, x, pe⟩ := w
  have e1 : ∀ (u : State) g, (u.setGang e.gk g).gang e.gk = g := fun u g => State.gang_setGang_same u e.gk g
  have final : ((((t.setGang e.gk ((t.gang e.gk).drawLanes e.act os)).raise e.gk (flagsOf os e.act) (satOf os)).advance e.gk e.ss)).gang e.gk
      = { s.gang e.gk with
            regs := { (t.gang e.gk).regs with xs := ((t.gang e.gk).drawLanes e.act os).regs.xs }
            sys := (s.gang e.gk).sys.raise (flagsOf os e.act) (satOf os)
            slices := ((s.gang e.gk).onSlices e.ss fun _ x => x.advance s.clock).slices
            sched := (s.gang e.gk).sched.retire } := by
    have hc : t.clock = s.clock := by rw [f]
    rw [State.advance_eq, e1]
    simp only [State.raise, e1]
    rw [Gang.drawLanes_frame, ga]
    show _ = _
    simp only [Gang.onSlices]
    rw [← hc]
    rfl
  refine ⟨⟨?_, ?_⟩, ?_, ⟨?_, ?_⟩, ?_, ?_, ⟨?_, ?_, ?_⟩, ?_, ?_, ?_⟩
  · rw [f]; rfl
  · intro k hk
    rw [State.advance_eq, State.gang_setGang_other _ _ _ hk, State.raise, State.gang_setGang_other _ _ _ hk,
      State.gang_setGang_other _ _ _ hk, o k hk]
  · intro a; rw [f]; rfl
  · rw [final]
  · rw [final]
  · intro hf; rw [← li hf]; rfl
  · rw [final]
  · intro l n hl
    rw [final, ← v1 l n hl]
    refine Gang.readV_congr l n ?_ rfl rfl ?_
    · rw [ga]
    · refine (Gang.base_onSlices (s.gang e.gk) e.ss _ (fun _ x => x.base_advance s.clock) (l / 4)).trans ?_
      rw [ga]; rfl
  · intro hs; rw [final]; exact v2 hs
  · intro hs; rw [final]; exact v3 hs
  · intro l n hl; rw [final, ← pr l n hl]; rfl
  · intro l hl
    rw [final]
    have : ∀ g : Gang, g.regs.xs = (s.gang e.gk).regs.xs → g.xsOf l = (s.gang e.gk).xsOf l := by
      intro g h; simp only [Gang.xsOf, h]
    rw [← this _ x, ← Gang.xsOf_drawLanes]
    rfl
  · rw [final]; exact pe

end Sys2Proof.Machine
end

