-- ==== Sys2Proof/Laws/Compute.lean ====
section
/-! SUPPORT. The computing instructions: each is the one shared meaning of its kernel, and what that meaning leaves. -/

namespace Sys2Proof.Machine

/-- Every instruction with a kernel, MOVW apart, is the shared meaning of that kernel. -/
theorem exec_compute {i : Instr} {k : Kernel} (h : kernelOf i = some k) (hm : ∀ d a, i ≠ .movw d a) (s : State) :
    exec i s = compute i k s := by
  cases i <;> first
    | (simp only [kernelOf, Option.some.injEq, reduceCtorEq] at h; done)
    | (simp only [kernelOf, Option.some.injEq] at h; subst h; rfl)
    | exact absurd rfl (hm _ _)

/-- The outcome of an active lane. -/
theorem get_outcomes (k : Kernel) (env : Env) (d : Out) {l : Nat} (h : has env.act l = true) : get d (outcomes k env) l = k env l := by
  unfold outcomes
  have gen : ∀ ls : List Nat, l ∈ ls → get d (ls.map fun l => (l, k env l)) l = k env l := by
    intro ls
    induction ls with
    | nil => intro h; simp at h
    | cons x ls ih =>
      intro hm
      by_cases hx : l = x
      · subst hx; simp [get, find]
      · have := ih (by simpa [hx] using hm)
        simpa [get, find, hx] using this
  exact gen _ (mem_lanesOf'.mpr h)

/-- Results that agree on the active lanes are delivered alike. -/
theorem Delivers.congr {s : State} {e : Issue} {i : Instr} {g h : Gang} {m : Mask} {p q : Nat → Out}
    (hpq : ∀ l, has m l = true → p l = q l) (d : Delivers s e i g h m p) : Delivers s e i g h m q := by
  obtain ⟨⟨v1, v2, v3⟩, pr, x, pe⟩ := d
  refine ⟨⟨fun l n hl => ?_, v2, v3⟩, fun l n hl => ?_, fun l hl => ?_, pe⟩
  · rw [v1 l n hl]; by_cases hc : has m l = true
    · simp only [hpq l hc]
    · simp [hc]
  · rw [pr l n hl]; by_cases hc : has m l = true
    · simp only [hpq l hc]
    · simp [hc]
  · rw [x l hl]; by_cases hc : has m l = true
    · simp only [hpq l hc]
    · simp [hc]

end Sys2Proof.Machine
end

