-- ==== Sys2Proof/Tests/Slice0.lean ====
section
/-! SUPPORT. Tests: words against the encoding tables and the worked examples of the manual, ill-formed terms, single steps with
results worked out by hand from the rules, and for each statement a state and operands that meet its hypotheses. -/

namespace Sys2Proof.Tests

set_option Elab.async false

open Sys2Proof Sys2Proof.Machine

/-! ### Words of the opcode table, field by field (03 R68, R84; spec/opcode_table.json) -/

theorem test_decode_01 :
    decodeWord 0b00000001_000000_001100_000001_111001#32 = .ok (.add 12 1 57)
    ∧ decodeWord 0b00000001_000001_000111_111011_110100#32 = .ok (.sub 7 59 52)
    ∧ decodeWord 0b00000001_000010_000010_110110_101111#32 = .ok (.mul 2 54 47)
    ∧ decodeWord 0b00000001_000011_111101_110001_101010#32 = .ok (.mulh 61 49 42)
    ∧ decodeWord 0b00000001_000100_111000_101100_100101#32 = .ok (.min 56 44 37)
    ∧ decodeWord 0b00000001_000101_110011_100111_100000#32 = .ok (.max 51 39 32)
    ∧ decodeWord 0b00000001_000110_101110_100010_011011#32 = .ok (.div 46 34 27)
    ∧ decodeWord 0b00000001_000111_101001_011101_010110#32 = .ok (.rem 41 29 22) := by
  decide
theorem test_decode_02 :
    decodeWord 0b00000010_000000_100100_011000_000000#32 = .ok (.abs 36 24)
    ∧ decodeWord 0b00000010_000001_011111_010011_000000#32 = .ok (.neg 31 19)
    ∧ decodeWord 0b00000010_000010_011010_001110_000000#32 = .ok (.sqrt 26 14)
    ∧ decodeWord 0b00000010_000011_010101_001001_000000#32 = .ok (.rcp 21 9)
    ∧ decodeWord 0b00000010_000100_010000_000100_000000#32 = .ok (.rsq 16 4)
    ∧ decodeWord 0b00000010_000101_001011_111111_000000#32 = .ok (.exp2 11 63)
    ∧ decodeWord 0b00000010_000110_000110_111010_000000#32 = .ok (.log2 6 58)
    ∧ decodeWord 0b00000010_000111_000001_110101_000000#32 = .ok (.sin 1 53)
    ∧ decodeWord 0b00000010_001000_111100_110000_000000#32 = .ok (.cos 60 48) := by
  decide
theorem test_decode_03 :
    decodeWord 0b00000011_000000_110111_101011_100100#32 = .ok (.and 55 43 36)
    ∧ decodeWord 0b00000011_000001_110010_100110_011111#32 = .ok (.or 50 38 31)
    ∧ decodeWord 0b00000011_000010_101101_100001_011010#32 = .ok (.xor 45 33 26)
    ∧ decodeWord 0b00000011_000011_101000_011100_010101#32 = .ok (.andn 40 28 21)
    ∧ decodeWord 0b00000011_000100_100011_010111_000000#32 = .ok (.not 35 23)
    ∧ decodeWord 0b00000011_000101_011110_010010_001011#32 = .ok (.shl 30 18 11)
    ∧ decodeWord 0b00000011_000110_011001_001101_000110#32 = .ok (.shr 25 13 6)
    ∧ decodeWord 0b00000011_000111_010100_001000_000001#32 = .ok (.sar 20 8 1)
    ∧ decodeWord 0b00000011_001000_001111_000011_111100#32 = .ok (.rot 15 3 60)
    ∧ decodeWord 0b00000011_001001_001010_111110_000000#32 = .ok (.popc 10 62)
    ∧ decodeWord 0b00000011_001010_000101_111001_000000#32 = .ok (.clz 5 57)
    ∧ decodeWord 0b00000011_001011_000001_110100_000000#32 = .ok (.brev 1 52) := by
  decide
theorem test_decode_04 :
    decodeWord 0b00000100_010011_101111_101000_101011#32 = .ok (.cvt 19 47 40 43) := by
  decide
theorem test_decode_05 :
    decodeWord 0b00000101_000000_110110_101010_100011#32 = .ok (.cmpEq 54 42 35)
    ∧ decodeWord 0b00000101_000001_110001_100101_011110#32 = .ok (.cmpNe 49 37 30)
    ∧ decodeWord 0b00000101_000010_101100_100000_011001#32 = .ok (.cmpLt 44 32 25)
    ∧ decodeWord 0b00000101_000011_100111_011011_010100#32 = .ok (.cmpLe 39 27 20)
    ∧ decodeWord 0b00000101_000100_100010_010110_001111#32 = .ok (.cmpGt 34 22 15)
    ∧ decodeWord 0b00000101_000101_011101_010001_001010#32 = .ok (.cmpGe 29 17 10)
    ∧ decodeWord 0b00000101_000110_011000_001100_000101#32 = .ok (.cmpUn 24 12 5)
    ∧ decodeWord 0b00000101_000111_010011_000111_000001#32 = .ok (.cmpClass 19 7 1) := by
  decide
theorem test_decode_06 :
    decodeWord 0b00000110_000000_001110_000010_000000#32 = .ok (.mov 14 2)
    ∧ decodeWord 0b00000110_000001_001001_111101_000000#32 = .ok (.movw 9 61)
    ∧ decodeWord 0b00000110_000010_000100_111000_000000#32 = .ok (.wmov 4 56) := by
  decide
theorem test_decode_07 :
    decodeWord 0b00000111_000000_111111_110011_101100#32 = .ok (.pand 63 51 44)
    ∧ decodeWord 0b00000111_000001_111010_101110_100111#32 = .ok (.por 58 46 39)
    ∧ decodeWord 0b00000111_000010_110101_101001_100010#32 = .ok (.pxor 53 41 34)
    ∧ decodeWord 0b00000111_000011_110000_100100_000000#32 = .ok (.pnot 48 36)
    ∧ decodeWord 0b00000111_000100_101011_011111_000000#32 = .ok (.pmov 43 31) := by
  decide
theorem test_decode_08 :
    decodeWord 0b00001000_000000_100110_011010_010011#32 = .ok (.shfl 38 26 19)
    ∧ decodeWord 0b00001000_000001_100001_010101_001110#32 = .ok (.shflup 33 21 14)
    ∧ decodeWord 0b00001000_000010_011100_010000_001001#32 = .ok (.shfldn 28 16 9)
    ∧ decodeWord 0b00001000_000011_010111_001011_000100#32 = .ok (.shflx 23 11 4) := by
  decide
theorem test_decode_09 :
    decodeWord 0b00001001_000000_010010_000110_000000#32 = .ok (.ballot 18 6)
    ∧ decodeWord 0b00001001_000001_001101_000001_000000#32 = .ok (.vany 13 1)
    ∧ decodeWord 0b00001001_000010_001000_111100_000000#32 = .ok (.vall 8 60)
    ∧ decodeWord 0b00001001_000011_000011_110111_000000#32 = .ok (.match 3 55) := by
  decide
theorem test_decode_0A :
    decodeWord 0b00001010_000000_000000_111110_110010#32 = .ok (.rngsplit 62 50)
    ∧ decodeWord 0b00001010_000001_111001_000000000000#32 = .ok (.rngnext 57)
    ∧ decodeWord 0b00001010_000010_110100_000000000000#32 = .ok (.rngf 52) := by
  decide
theorem test_decode_0B :
    decodeWord 0b00001011_000000_101111_100011_000000#32 = .ok (.srd 47 35) := by
  decide
theorem test_decode_30 :
    decodeWord 0b00110000_000000_000000_001011_000000#32 = .ok (.callr 11)
    ∧ decodeWord 0b00110000_000001_000000000000000000#32 = .ok (.ret)
    ∧ decodeWord 0b00110000_000010_000000_000001_000000#32 = .ok (.jmpr 1)
    ∧ decodeWord 0b00110000_000011_000000000000000000#32 = .ok (.exit) := by
  decide
theorem test_decode_31 :
    decodeWord 0b00110001_000000_110111_101011_000000#32 = .ok (.jset 55 43)
    ∧ decodeWord 0b00110001_000001_110010_000000000000#32 = .ok (.jsetAct 50)
    ∧ decodeWord 0b00110001_000010_000000000000000000#32 = .ok (.jarr)
    ∧ decodeWord 0b00110001_000011_000000000000000000#32 = .ok (.jwait)
    ∧ decodeWord 0b00110001_000100_000000_100011_000000#32 = .ok (.regang 35) := by
  decide
theorem test_decode_32 :
    decodeWord 0b00110010_000000_000000_011110_000000#32 = .ok (.setmv 30)
    ∧ decodeWord 0b00110010_000001_011001_000000000000#32 = .ok (.getm 25)
    ∧ decodeWord 0b00110010_000010_000000000000000000#32 = .ok (.drain)
    ∧ decodeWord 0b00110010_000011_000000000000000000#32 = .ok (.nop)
    ∧ decodeWord 0b00110010_000100_000000000000000000#32 = .ok (.yield)
    ∧ decodeWord 0b00110010_000101_000111000010000101#32 = .ok (.trap 28805)
    ∧ decodeWord 0b00110010_000110_000000000000000000#32 = .ok (.tret)
    ∧ decodeWord 0b00110010_000111_000111001011111011#32 = .ok (.bkpt 29435) := by
  decide
theorem test_decode_33 :
    decodeWord 0b00110011_000000_011011_001111_000000#32 = .ok (.swr 27 15)
    ∧ decodeWord 0b00110011_000001_000000_010110_001010#32 = .ok (.tlbinv 22 10)
    ∧ decodeWord 0b00110011_000010_010001_000101_000000#32 = .ok (.quiesce 17 5)
    ∧ decodeWord 0b00110011_000011_001100_000001_111001#32 = .ok (.ctxsave 12 1 57)
    ∧ decodeWord 0b00110011_000100_000111_111011_110100#32 = .ok (.ctxload 7 59 52)
    ∧ decodeWord 0b00110011_000101_000000_000010_110110#32 = .ok (.splv 2 54)
    ∧ decodeWord 0b00110011_000110_000000_111101_110001#32 = .ok (.filv 61 49)
    ∧ decodeWord 0b00110011_000111_111000_101100_100101#32 = .ok (.keysel 56 44 37)
    ∧ decodeWord 0b00110011_001000_000000_110011_000000#32 = .ok (.halt 51) := by
  decide
theorem test_decode_34 :
    decodeWord 0b00110100_000000_011101_010001_001010#32 = .ok (.ldxZb 29 17 10)
    ∧ decodeWord 0b00110100_000001_011000_001100_000101#32 = .ok (.ldxSb 24 12 5)
    ∧ decodeWord 0b00110100_000010_010011_000111_000001#32 = .ok (.ldxZh 19 7 1)
    ∧ decodeWord 0b00110100_000011_001110_000010_111011#32 = .ok (.ldxSh 14 2 59)
    ∧ decodeWord 0b00110100_000100_001001_111101_110110#32 = .ok (.ldxW 9 61 54)
    ∧ decodeWord 0b00110100_000101_000100_111000_110001#32 = .ok (.ldxD 4 56 49)
    ∧ decodeWord 0b00110100_001000_111111_110011_101100#32 = .ok (.stxB 63 51 44)
    ∧ decodeWord 0b00110100_001001_111010_101110_100111#32 = .ok (.stxH 58 46 39)
    ∧ decodeWord 0b00110100_001010_110101_101001_100010#32 = .ok (.stxW 53 41 34)
    ∧ decodeWord 0b00110100_001011_110000_100100_011101#32 = .ok (.stxD 48 36 29)
    ∧ decodeWord 0b00110100_0100_11_011111_011000_000000#32 = .ok (.lda 3 31 24)
    ∧ decodeWord 0b00110100_0101_10_011010_010011_000000#32 = .ok (.stl 2 26 19)
    ∧ decodeWord 0b00110100_011000_000001_010101_000000#32 = .ok (.pref 1 21) := by
  decide
theorem test_decode_35 :
    decodeWord 0b00110101_0000_01_010000_001001_001100#32 = .ok (.aadd 1 16 9 12)
    ∧ decodeWord 0b00110101_0001_11_001011_000100_000111#32 = .ok (.amin 3 11 4 7)
    ∧ decodeWord 0b00110101_0010_10_000110_111111_000010#32 = .ok (.amax 2 6 63 2)
    ∧ decodeWord 0b00110101_0011_01_000001_111010_111101#32 = .ok (.aand 1 1 58 61)
    ∧ decodeWord 0b00110101_0100_01_111100_110101_111000#32 = .ok (.aor 1 60 53 56)
    ∧ decodeWord 0b00110101_0101_11_110111_110000_110011#32 = .ok (.axor 3 55 48 51)
    ∧ decodeWord 0b00110101_0110_10_110010_101011_101110#32 = .ok (.axch 2 50 43 46)
    ∧ decodeWord 0b00110101_0111_01_101101_100110_101001#32 = .ok (.ainc 1 45 38 41) := by
  decide
theorem test_decode_36 :
    decodeWord 0b00110110_0000_01_000000_101000_100001#32 = .ok (.redAdd 1 40 33)
    ∧ decodeWord 0b00110110_0001_11_000000_100011_011100#32 = .ok (.redMin 3 35 28)
    ∧ decodeWord 0b00110110_0010_10_000000_011110_010111#32 = .ok (.redMax 2 30 23)
    ∧ decodeWord 0b00110110_0011_01_000000_011001_010010#32 = .ok (.redAnd 1 25 18)
    ∧ decodeWord 0b00110110_0100_01_000000_010100_001101#32 = .ok (.redOr 1 20 13)
    ∧ decodeWord 0b00110110_0101_11_000000_001111_001000#32 = .ok (.redXor 3 15 8) := by
  decide
theorem test_decode_37 :
    decodeWord 0b00110111_0000_10_000000000000000000#32 = .ok (.fence 2)
    ∧ decodeWord 0b00110111_000100_000000_010001_000101#32 = .ok (.xfence 17 5) := by
  decide
theorem test_decode_38 :
    decodeWord 0b00111000_000000_000000_011111_010011#32 = .ok (.mstr 31 19)
    ∧ decodeWord 0b00111000_000001_000000_011010_000000#32 = .ok (.mstrP 26)
    ∧ decodeWord 0b00111000_000010_000000_010101_000000#32 = .ok (.mzero 21)
    ∧ decodeWord 0b00111000_000011_000000000000000000#32 = .ok (.mswap)
    ∧ decodeWord 0b00111000_000100_001011_111111_000000#32 = .ok (.mpark 11 63)
    ∧ decodeWord 0b00111000_000101_000000_000110_111010#32 = .ok (.munpark 6 58)
    ∧ decodeWord 0b00111000_000110_000000_000001_110101#32 = .ok (.mlds 1 53)
    ∧ decodeWord 0b00111000_000111_000000_111100_000000#32 = .ok (.obrel 60) := by
  decide
theorem test_decode_3A :
    decodeWord 0b00111010_000000_110111_101011_000000#32 = .ok (.credAdd 55 43)
    ∧ decodeWord 0b00111010_000001_110010_100110_000000#32 = .ok (.credMax 50 38)
    ∧ decodeWord 0b00111010_000010_101101_100001_000000#32 = .ok (.credMin 45 33)
    ∧ decodeWord 0b00111010_000011_101000_011100_000000#32 = .ok (.credSmerge 40 28) := by
  decide
theorem test_decode_3B :
    decodeWord 0b00111011_000000_000000_001111_000011#32 = .ok (.binit 15 3)
    ∧ decodeWord 0b00111011_000001_000000_001010_111110#32 = .ok (.barr 10 62)
    ∧ decodeWord 0b00111011_000010_000101_111001_110010#32 = .ok (.bexp 5 57 50)
    ∧ decodeWord 0b00111011_000011_000000_000001_110100#32 = .ok (.bwait 1 52)
    ∧ decodeWord 0b00111011_000100_111011_101111_101000#32 = .ok (.btest 59 47 40)
    ∧ decodeWord 0b00111011_000101_000000_110110_000000#32 = .ok (.sestop 54)
    ∧ decodeWord 0b00111011_000110_000000_110001_000000#32 = .ok (.seresume 49)
    ∧ decodeWord 0b00111011_000111_101100_100000_000000#32 = .ok (.seqry 44 32) := by
  decide
theorem test_decode_3C :
    decodeWord 0b00111100_000000_100111_011011_000000#32 = .ok (.qpush 39 27)
    ∧ decodeWord 0b00111100_000001_100010_010110_000000#32 = .ok (.qpop 34 22)
    ∧ decodeWord 0b00111100_000010_011101_010001_000000#32 = .ok (.qown 29 17)
    ∧ decodeWord 0b00111100_000011_000000_011000_000000#32 = .ok (.qownRel 24)
    ∧ decodeWord 0b00111100_000100_000000_010011_000000#32 = .ok (.bxcopy 19) := by
  decide
theorem test_decode_3D :
    decodeWord 0b00111101_000000_110000_100100_011101#32 = .ok (.tld 48 36 29)
    ∧ decodeWord 0b00111101_000001_101011_011111_011000#32 = .ok (.tst 43 31 24)
    ∧ decodeWord 0b00111101_000010_100110_011010_000000#32 = .ok (.axperm 38 26)
    ∧ decodeWord 0b00111101_000011_100001_010101_001110#32 = .ok (.axqry 33 21 14)
    ∧ decodeWord 0b00111101_000100_000000000000000000#32 = .ok (.axfence)
    ∧ decodeWord 0b00111101_001000_000000_010111_000000#32 = .ok (.axinvCore 23)
    ∧ decodeWord 0b00111101_001001_000000_010010_000000#32 = .ok (.axinvCns 18)
    ∧ decodeWord 0b00111101_001010_000000_001101_000000#32 = .ok (.axinvDev 13) := by
  decide
theorem test_decode_3E :
    decodeWord 0b00111110_000000_000000_001000_111100#32 = .ok (.axset 8 60)
    ∧ decodeWord 0b00111110_000001_000000_000011_110111#32 = .ok (.axins 3 55)
    ∧ decodeWord 0b00111110_000010_000000_111110_110010#32 = .ok (.axdel 62 50) := by
  decide
theorem test_decode_3F :
    decodeWord 0b00111111_000000_101111_100011_011100#32 = .ok (.lqcancel 47 35 28)
    ∧ decodeWord 0b00111111_000001_000000_101010_011110#32 = .ok (.exitc 42 30) := by
  decide
theorem test_decode_40 :
    decodeWord 0b01000000_101010_011110_010111_011010#32 = .ok (.mad 42 30 23 26) := by
  decide
theorem test_decode_41 :
    decodeWord 0b01000001_100101_011001_010010_010101#32 = .ok (.bfx 37 25 18 21) := by
  decide
theorem test_decode_42 :
    decodeWord 0b01000010_100000_010100_001101_010000#32 = .ok (.bfi 32 20 13 16) := by
  decide
theorem test_decode_43 :
    decodeWord 0b01000011_011011_001111_001000_001011#32 = .ok (.lea 27 15 8 11) := by
  decide
theorem test_decode_44 :
    decodeWord 0b01000100_010110_001010_000011_000110#32 = .ok (.sel 22 10 3 6) := by
  decide
theorem test_decode_4C :
    decodeWord 0b010011_01_000001_111001_111100_010011#32 = .ok (.cas 1 1 57 60 19) := by
  decide
theorem test_decode_50 :
    decodeWord 0b01010000_100011_010111_010000_000000#32 = .ok (.obres 35 23 16) := by
  decide
theorem test_decode_51 :
    decodeWord 0b01010001_011110_010010_001011_001110#32 = .ok (.mdrn 30 18 11 14) := by
  decide
theorem test_decode_60 :
    decodeWord 0b01100000_010001_000101_000111111110#32 = .ok (.addi 17 5 510) := by
  decide
theorem test_decode_61 :
    decodeWord 0b01100001_001100_000001_001100111001#32 = .ok (.andi 12 1 825) := by
  decide
theorem test_decode_62 :
    decodeWord 0b01100010_000111_111011_010001110100#32 = .ok (.ori 7 59 1140) := by
  decide
theorem test_decode_63 :
    decodeWord 0b01100011_000010_110110_010110101111#32 = .ok (.xori 2 54 1455) := by
  decide
theorem test_decode_64 :
    decodeWord 0b01100100_111101_110001_000000_101010#32 = .ok (.shli 61 49 42) := by
  decide
theorem test_decode_65 :
    decodeWord 0b01100101_111000_101100_000000_100101#32 = .ok (.shri 56 44 37) := by
  decide
theorem test_decode_66 :
    decodeWord 0b01100110_110011_100111_000000_100000#32 = .ok (.sari 51 39 32) := by
  decide
theorem test_decode_6C :
    decodeWord 0b01101100_000111_111011_001100110100#32 = .ok (.ld 7 59 820) := by
  decide
theorem test_decode_6D :
    decodeWord 0b01101101_000010_110110_010001101111#32 = .ok (.st 2 54 1135) := by
  decide
theorem test_decode_6E :
    decodeWord 0b01101110_111101_110001_010110101010#32 = .ok (.ld2 61 49 1450) := by
  decide
theorem test_decode_6F :
    decodeWord 0b01101111_111000_101100_011011100101#32 = .ok (.st2 56 44 1765) := by
  decide
theorem test_decode_70 :
    decodeWord 0b01110000_110011_100111_100000100000#32 = .ok (.ld4 51 39 2080) := by
  decide
theorem test_decode_71 :
    decodeWord 0b01110001_101110_100010_100101011011#32 = .ok (.st4 46 34 2395) := by
  decide
theorem test_decode_72 :
    decodeWord 0b01110010_101001_011101_101010010110#32 = .ok (.lds 41 29 2710) := by
  decide
theorem test_decode_73 :
    decodeWord 0b01110011_100100_011000_101111010001#32 = .ok (.sts 36 24 3025) := by
  decide
theorem test_decode_74 :
    decodeWord 0b01110100_011001_001101_111001000110#32 = .ok (.obld 25 13 3654) := by
  decide
theorem test_decode_75 :
    decodeWord 0b01110101_010100_000000_110110001000#32 = .ok (.mstat 20 3464) := by
  decide
theorem test_decode_78 :
    decodeWord 0b01111000_001110_000010_0000000_11011#32 = .ok (.sego 14 2 27) := by
  decide
theorem test_decode_79 :
    decodeWord 0b01111001_000000_001001_0000000_11101#32 = .ok (.catset 9 29) := by
  decide
theorem test_decode_7A :
    decodeWord 0b01111010_000000_000100_0000000_11000#32 = .ok (.wrel 4 24) := by
  decide
theorem test_decode_7B :
    decodeWord 0b01111011_000000_111111_0000000000_11#32 = .ok (.dectbl 63 3) := by
  decide
theorem test_decode_7C :
    decodeWord 0b01111100_111001_101101_010110100110#32 = .ok (.tdld 57 45 1446) := by
  decide
theorem test_decode_7D :
    decodeWord 0b01111101_110100_101000_011011100001#32 = .ok (.tdst 52 40 1761) := by
  decide
theorem test_decode_7E :
    decodeWord 0b01111110_100101_011001_000000_010010#32 = .ok (.lqpush 37 25 18) := by
  decide
theorem test_decode_7F :
    decodeWord 0b01111111_100000_0000000000_01_001101#32 = .ok (.lqstat 32 1 13) := by
  decide
theorem test_decode_80 :
    decodeWord 0b10000000_101110_000101100010100010#32 = .ok (.ldi 46 22690) := by
  decide
theorem test_decode_81 :
    decodeWord 0b10000001_101001_000101100111011101#32 = .ok (.ldih 41 23005) := by
  decide
theorem test_decode_88 :
    decodeWord 0b10001000_000000_00010_10110_01111_010#32 = .ok (.wait 2 22 15 2) := by
  decide
theorem test_decode_89 :
    decodeWord 0b10001001_000000000111010000110110#32 = .ok (.setm 29750) := by
  decide
theorem test_decode_8A :
    decodeWord 0b10001010_0000000000000000_01110001#32 = .ok (.setmH 113) := by
  decide
theorem test_decode_8B :
    decodeWord 0b10001011_101100_00000000000_0100000#32 = .ok (.fanset 44 32) := by
  decide
theorem test_decode_8C :
    decodeWord 0b10001100_0000000000000000000_11010#32 = .ok (.catclr 26) := by
  decide
theorem test_decode_8D :
    decodeWord 0b10001101_110101_000000000000_1_00010#32 = .ok (.catqry 53 1 2) := by
  decide
theorem test_decode_A0 :
    decodeWord 0b10100000_111111_000101100100100100#32 = .ok (.br 22820) := by
  decide
theorem test_decode_A1 :
    decodeWord 0b10100001_011111_000101110001010011#32 = .ok (.brp 31 23635) := by
  decide
theorem test_decode_A2 :
    decodeWord 0b10100010_011010_000101110110001110#32 = .ok (.bra 26 23950) := by
  decide
theorem test_decode_A3 :
    decodeWord 0b10100011_010101_000101111011001001#32 = .ok (.brn 21 24265) := by
  decide
theorem test_decode_A4 :
    decodeWord 0b10100100_111111_000101111000010000#32 = .ok (.call 24080) := by
  decide
theorem test_decode_C0 :
    decodeWord 0b11000000_100111_011_100_111_110_000000#32 = .ok (.rep 39 3 4 7 6) := by
  decide

/-! ### Words that the manual writes out (chapters 03 to 18) -/

theorem test_manual_compute :
    decodeWord 0x01004146#32 = .ok (.add 4 5 6) ∧ decodeWord 0x402020C8#32 = .ok (.mad 8 2 3 8)
    ∧ decodeWord 0x60186FF0#32 = .ok (.addi 6 6 (-16)) ∧ decodeWord 0x05082105#32 = .ok (.cmpLt 2 4 5)
    ∧ decodeWord 0x44083106#32 = .ok (.sel 2 3 4 6) ∧ decodeWord 0x040880C8#32 = .ok (.cvt 2 8 3 8)
    ∧ decodeWord 0x80140CCD#32 = .ok (.ldi 5 0xCCD) ∧ decodeWord 0x8114F733#32 = .ok (.ldih 5 0xF733) := by decide

theorem test_manual_control :
    decodeWord 0xC0112400#32 = .ok (.rep 4 2 2 2 0) ∧ decodeWord 0x88001FFF#32 = .ok (.wait 0 31 31 7)
    ∧ decodeWord 0xA1040004#32 = .ok (.brp 1 4) ∧ decodeWord 0x31040000#32 = .ok (.jsetAct 0) ∧ decodeWord 0x31002140#32 = .ok (.jset 2 5)
    ∧ decodeWord 0x31080000#32 = .ok .jarr ∧ decodeWord 0x310C0000#32 = .ok .jwait ∧ decodeWord 0x31100180#32 = .ok (.regang 6)
    ∧ decodeWord 0xA4FC000A#32 = .ok (.call 10) ∧ decodeWord 0x30000500#32 = .ok (.callr 20) ∧ decodeWord 0x30080500#32 = .ok (.jmpr 20)
    ∧ decodeWord 0x30040000#32 = .ok .ret ∧ decodeWord 0x89000441#32 = .ok (.setm 0x441) ∧ decodeWord 0x8A00000A#32 = .ok (.setmH 10)
    ∧ decodeWord 0x32000100#32 = .ok (.setmv 4) ∧ decodeWord 0x32044000#32 = .ok (.getm 4) ∧ decodeWord 0x8B040003#32 = .ok (.fanset 1 3)
    ∧ decodeWord 0x32140123#32 = .ok (.trap 0x123) ∧ decodeWord 0x321C0007#32 = .ok (.bkpt 7) ∧ decodeWord 0x32180000#32 = .ok .tret := by
  decide

theorem test_manual_memory :
    decodeWord 0x6C114010#32 = .ok (.ld 4 20 16) ∧ decodeWord 0x6E214000#32 = .ok (.ld2 8 20 0) ∧ decodeWord 0x6D194010#32 = .ok (.st 6 20 16)
    ∧ decodeWord 0x34006507#32 = .ok (.ldxZb 6 20 7) ∧ decodeWord 0x34206507#32 = .ok (.stxB 6 20 7) ∧ decodeWord 0x72103040#32 = .ok (.lds 4 3 0x40)
    ∧ decodeWord 0x34484500#32 = .ok (.lda 2 4 20) ∧ decodeWord 0x34586500#32 = .ok (.stl 2 6 20) ∧ decodeWord 0x3508A30D#32 = .ok (.aadd 2 10 12 13)
    ∧ decodeWord 0x3570A0CD#32 = .ok (.ainc 0 10 3 13) ∧ decodeWord 0x4E28C38F#32 = .ok (.cas 2 10 12 14 15)
    ∧ decodeWord 0x3608030D#32 = .ok (.redAdd 2 12 13) ∧ decodeWord 0x34600500#32 = .ok (.pref 0 20) ∧ decodeWord 0x37080000#32 = .ok (.fence 2)
    ∧ decodeWord 0x37100040#32 = .ok (.xfence 1 0) := by decide

theorem test_manual_matrix :
    decodeWord 0x50094580#32 = .ok (.obres 2 20 22) ∧ decodeWord 0x381C0080#32 = .ok (.obrel 2) ∧ decodeWord 0x74094000#32 = .ok (.obld 2 20 0)
    ∧ decodeWord 0x38180047#32 = .ok (.mlds 1 7) ∧ decodeWord 0x380C0000#32 = .ok .mswap ∧ decodeWord 0x38080180#32 = .ok (.mzero 6)
    ∧ decodeWord 0x38000085#32 = .ok (.mstr 2 5) ∧ decodeWord 0x380400C0#32 = .ok (.mstrP 3) ∧ decodeWord 0x5128B30D#32 = .ok (.mdrn 10 11 12 13)
    ∧ decodeWord 0x38108240#32 = .ok (.mpark 8 9) ∧ decodeWord 0x38140248#32 = .ok (.munpark 9 8) ∧ decodeWord 0x75100001#32 = .ok (.mstat 4 1)
    ∧ decodeWord 0x3A0C61C0#32 = .ok (.credSmerge 6 7) := by decide

theorem test_manual_pool :
    decodeWord 0x3B0000C4#32 = .ok (.binit 3 4) ∧ decodeWord 0x3B0400C5#32 = .ok (.barr 3 5) ∧ decodeWord 0x3B0860C5#32 = .ok (.bexp 6 3 5)
    ∧ decodeWord 0x3B0C00C5#32 = .ok (.bwait 3 5) ∧ decodeWord 0x3B1020C5#32 = .ok (.btest 2 3 5) ∧ decodeWord 0x7900A003#32 = .ok (.catset 10 3)
    ∧ decodeWord 0x8C000003#32 = .ok (.catclr 3) ∧ decodeWord 0x8D200003#32 = .ok (.catqry 8 0 3) ∧ decodeWord 0x7A005003#32 = .ok (.wrel 5 3)
    ∧ decodeWord 0x781CA003#32 = .ok (.sego 7 10 3) ∧ decodeWord 0x3B1401C0#32 = .ok (.sestop 7) ∧ decodeWord 0x3B1801C0#32 = .ok (.seresume 7)
    ∧ decodeWord 0x3B1C81C0#32 = .ok (.seqry 8 7) ∧ decodeWord 0x3C100240#32 = .ok (.bxcopy 9) ∧ decodeWord 0x7B00A001#32 = .ok (.dectbl 10 1)
    ∧ decodeWord 0x3C00C100#32 = .ok (.qpush 12 4) ∧ decodeWord 0x3C045200#32 = .ok (.qpop 5 8) ∧ decodeWord 0x3C081040#32 = .ok (.qown 1 1)
    ∧ decodeWord 0x3C0C0040#32 = .ok (.qownRel 1) := by decide

theorem test_manual_axis :
    decodeWord 0x7C054000#32 = .ok (.tdld 1 20 0) ∧ decodeWord 0x7D054000#32 = .ok (.tdst 1 20 0) ∧ decodeWord 0x3D0810C0#32 = .ok (.axperm 1 3)
    ∧ decodeWord 0x3E000108#32 = .ok (.axset 4 8) ∧ decodeWord 0x3E040108#32 = .ok (.axins 4 8) ∧ decodeWord 0x3E08010C#32 = .ok (.axdel 4 12)
    ∧ decodeWord 0x3D240100#32 = .ok (.axinvCns 4) ∧ decodeWord 0x3D280100#32 = .ok (.axinvDev 4) ∧ decodeWord 0x3D100000#32 = .ok .axfence
    ∧ decodeWord 0x3D0D404A#32 = .ok (.axqry 20 1 10) ∧ decodeWord 0x3D00604A#32 = .ok (.tld 6 1 10) ∧ decodeWord 0x3D04604A#32 = .ok (.tst 6 1 10) := by
  decide

theorem test_manual_launch_and_system :
    decodeWord 0x7E18A003#32 = .ok (.lqpush 6 10 3) ∧ decodeWord 0x7F200043#32 = .ok (.lqstat 8 1 3) ∧ decodeWord 0x3F008105#32 = .ok (.lqcancel 8 4 5)
    ∧ decodeWord 0x3F040506#32 = .ok (.exitc 20 6) ∧ decodeWord 0x331C4083#32 = .ok (.keysel 4 2 3) ∧ decodeWord 0x33084080#32 = .ok (.quiesce 4 2)
    ∧ decodeWord 0x330C4094#32 = .ok (.ctxsave 4 2 20) ∧ decodeWord 0x33104096#32 = .ok (.ctxload 4 2 22) := by decide

/-! ### Stream words (11 R257): op, ra, rb, rc, zero, immediate -/

theorem test_stream_words :
    decodeStream 0b00000001_0001_0000_0000_0000_0000000000000000000000000000000000101010#64 = .ok (.seSet 1 0 0 42)
    ∧ decodeStream 0x0200F00000000020#64 = .ok (.seAdd 0 0 15 32)
    ∧ decodeStream 0b00000011_0010_0001_0100_0000_0000000000000000000000000000000000000000#64 = .ok (.seMul 2 1 4 0)
    ∧ decodeStream 0x040F000000000004#64 = .ok (.seLoop 0 15 0 4) ∧ decodeStream 0x0500000000000000#64 = .ok (.seNext 0 0 0 0)
    ∧ decodeStream 0b00000110_0000_0011_0000_0000_1111111111111111111111111111111111111000#64 = .ok (.seJmp 0 3 0 (-8))
    ∧ decodeStream 0x0700000000000000#64 = .ok (.seStop 0 0 0 0) ∧ decodeStream 0x0801100000000080#64 = .ok (.seCoord 0 1 1 128)
    ∧ decodeStream 0x0900000000000000#64 = .ok (.seFetch 0 0 0 0)
    ∧ decodeStream 0b00001010_0000_0000_0000_0000_0000000000000000000000000000000000000000#64 = .ok (.seWaitf 0 0 0 0)
    ∧ decodeStream 0x0B0F000000004000#64 = .ok (.seExpect 0 15 0 16384)
    ∧ decodeStream 0b00001100_0010_0001_0100_0000_0000000000000000000000000000000001000000#64 = .ok (.seGather 2 1 4 64)
    ∧ decodeStream 0b00001101_0011_0000_0000_0000_0000000000000000000000000000000000000000#64 = .ok (.seKvfetch 3 0 0 0)
    ∧ decodeStream 0b00001110_0000_1111_0010_0000_0000000000000000000000000000000000000001#64 = .ok (.seSignal 0 15 2 1)
    ∧ decodeStream 0b00001111_0000_0000_0000_0000_0000000000000000000000000000000000000000#64 = .ok (.seFence 0 0 0 0)
    ∧ decodeStream 0b00010000_0000_0000_0000_0000_0000000000000000000000000000000000101010#64 = .ok (.seMark 0 0 0 42) := by decide

/-! ### Ill-formed terms -/

/-- A term of each operand kind that no register or number names. -/
theorem test_wellFormed_operands :
    Sys2Proof.wellFormed (.add 3 1 2) = true
    ∧ Sys2Proof.wellFormed (.callr 21) = false ∧ Sys2Proof.wellFormed (.cmpLt 32 1 2) = false ∧ Sys2Proof.wellFormed (.movw 1 32) = false
    ∧ Sys2Proof.wellFormed (.jsetAct 8) = false ∧ Sys2Proof.wellFormed (.fanset 0 1) = false ∧ Sys2Proof.wellFormed (.axperm 8 1) = false
    ∧ Sys2Proof.wellFormed (.obrel 16) = false ∧ Sys2Proof.wellFormed (.srd 1 63) = false ∧ Sys2Proof.wellFormed (.swr 0 1) = false
    ∧ Sys2Proof.wellFormed (.brp 32 0) = false ∧ Sys2Proof.wellFormed (.bra 40 0) = false ∧ Sys2Proof.wellFormed (.qpush 8 1) = false
    ∧ Sys2Proof.wellFormed (.qpop 1 4) = false ∧ Sys2Proof.wellFormed (.qown 1 4) = false ∧ Sys2Proof.wellFormed (.xfence 6 1) = false
    ∧ Sys2Proof.wellFormed (.ld4 61 20 0) = false ∧ Sys2Proof.wellFormed (.aadd 2 1 3 5) = false := by decide

/-- A term of each stream operation outside its ranges (11 R258 to R265). -/
theorem test_wellFormed_streams :
    Sys2Proof.wellFormed (.seSet 8 0 0 0) = false ∧ Sys2Proof.wellFormed (.seAdd 0 15 0 0) = false ∧ Sys2Proof.wellFormed (.seMul 0 0 1 5) = false
    ∧ Sys2Proof.wellFormed (.seLoop 4 15 0 1) = false ∧ Sys2Proof.wellFormed (.seNext 0 1 0 0) = false ∧ Sys2Proof.wellFormed (.seJmp 1 15 0 0) = false
    ∧ Sys2Proof.wellFormed (.seStop 0 0 0 1) = false ∧ Sys2Proof.wellFormed (.seWaitf 0 0 1 0) = false ∧ Sys2Proof.wellFormed (.seFence 1 0 0 0) = false
    ∧ Sys2Proof.wellFormed (.seCoord 0 1 1 0) = false ∧ Sys2Proof.wellFormed (.seFetch 0 0 0 2) = false ∧ Sys2Proof.wellFormed (.seExpect 0 3 0 1) = false
    ∧ Sys2Proof.wellFormed (.seGather 0 1 1 65537) = false ∧ Sys2Proof.wellFormed (.seKvfetch 0 0 0 1) = false
    ∧ Sys2Proof.wellFormed (.seSignal 0 15 8 1) = false ∧ Sys2Proof.wellFormed (.seMark 0 0 0 0x100000000) = false := by decide

/-- A step that names a unit the device does not have. -/
theorem test_wellFormed_units :
    (∀ i ∈ [Instr.matrixPass 256, .slabLoad 256, .bandDrain 256, .bandPark 256, .decoderTableLoad 256, .activeSetEntry 256,
      .displacement 256, .starvationPriority 256, .cruRoundComplete 64, .joinComplete 1 8, .rejoinTimeout 1 8, .regangComplete 1 8,
      .regangTimeout 1 8, .windowPresent 1 32 0, .dependencePoll 8 0, .launchDispatch 0 64, .queueReserving 8 0, .doorbell 0 64 0],
      Sys2Proof.wellFormed i = false)
    ∧ (∀ i ∈ [Instr.groupPlace 0 0 256, .budgetPeriod 8, .faultRingRetry 8, .usageRecordClose 8, .qbind 8, .ctxnew 8, .ctxstop 8, .ctxend 8,
      .fresume 8, .fend 8, .thaw 8, .bind 8, .accession 8, .pgset 8, .sstab 8, .vfFlr 8, .linkDown 8, .linkReturn 8, .ideKeyProgramming 8],
      Sys2Proof.wellFormed i = false)
    ∧ ∀ i ∈ [Instr.quiescent 64, .pageExport 64 0 0, .pageImport 8 0 0 0, .pageWalk 0 1028 0, .pageWalk 0 0 (2 ^ 56), .registerWrite 12 0 0,
      .hostMemoryAccess 6 0 4 0 0, .portTraining 12 0 0 0, .huturPortDown 12, .flitReceive 4096 0 0, .flitResend 4096, .ringRecordWrite 9,
      .patrolScrub 0 3, .wayRepair 0 0 18, .wayRepair 0 32 33, .wayRepair 0 96 0, .sliceFailing 4 0, .containment 0 256, .peerWindowAccess 11 0 0 1 0 0 0],
      Sys2Proof.wellFormed i = false := by
  refine ⟨?_, ?_, ?_⟩ <;> decide +kernel

/-! ### Small states -/

/-- The bench of log entry 24 with an instruction about to execute: gang 2 of group 1 on core 0, one slice, lanes 0 to 3. -/
def seat (i : Instr) : State :=
  let w := (encode i).getD 0
  { State.reset.bench false (toBytes 8 w.toNat) with cur := { gang := 2, slices := [0], word := w } }

/-- The state with its gang changed, and with words in registers of it. -/
def tune (s : State) (f : Gang → Gang) : State := s.setGang 2 (f (s.gang 2))
def regs (xs : List (Nat × Nat × Nat)) (g : Gang) : Gang := xs.foldl (fun g (l, n, x) => g.writeV l n (w32 x)) g
def seatV (i : Instr) (mode : Nat) (xs : List (Nat × Nat × Nat)) : State :=
  tune (seat i) fun g => regs xs { g with slices := [{ mode := w32 mode }] }

/-- A user-level gang with a user handler at 0x400. -/
def user (g : Gang) : Gang := { g with level := 0, sys := { g.sys with utvec := 0x400 } }

/-- The instruction leaves a state of which `p` holds. -/
def leads (i : Instr) (s : State) (p : State → Bool) : Bool := match exec i s with | .next t => p t | _ => false

/-- The instruction issues, without capture, and `p` holds of its issue. -/
def goes (i : Instr) (s : State) (p : Issue → Bool) : Bool := match s.front i with | .go e => !e.cap && p e | _ => false

theorem issues_of_goes {i : Instr} {s : State} {p : Issue → Bool} (h : goes i s p = true) : ∃ e, Issues s i e ∧ p e = true := by
  unfold goes at h
  split at h
  · next e he => simp only [Bool.and_eq_true, Bool.not_eq_true'] at h; exact ⟨e, ⟨he, h.1⟩, h.2⟩
  · simp at h

/-! ### Witnesses: states and operands that meet the hypotheses of the statements -/

theorem witness_MemoryStaysCanonical : Memory.wf State.reset.mem ∧ Completes (step State.reset) :=
  ⟨by decide, _, rfl⟩

/-- A privileged instruction at user level, with a supervisor's vector. -/
theorem witness_DecodeTrapsInOrder_priv :
    let s := (tune (seat (.halt 1)) user).setPart 0 { (seat (.halt 1)).part 0 with stvec := 0x800 }
    privileged 0 (.halt 1) = true ∧ (∃ e, s.issueOf (.halt 1) = some e ∧ e.g.level = 0 ∧ (s.part (s.partOf e.g)).stvec ≠ 0
      ∧ StvecSettled s (s.partOf e.g)) := by
  refine ⟨rfl, _, rfl, ?_⟩
  decide +kernel

theorem witness_ComputeCompletes :
    ∃ k e, kernelOf (.add 3 1 2) = some k ∧ Issues (seat (.add 3 1 2)) (.add 3 1 2) e ∧ NoFpTrap (.add 3 1 2) e := by
  refine ⟨_, _, rfl, ⟨rfl, rfl⟩, ?_⟩
  intro k hk
  cases hk
  decide +kernel

/-- Each check of 03 R75 is the first to fail on some operands: an odd register of a pair (i64), a link end that the gang does not
own, a reserved type, a reserved rounding mode; and MODE 0 passes them all. -/
theorem witness_DecodeTrapsInOrder_checks :
    (∃ e, (seatV (.add 3 2 4) 0x100 []).issueOf (.add 3 2 4) = some e ∧ privFault e.g 0 (.add 3 2 4) = false
      ∧ (seatV (.add 3 2 4) 0x100 []).operandFault e (.add 3 2 4) = some (0, 3))
    ∧ (∃ e, (seat (.qpush 1 2)).issueOf (.qpush 1 2) = some e ∧ (seat (.qpush 1 2)).operandFault e (.qpush 1 2) = none
      ∧ (seat (.qpush 1 2)).queueFault e (.qpush 1 2) = some 1)
    ∧ (∃ e, (seatV (.add 3 1 2) 0x980 []).issueOf (.add 3 1 2) = some e ∧ typeReason (.add 3 1 2) e.mode 0 = some 0)
    ∧ (∃ e, (seatV (.add 3 1 2) 0xC0400 []).issueOf (.add 3 1 2) = some e ∧ typeReason (.add 3 1 2) e.mode 0 = none
      ∧ mRnd e.mode = 6 ∧ roundsIn (desc (.add 3 1 2)).rnd e.mode = true)
    ∧ ∃ e, (seat (.add 3 1 2)).issueOf (.add 3 1 2) = some e ∧ e.g.regs.pend = [] ∧ e.g.counts.full 0 = false ∧ fanOther e (.add 3 1 2) = false := by
  refine ⟨⟨_, rfl, ?_⟩, ⟨_, rfl, ?_⟩, ⟨_, rfl, ?_⟩, ⟨_, rfl, ?_⟩, ⟨_, rfl, ?_⟩⟩ <;> decide +kernel

/-- An exact result at the top bound, past it (reduced and clamped), and a division by zero (i32, with MODE.sat once). -/
theorem witness_IntegerResults :
    ∃ e, Issues (seatV (.add 3 1 2) 0x100000 [(0, 1, 0x7FFFFFFE), (0, 2, 1), (1, 1, 0x7FFFFFFF), (1, 2, 1)]) (.add 3 1 2) e
      ∧ (isInt (mType e.mode) && mSat e.mode && bit (e.fanOf (.add 3 1 2)) 0
        && exactInt 0 (fun r => e.g.int 0 0 r.toNat 0) (.add 3 1 2) == some (intMax 0)
        && exactInt 0 (fun r => e.g.int 0 1 r.toNat 0) (.add 3 1 2) == some (intMax 0 + 1)) = true :=
  issues_of_goes (by decide +kernel)

theorem witness_IntegerResults_div :
    ∃ e, Issues (seatV (.div 3 1 2) 0 [(0, 1, 5)]) (.div 3 1 2) e
      ∧ (exactInt 0 (fun _ => 1) (.div 3 1 2) == some 1 && exactInt 0 (fun r => e.g.int 0 0 r.toNat 0) (.div 3 1 2) == none) = true :=
  issues_of_goes (by decide +kernel)

/-- A shift by one less than the width and by the width; a packed type; comparisons on equal integers and on a NaN. -/
theorem witness_BitwiseAndComparisonResults :
    (∃ e, Issues (seatV (.shl 3 1 2) 0 [(0, 1, 3), (0, 2, 31), (1, 1, 3), (1, 2, 32)]) (.shl 3 1 2) e
      ∧ (bitsElem 0 (fun r => e.g.elem 0 0 r.toNat 0) (fun r => (e.g.readV 0 r.toNat).toNat) (.shl 3 1 2) == some 0x80000000
        && bitsElem 0 (fun r => e.g.elem 0 1 r.toNat 0) (fun r => (e.g.readV 1 r.toNat).toNat) (.shl 3 1 2) == some 0
        && bit (e.fanOf (.shl 3 1 2)) 0 && has e.act 0 && has e.act 1) = true)
    ∧ (∃ e, Issues (seatV (.shl 3 1 2) 0x200 [(0, 1, 0x10001), (0, 2, 0x2000F)]) (.shl 3 1 2) e
      ∧ (bitsElem 4 (fun r => e.g.elem 4 0 r.toNat 1) (fun r => e.g.elem 4 0 r.toNat 1) (.shl 3 1 2) == some 4) = true)
    ∧ (∃ e, Issues (seatV (.cmpLe 3 1 2) 0x80 [(0, 1, 7), (0, 2, 7)]) (.cmpLe 3 1 2) e
      ∧ (comparison 1 e.mode (fun r => e.g.value 1 0 r.toNat) (.cmpLe 3 1 2) == some true) = true)
    ∧ ∃ e, Issues (seatV (.cmpUn 3 1 2) 0x400 [(0, 1, 0x7FC00000)]) (.cmpUn 3 1 2) e
      ∧ (comparison 8 e.mode (fun r => e.g.value 8 0 r.toNat) (.cmpUn 3 1 2) == some true) = true := by
  refine ⟨issues_of_goes ?_, issues_of_goes ?_, issues_of_goes ?_, issues_of_goes ?_⟩ <;> decide +kernel

/-- Immediates at the top of their field and a count of 31; the class of a negative zero; a field that runs past the width, and the
same put into a register. -/
theorem witness_BitwiseAndComparisonResults_fields :
    (∀ x ∈ [(Instr.ori 3 1 4095, 0x7FFFFFFF), (.andi 3 1 4095, 0xFFF), (.xori 3 1 4095, 0x7FFFF000), (.shri 3 1 31, 0), (.sari 3 1 31, 0),
        (.shli 3 1 31, 0x80000000)],
      goes x.1 (seatV x.1 0 [(0, 1, 0x7FFFFFFF)]) (fun e => bit (e.fanOf x.1) 0 && has e.act 0
        && bitsElem 0 (fun r => e.g.elem 0 0 r.toNat 0) (fun r => (e.g.readV 0 r.toNat).toNat) x.1 == some x.2) = true)
    ∧ goes (.cmpClass 3 1 2) (seatV (.cmpClass 3 1 2) 0x400 [(0, 1, 0x80000000), (0, 2, 32)])
        (fun e => has e.act 0 && (32 : Nat).testBit (classNumber (tyFmt 8) (mFtz e.mode) (e.g.value 8 0 1))) = true
    ∧ ∀ i ∈ [Instr.bfx 3 1 2 4, .bfi 3 1 2 4], goes i (seatV i 0 [(0, 1, 0xFF), (0, 2, 28), (0, 4, 8)])
        (fun e => bit (e.fanOf i) 0 && has e.act 0 && (e.g.readV 0 2).toNat == 28) = true := by
  refine ⟨?_, ?_, ?_⟩ <;> decide +kernel

/-- The lesser of a number and a signalling NaN, a negated zero; conversions to and from a packed type and to a ternary one. -/
theorem witness_FloatingResults_others :
    goes (.min 3 1 2) (seatV (.min 3 1 2) 0x400 [(0, 1, 0x3F800000), (0, 2, 0x7F800001)])
      (fun e => isFlt (mType e.mode) && bit (e.fanOf (.min 3 1 2)) 0 && decide (e.g.sys.fpctl = 0) && has e.act 0
        && unrounded 8 e.mode (fun r => e.g.elem 8 0 r.toNat 0) (.min 3 1 2) == some (0x3F800000, true)) = true
    ∧ goes (.neg 3 1) (seatV (.neg 3 1) 0x400 [])
      (fun e => unrounded 8 e.mode (fun r => e.g.elem 8 0 r.toNat 0) (.neg 3 1) == some (0x80000000, false)) = true
    ∧ ∀ x ∈ [(Instr.cvt 0 3 1 0, 0x400), (.cvt 0 3 1 0, 0x8000), (.cvt 19 3 1 2, 0x8800), (.cvt 19 3 1 0, 0x10400), (.cvt 1 3 1 2, 0x8500)],
      goes x.1 (seatV x.1 x.2 [(0, 1, 0x3F800000)]) (fun e => has e.act 0 && bit (e.fanOf x.1) 0 && decide (e.g.sys.fpctl = 0)) = true := by
  refine ⟨?_, ?_, ?_⟩ <;> decide +kernel

/-- One third in binary32. -/
theorem witness_FloatingResults :
    ∃ e, Issues (seatV (.div 3 1 2) 0x400 [(0, 1, 0x3F800000), (0, 2, 0x40400000)]) (.div 3 1 2) e
      ∧ (isFlt (mType e.mode) && bit (e.fanOf (.div 3 1 2)) 0 && decide (e.g.sys.fpctl = 0) && has e.act 0
        && (exactFlt 8 e.mode (fun r => e.g.elem 8 0 r.toNat 0) (.div 3 1 2)).isSome) = true :=
  issues_of_goes (by decide +kernel)

theorem witness_MovesExchangesAndVotes :
    (∀ i ∈ [Instr.mov 3 1, .sel 3 1 2 0, .ldi 3 5, .ldih 3 5, .lea 4 6 2 3, .getm 3, .pand 3 1 2, .por 3 1 2, .pxor 3 1 2, .pnot 3 1, .pmov 3 1,
        .shfl 3 1 2, .shflup 3 1 2, .shfldn 3 1 2, .shflx 3 1 2, .ballot 3 1, .vany 3 1, .vall 3 1, .match 3 1],
      goes i (seat i) (fun e => has e.act 0 && has e.act 3 && bit (e.g.fanSet (mFan e.mode)) 0) = true) := by decide +kernel

theorem witness_RandomNumbersAndSystemRegisters :
    ∀ i ∈ [Instr.srd 4 0, .rngnext 4, .rngsplit 1 2], goes i (seat i) (fun e => (find ((seat i).group e.g.group).span 1).isNone) = true := by
  decide +kernel
theorem witness_RandomNumbersAndSystemRegisters_f :
    (∃ e, Issues (seatV (.rngf 4) 0x400 []) (.rngf 4) e ∧ (mType e.mode == 8) = true)
    ∧ ∃ e, Issues (seatV (.rngf 4) 0x480 []) (.rngf 4) e ∧ (mType e.mode == 9) = true := by
  refine ⟨issues_of_goes ?_, issues_of_goes ?_⟩ <;> decide +kernel

/-- A uniform register with two values in the span, which gang 9 wrote. -/
def spanned (i : Instr) : State :=
  let s := tune (seat i) user
  s.setGroup 1 { s.group 1 with owner := [(5, 9)], span := [(5, [3, 4])], wreg := [(5, 4)] }

theorem witness_UniformReadsAndConflicts :
    (∃ e, Issues (seat (.movw 3 5)) (.movw 3 5) e ∧ (find ((seat (.movw 3 5)).group e.g.group).span 5).isNone = true)
    ∧ (∃ e, Issues (spanned (.movw 3 5)) (.movw 3 5) e
      ∧ (find ((spanned (.movw 3 5)).group e.g.group).span 5 == some [3, 4] && find ((spanned (.movw 3 5)).group e.g.group).owner 5 != some e.gk
        && decide (get 0 e.g.lastRead 5 < 2)) = true)
    ∧ ∃ e, Issues (spanned (.wmov 5 1)) (.wmov 5 1) e
      ∧ (decide (e.act ≠ 0) && find ((spanned (.wmov 5 1)).group e.g.group).owner 5 == some 9 && e.gk != 9 && e.g.level == 0 && !e.g.userH
        && decide (e.g.sys.utvec ≠ 0)) = true := by
  refine ⟨issues_of_goes ?_, issues_of_goes ?_, issues_of_goes ?_⟩ <;> decide +kernel

/-- With active lanes, and with none (guard p0 false). -/
theorem witness_UniformWritesTakeTheLowestLane :
    (∃ e, Issues (seat (.wmov 5 1)) (.wmov 5 1) e
      ∧ (decide (e.act ≠ 0) && (find ((seat (.wmov 5 1)).group e.g.group).owner 5).isNone) = true)
    ∧ ∃ e, Issues (seatV (.wmov 5 1) 0x40 []) (.wmov 5 1) e ∧ decide (e.act = 0) = true := by
  refine ⟨issues_of_goes ?_, issues_of_goes ?_⟩ <;> decide +kernel

/-- Lane 0 divides by zero under an enabled flag, lane 1 does not. -/
theorem witness_FloatingTrapsLaneByLane :
    let s := tune (seatV (.div 3 1 2) 0x400 [(0, 1, 0x3F800000), (1, 1, 0x3F800000), (1, 2, 0x3F800000), (2, 2, 0x3F800000), (3, 2, 0x3F800000)])
      fun g => { user g with sys := { (user g).sys with fpctl := 0x1F } }
    ∃ k e, kernelOf (.div 3 1 2) = some k ∧ Issues s (.div 3 1 2) e ∧ e.g.level = 0 ∧ e.g.userH = false ∧ e.g.supH = false
      ∧ e.g.sys.utvec ≠ 0 ∧ raisingLanes (outcomes k (e.env 0)) e.g.sys.fpctl = 1#32 := by
  refine ⟨_, _, rfl, ⟨rfl, rfl⟩, ?_⟩
  decide +kernel

/-- Predicate 1 holds in lanes 0 and 1. -/
def some01 (g : Gang) : Gang := { g with regs := { g.regs with pred := [(1, 3)] } }

/-- Taken and untaken branches, forward and backward, on a predicate and on a rejoin register all of whose lanes have arrived. -/
theorem witness_BranchesMoveTheCohort :
    goes (.br 4) (seat (.br 4)) (fun e => decide (pcAddr e.pc < jTarget e.pc 4)) = true
    ∧ goes (.br 0x3FFFF) (seat (.br 0x3FFFF)) (fun e => !((seat (.br 0x3FFFF)).group e.g.group).ageing) = true
    ∧ (∀ i ∈ [Instr.bra 1 4, .brn 1 4], goes i (tune (seat i) some01) (fun e => e.act == 0xF#32 && e.g.readP 0 1 && !e.g.readP 2 1) = true)
    ∧ goes (.bra 31 4) (tune (seat (.bra 31 4)) fun g => { g with regs := { g.regs with pred := [(31, 15)] } })
        (fun e => (List.range 4).all fun l => has e.act l && e.g.readP l 31) = true
    ∧ ∀ i ∈ [Instr.bra 32 4, .brn 39 4], goes i (tune (seat i) fun g => { g with rejoin := [(0, { expect := 15, arrived := 15 })] })
        (fun e => decide ((e.g.rejoinReg 0).expect ≠ 0) && (e.g.rejoinReg 0).arrived == (e.g.rejoinReg 0).expect) = true := by
  refine ⟨?_, ?_, ?_, ?_, ?_⟩ <;> decide +kernel

/-- The same gang in an ageing group, with a path of lanes 2 and 3 pending at 8. -/
def aged (i : Instr) : State :=
  let s := tune (tune (seat i) some01) fun g => { g with slices := [{ pc := 64 }], path := 3, rejoin := [(0, { expect := 15, paths := [{ pc := 8, mask := 12 }] })] }
  { s.setGroup 1 { s.group 1 with ageing := true } with cur := { s.cur with pc := 64 } }

theorem witness_AgeingBranches :
    ∀ i ∈ [Instr.br 0x3FFFF, .bra 1 0x3FFFF, .brp 1 0x3FFFF], goes i (aged i)
      (fun e => ((aged i).group e.g.group).ageing && decide (jTarget e.pc 0x3FFFF ≤ pcAddr e.pc) && e.g.readP 0 1
        && (e.g.rejoinReg 0).paths.length == 1) = true := by
  decide +kernel

/-- A slice that divides, with a free register and with a full one; a slice that does not, on the guard alone (cond 63). -/
theorem witness_BrpDividesSlices :
    goes (.brp 1 4) (tune (seat (.brp 1 4)) some01)
      (fun e => e.ss == [0] && has e.path 0 && e.g.readP 0 1 && has e.path 2 && !e.g.readP 2 1 && (e.g.rejoinReg 0).paths.isEmpty) = true
    ∧ goes (.brp 1 4) (tune (tune (seat (.brp 1 4)) some01) fun g => { g with
        rejoin := [(0, { expect := 15, paths := (List.range 8).map fun i => { pc := 64 + i, mask := 1#32 <<< (4 * i) } })] })
      (fun e => decide (8 ≤ (e.g.rejoinReg 0).paths.length) && (e.g.rejoinReg 0).paths.all fun p => p.pc != 4) = true
    ∧ goes (.brp 63 4) (seat (.brp 63 4)) (fun e => e.path == 0xF#32 && decide (pcAddr e.pc < jTarget e.pc 4)) = true := by
  refine ⟨?_, ?_, ?_⟩ <;> decide +kernel

/-- A free register and one in use; a JARR inside and outside what is expected. -/
theorem witness_RejoinRegistersSetAndArrive :
    (∀ i ∈ [Instr.jset 2 5, .jsetAct 7], goes i (seat i) (fun e => (e.g.rejoinReg 2).paths.isEmpty && (e.g.rejoinReg 7).parked == 0#32
        && !e.g.anyWaits 2 && !e.g.anyWaits 7) = true)
    ∧ goes (.jset 2 5) (tune (seat (.jset 2 5)) fun g => { g with rejoin := [(2, { parked := 1 })] }) (fun e => decide ((e.g.rejoinReg 2).parked ≠ 0)) = true
    ∧ goes .jarr (tune (seat .jarr) fun g => { g with rejoin := [(0, { expect := 15 })] }) (fun e => e.path &&& ~~~(e.g.rejoinReg 0).expect == 0#32) = true
    ∧ goes .jarr (seat .jarr) (fun e => decide (e.path &&& ~~~(e.g.rejoinReg 0).expect ≠ 0)) = true := by
  refine ⟨?_, ?_, ?_, ?_⟩ <;> decide +kernel

/-- JWAIT where all is expected; REGANG that names its own slice alone, and one that waits for slice 1. -/
theorem witness_SlicesWaitToRejoin :
    goes .jwait (tune (seat .jwait) fun g => { g with rejoin := [(0, { expect := 15 })] })
      (fun e => e.path &&& ~~~(e.g.rejoinReg 0).expect == 0#32 && (List.range 8).all fun i => !e.g.waitsOn 0 i) = true
    ∧ goes (.regang 5) (seatV (.regang 5) 0 [(0, 5, 1)]) (fun e => e.ss == [0] && (e.g.readV 0 5).toNat == 1 && e.g.nslices == 1
        && (e.g.slice 1).wait.isNone) = true
    ∧ goes (.regang 5) (tune (seatV (.regang 5) 0 [(0, 5, 3)]) fun g => { g with nslices := 2, slices := g.slices ++ [{ cohort := 1 }], path := 0xFF })
      (fun e => e.ss == [0] && (e.g.readV 0 5).toNat == 3 && e.g.nslices == 2 && (e.g.slice 1).wait.isNone) = true := by
  refine ⟨?_, ?_, ?_⟩ <;> decide +kernel

/-- Room for one more window (a stack share of 1 gives a ring of 256 slots or more), aligned and misaligned targets. -/
theorem witness_CallsSlideTheWindow :
    goes (.call 4) (seat (.call 4)) (fun e => e.ss.all fun i =>
        decide ((e.g.slice i).base + 80 ≤ ((seat (.call 4)).group e.g.group).ring + (e.g.slice i).low)) = true
    ∧ (∀ i ∈ [Instr.callr 20, .jmpr 20], goes i (seatV i 0 [(0, 20, 0x100)]) (fun e => e.target 20 == 0x100 && e.ss.all fun j =>
        decide ((e.g.slice j).base + 80 ≤ ((seat i).group e.g.group).ring + (e.g.slice j).low)) = true)
    ∧ ∀ i ∈ [Instr.callr 20, .jmpr 20], goes i (seatV i 0 [(0, 20, 0x101)]) (fun e => decide (e.target 20 % 4 ≠ 0)) = true := by
  refine ⟨?_, ?_, ?_⟩ <;> decide +kernel

/-- A RET from the first window with a caller below it, a RET without one, and a CALL with no room. -/
theorem witness_ReturnsSlideBack :
    goes .ret (tune (seatV .ret 0 []) fun g => { g with slices := [{ base := 32 }] })
      (fun e => (e.g.slice 0).base == 32 && e.target 30 == 0 && e.ss.all fun i => decide ((e.g.slice i).low ≤ 0)) = true
    ∧ goes .ret (seat .ret) (fun e => (e.g.slice 0).base == 0) = true
    ∧ goes (.call 4) (tune (seat (.call 4)) fun g => { g with slices := [{ base := 4096 }] })
      (fun e => (e.ss.find? fun i => decide (((seat (.call 4)).group e.g.group).ring + (e.g.slice i).low < (e.g.slice i).base + 80)) == some 0) = true := by
  refine ⟨?_, ?_, ?_⟩ <;> decide +kernel

/-- A RET below the low mark, a RET to an address that is no word's, and a CALLR with no room. -/
theorem witness_ReturnsSlideBack_traps :
    goes .ret (tune (seatV .ret 0 []) fun g => { g with slices := [{ base := 32, low := 16 }] })
      (fun e => e.target 30 % 4 == 0 && (e.ss.find? fun i => decide (32 - 32 < (e.g.slice i).low)) == some 0) = true
    ∧ goes .ret (tune (seat .ret) fun g => regs [(0, 30, 2)] { g with slices := [{ base := 32 }] }) (fun e => decide (e.target 30 % 4 ≠ 0)) = true
    ∧ goes (.callr 20) (tune (seat (.callr 20)) fun g => { g with slices := [{ base := 4096 }] })
      (fun e => e.target 20 % 4 == 0
        && (e.ss.find? fun i => decide (((seat (.callr 20)).group e.g.group).ring + (e.g.slice i).low < (e.g.slice i).base + 80)) == some 0) = true := by
  refine ⟨?_, ?_, ?_⟩ <;> decide +kernel

/-- A residual entry, of an ADD that waits for v1. -/
def waiting : Entry := { instr := .add 3 1 2, word := 0x01003042, lanes := 15, waits := [(1, 1)], dest := [(3, 1)] }

theorem witness_ExitEndsLanes :
    goes .exit (seat .exit) (fun e => e.g.residualCount == 0 && (List.range 8).all fun k => (e.g.rejoinReg k).paths.isEmpty) = true
    ∧ goes .exit (tune (seat .exit) fun g => { g with work := { g.work with residuals := [waiting] } }) (fun e => e.g.residualCount == 1) = true
    ∧ goes .exit (tune (seat .exit) fun g => { g with work := { g.work with faulted := some (waiting, 15, true) } })
        (fun e => e.g.work.faulted.isSome) = true := by
  refine ⟨?_, ?_, ?_⟩ <;> decide +kernel

/-- DRAIN and WAIT with nothing outstanding, at the bound of a count, and past it. -/
theorem witness_IssueControlCompletes :
    (∀ i ∈ [Instr.nop, .drain, .wait 0 0 0 0, .fanset 1 3, .setm 65, .setmH 8, .setmv 5, .yield], goes i (seat i) (fun e => e.g.residualCount == 0
        && e.g.work.faulted.isNone && e.g.regs.pend.isEmpty && e.g.counts == {}) = true)
    ∧ goes (.wait 3 31 31 7) (tune (seat (.wait 3 31 31 7)) fun g => { g with counts := { loads := 3 } }) (fun e => e.g.counts.loads == 3) = true
    ∧ goes (.wait 2 31 31 7) (tune (seat (.wait 2 31 31 7)) fun g => { g with counts := { loads := 3 } }) (fun e => e.g.counts.loads == 3) = true
    ∧ goes .drain (tune (seat .drain) fun g => { g with work := { g.work with residuals := [waiting] } }) (fun e => e.g.residualCount == 1) = true := by
  refine ⟨?_, ?_, ?_, ?_⟩ <;> decide +kernel

/-- The last code of the user's and the first of the supervisor's; no handler of the user's; a partition without a vector. -/
theorem witness_SoftwareTrapsEnterAHandler :
    (∀ i ∈ [Instr.trap 0x3FEFF, .bkpt 0x3FFFF], goes i (tune (seat i) user) (fun e => e.g.level == 0 && !e.g.userH && decide (e.g.sys.utvec ≠ 0)) = true)
    ∧ (∀ i ∈ [Instr.trap 0x3FF00, .bkpt 0], let s := (seat i).setPart 0 { (seat i).part 0 with stvec := 0x800 }
        goes i s (fun e => e.g.level == 1 && decide ((s.part (s.partOf e.g)).stvec ≠ 0) && (s.part (s.partOf e.g)).stvecOld.isEmpty) = true)
    ∧ (((seat .nop).gang 2).toSup { code := 0x11 } = true ∧ ((seat .nop).part ((seat .nop).partOf ((seat .nop).gang 2))).stvec = 0
      ∧ StvecSettled (seat .nop) ((seat .nop).partOf ((seat .nop).gang 2))) := by
  refine ⟨?_, ?_, ?_⟩ <;> decide +kernel

/-- From the supervisor's handler, from the user's, after a deferred trap, and outside every handler. -/
theorem witness_TretResumesTheInterruptedPath :
    goes .tret (seat .tret) (fun e => e.g.level == 1 && !e.g.failed) = true
    ∧ goes .tret (tune (seat .tret) fun g => { user g with
          userH := true, hidUser := { path := 15, slices := [0], resume := 8, deferred := true }, frame := { tcause := 0x130 } }) (fun e => e.g.level == 0 && e.g.userH && e.g.frame.tcause.getLsbD 8) = true
    ∧ goes .tret (tune (seat .tret) user) (fun e => e.g.level == 0 && !e.g.userH) = true
    ∧ goes .tret (tune (seat .tret) fun g => { g with
          supH := true, nest := 1, hidSup := { path := 15, slices := [0], fromLevel := 1 }, rejoin := [(1, { parked := 12, expect := 15 })] })
        (fun e => e.g.level == 1 && e.g.nest == 1 && (e.g.rejoinReg 1).parked == 12) = true := by
  refine ⟨?_, ?_, ?_, ?_⟩ <;> decide +kernel

/-- A REP with the word after it, and with the index in its program counter. -/
def seatRep (i : Instr) (w : W32) (idx : Nat) : State :=
  let s := seat i
  let s : State := { s with mem := writeBytes s.mem 0x40004 (toBytes 4 w.toNat), cur := { s.cur with pc := pcMake 0 idx } }
  tune s fun g => { g with slices := [{ pc := pcMake 0 idx }] }

/-- Index 0 and 2 of 3, 63 of the 64 that a count of 0 means, the count itself, and a body that may not stand there (BR). -/
theorem witness_RepStartsItsSequence :
    (∀ x ∈ [(3, 0), (3, 2), (0, 63), (3, 3)], let i := Instr.rep (BitVec.ofNat 6 x.1) 1 1 1 0
      goes i (seatRep i 0x01004146#32 x.2) (fun e => ((seatRep i 0x01004146#32 x.2).fetch e.gk 4).toOption == some 0x01004146#32
        && pcIdx e.pc == x.2 && repLegal 1 1 1 0 (.add 4 5 6)) = true)
    ∧ goes (.rep 3 0 0 0 0) (seatRep (.rep 3 0 0 0 0) 0xA0FC0001#32 0) (fun e =>
        ((seatRep (.rep 3 0 0 0 0) 0xA0FC0001#32 0).fetch e.gk 4).toOption == some 0xA0FC0001#32 && !repLegal 0 0 0 0 (.br 1)) = true := by
  refine ⟨?_, ?_⟩ <;> decide +kernel

theorem of_lanes {m : Mask} {P : Nat → Prop} (h : ∀ l, l < 32 → has m l = true → P l) : ∀ l, has m l = true → P l :=
  fun l hl => h l (by
    by_contra hn
    have : m.getLsbD l = true := hl
    rw [BitVec.getLsbD_of_ge m l (by omega)] at this
    cases this) hl

/-- v20, v21 of lane `l` hold 0x200 + 4 l, v5 holds 0x40 + 8 l, v13 holds l + 1. -/
def addrs : List (Nat × Nat × Nat) := (List.range 4).flatMap fun l => [(l, 20, 0x200 + 4 * l), (l, 5, 0x40 + 8 * l), (l, 13, l + 1)]

/-- A load of global memory, at once and deferred, and one of the scratchpad. -/
theorem witness_LoadsDeliverMemory :
    (∀ mode ∈ [0, 0x8000000], let i := Instr.ld 4 20 16; let s := seatV i mode addrs
      ∃ e x, Issues s i e ∧ accessOf e.mode i = some x ∧ loadCached i = some true ∧ e.act ≠ 0 ∧ e.late = decide (mode ≠ 0)
        ∧ Placed s e x 0 true (fun l => 0x40210 + 4 * l) ∧ Unhindered s e x (fun l => 0x40210 + 4 * l) ∧ Sound s e x (fun l => 0x40210 + 4 * l)
        ∧ e.g.work.stores = [] ∧ e.g.unread e.g.work.nextId = false
        ∧ ∀ l, has e.act l = true → e.g.pastAt e.g.work.nextId l (0x40210 + 4 * l) x.size = none)
    ∧ let i := Instr.lds 4 5 0; let s := seatV i 0 addrs
      ∃ e x, Issues s i e ∧ accessOf e.mode i = some x ∧ loadCached i = some false ∧ e.act ≠ 0
        ∧ Placed s e x 0 true (fun l => spadBase 1 + 0x40 + 8 * l) ∧ Unhindered s e x (fun l => spadBase 1 + 0x40 + 8 * l)
        ∧ Sound s e x (fun l => spadBase 1 + 0x40 + 8 * l) ∧ e.g.work.stores = [] ∧ e.g.unread e.g.work.nextId = false
        ∧ ∀ l, has e.act l = true → e.g.pastAt e.g.work.nextId l (spadBase 1 + 0x40 + 8 * l) x.size = none := by
  refine ⟨?_, ?_⟩
  · intro mode hm
    simp only [List.mem_cons, List.not_mem_nil, or_false] at hm
    obtain rfl | rfl := hm <;>
    · refine ⟨_, _, ⟨rfl, rfl⟩, rfl, rfl, by decide +kernel, by decide +kernel, of_lanes ?_, ⟨by decide +kernel, .inr (of_lanes ?_), .inl (of_lanes ?_), fun h => absurd h (by decide +kernel)⟩, of_lanes ?_, by decide +kernel, by decide +kernel, of_lanes ?_⟩
        <;> decide +kernel
  · refine ⟨_, _, ⟨rfl, rfl⟩, rfl, rfl, by decide +kernel, of_lanes ?_, ⟨by decide +kernel, .inr (of_lanes ?_), .inl (of_lanes ?_), fun _ => of_lanes ?_⟩, of_lanes ?_, by decide +kernel, by decide +kernel, of_lanes ?_⟩
      <;> decide +kernel

/-- A delivery on its way for v4, and the same under an older tag. -/
theorem witness_DeliveriesLandUnderTheirTag :
    ∀ tag ∈ [1, 2], ∀ cross ∈ [none, some (3, 9)], let s := tune (seat .nop) fun g => { g with
          regs := { g.regs with pend := [(4, { on := true, tag := 2, mask := 15 })] }
          work := { g.work with flight := [{ id := 7, regs := [(4, tag)], lanes := 15, loads := true, cross := cross }] } }
      ∃ d, (s.gang 2).work.flight[0]? = some d ∧ d.entry = none ∧ d.regs = [(4, tag)] ∧ (s.gang 2).supH = false
        ∧ ((s.gang 2).pend 4).on = true ∧ (((s.gang 2).pend 4).tag = tag ↔ tag = 2) ∧ s.still 2 = false := by
  intro tag ht cross hc
  simp only [List.mem_cons, List.not_mem_nil, or_false] at ht hc
  obtain rfl | rfl := ht <;> obtain rfl | rfl := hc <;> exact ⟨_, rfl, by decide +kernel⟩

/-- A load, a store, a reduction and an atomic, one byte past a multiple of four. -/
theorem witness_MisalignedAccessesTrap :
    ∀ i ∈ [Instr.ld 4 20 1, .st 13 20 1, .redAdd 2 20 13, .aadd 2 4 20 13], let s := tune (seatV i 0 ((addrs.map fun x => (x.1, x.2.1, x.2.2 + 1)))) user
      ∃ e x, Issues s i e ∧ accessOf e.mode i = some x
        ∧ ((loadCached i).isSome = true ∨ (storeHost e.mode i).isSome = true ∨ (atomicStep e.mode (fun _ => 0) 0 i).isSome = true)
        ∧ e.act ≠ 0 ∧ (∀ l, has e.act l = true → x.addr (e.g.readV l) % x.align ≠ 0) ∧ e.g.work.stores = [] ∧ s.crossbarOk e.gk x = true
        ∧ e.g.unread e.g.work.nextId = false ∧ e.g.level = 0 ∧ e.g.userH = false ∧ e.g.sys.utvec ≠ 0 ∧ s.recordWaits e.gk = false := by
  intro i hi
  simp only [List.mem_cons, List.not_mem_nil, or_false] at hi
  obtain rfl | rfl | rfl | rfl := hi <;>
  · refine ⟨_, _, ⟨rfl, rfl⟩, rfl, by decide +kernel, by decide +kernel, of_lanes ?_, by decide +kernel⟩
    decide +kernel

/-- A store of one word, one of two bytes to the scratchpad, and a reduction. -/
theorem witness_StoresEnterTheQueue :
    (let i := Instr.st 13 20 16; ∃ e x, Issues (seatV i 0 addrs) i e ∧ accessOf e.mode i = some x ∧ storeHost e.mode i = some true ∧ e.act ≠ 0
        ∧ Placed (seatV i 0 addrs) e x 1 true (fun l => 0x40210 + 4 * l) ∧ (e.g.slice (e.ss.headD 0)).reexec = none)
    ∧ (let i := Instr.sts 13 5 0; ∃ e x, Issues (seatV i 0 addrs) i e ∧ accessOf e.mode i = some x ∧ storeHost e.mode i = some true ∧ e.act ≠ 0
        ∧ Placed (seatV i 0 addrs) e x 1 true (fun l => spadBase 1 + 0x40 + 8 * l) ∧ (e.g.slice (e.ss.headD 0)).reexec = none)
    ∧ (let i := Instr.redMax 2 20 13; ∃ e x, Issues (seatV i 0 addrs) i e ∧ accessOf e.mode i = some x ∧ storeHost e.mode i = some false ∧ e.act ≠ 0
        ∧ Placed (seatV i 0 addrs) e x 3 false (fun l => 0x40200 + 4 * l) ∧ (e.g.slice (e.ss.headD 0)).reexec = none) := by
  refine ⟨?_, ?_, ?_⟩ <;>
  · refine ⟨_, _, ⟨rfl, rfl⟩, rfl, rfl, by decide +kernel, of_lanes ?_, by decide +kernel⟩
    decide +kernel

/-- A store-queue entry of an instruction, with the operands of `addrs`. -/
def entryOf (i : Instr) (mode : Nat) : SqEntry :=
  { entry := { id := 3, instr := i, mode := w32 mode, lanes := 15
               vals := (List.range 4).flatMap fun l => [(128 * l + 5, w32 (0x40 + 8 * l)), (128 * l + 13, w32 (l + 1)), (128 * l + 20, w32 (0x200 + 4 * l))] } }
/-- The same, two lanes at each address. -/
def paired (e : Entry) : Entry :=
  { e with vals := (List.range 4).flatMap fun l => [(128 * l + 13, w32 (0x3F800000 + l)), (128 * l + 20, w32 (0x200 + 4 * (l / 2)))] }
def queuing (q : SqEntry) : State := tune (seat .nop) fun g => { g with work := { g.work with stores := [q] }, counts := { g.counts with stores := 1 } }

/-- A queued store of global memory, and one of the scratchpad. -/
theorem witness_QueuedStoresReachMemory :
    ∀ p ∈ [(Instr.st 13 20 0, 0x40200, 4), (Instr.sts 13 5 0, spadBase 1 + 0x40, 8)],
      let q := entryOf p.1 0; let s := queuing q; let flat := fun l => p.2.1 + p.2.2 * l
      ∃ x, accessOf q.entry.mode q.entry.instr = some x ∧ isRmw q.entry.instr = false ∧ q.entry.waits = [] ∧ q.fault = none
        ∧ (s.gang 2).olderLoad q.entry.id = false ∧ s.crossbarOk 2 x = true
        ∧ (∀ l, has q.entry.active l = true → (s.warm 2 x (x.lanes q.entry.active q.entry.readV)).laneAt 2 x 1 true (x.addr (q.entry.readV l)) = .ok (flat l))
        ∧ (∀ l, has q.entry.active l = true → isHost (flat l) = false)
        ∧ (∀ l, has q.entry.active l = true → s.winAt (s.gang 2).group (flat l) x.size (x.addr (q.entry.readV l)) = .free)
        ∧ (∀ l, has q.entry.active l = true → s.poisoned (flat l) x.size = false ∧ s.unreachable (flat l) = false)
        ∧ s.still 2 = false ∧ Answered s q.entry.flits q.entry.active flat ∧ s.halves = [] := by
  intro p hp
  simp only [List.mem_cons, List.not_mem_nil, or_false] at hp
  obtain rfl | rfl := hp
  all_goals
    refine ⟨_, rfl, by decide +kernel, by decide +kernel, by decide +kernel, by decide +kernel, by decide +kernel, of_lanes ?_, of_lanes ?_, of_lanes ?_,
      of_lanes ?_, by decide +kernel, .inl (of_lanes ?_), by decide +kernel⟩
      <;> decide +kernel

/-- A queued integer sum, a queued maximum, and a queued floating sum of two pairs of lanes at two places. -/
theorem witness_QueuedReductionsReachMemory :
    ∀ p ∈ [(Instr.redAdd 2 20 13, 0, 0, false), (Instr.redMax 2 20 13, 2, 0, false), (Instr.redAdd 2 20 13, 0, 128 * 8, true)],
      let q := entryOf p.1 p.2.2.1; let q := if p.2.2.2 then { q with entry := paired q.entry } else q
      let s := queuing q; let flat := fun l => if p.2.2.2 then 0x40200 + 4 * (l / 2) else 0x40200 + 4 * l
      ∃ x, accessOf q.entry.mode q.entry.instr = some x ∧ redOp q.entry.instr = some p.2.1 ∧ q.entry.waits = [] ∧ q.fault = none
        ∧ (s.gang 2).olderLoad q.entry.id = false ∧ s.crossbarOk 2 x = true
        ∧ (∀ l, has q.entry.active l = true →
          (s.warm 2 x (x.lanes q.entry.active q.entry.readV)).laneAt 2 x 3 (p.2.1 == 0 && isInt (mType q.entry.mode)) (x.addr (q.entry.readV l)) = .ok (flat l))
        ∧ (∀ l, has q.entry.active l = true → isHost (flat l) = false)
        ∧ (∀ l, has q.entry.active l = true → s.poisoned (flat l) x.size = false ∧ s.unreachable (flat l) = false)
        ∧ (∀ l k, has q.entry.active l = true → has q.entry.active k = true → flat l = flat k ∨ flat l + 4 ≤ flat k ∨ flat k + 4 ≤ flat l)
        ∧ s.still 2 = false ∧ Supported s q.entry.active flat ∧ Whole s ∧ Answered s q.entry.flits q.entry.active flat
        ∧ (p.2.2.2 = true → isFlt (mType q.entry.mode) = true ∧ flat 0 = flat 1 ∧ flat 0 ≠ flat 2) := by
  intro p hp
  simp only [List.mem_cons, List.not_mem_nil, or_false] at hp
  obtain rfl | rfl | rfl := hp
  all_goals
    refine ⟨_, rfl, by decide +kernel, by decide +kernel, by decide +kernel, by decide +kernel, by decide +kernel, of_lanes ?_, of_lanes ?_, of_lanes ?_,
      fun l k _ _ => ?_, by decide +kernel, of_lanes ?_, by decide +kernel, .inl (of_lanes ?_), by decide +kernel⟩
      <;> first | decide +kernel | (simp only [if_true, if_false, Bool.false_eq_true]; omega)

/-- An integer sum, a compare-and-swap, and a floating sum, each of lanes with places of their own, and a floating sum of two pairs. -/
theorem witness_AtomicsReturnAndUpdate :
    ∀ p ∈ [(Instr.aadd 2 4 20 13, 0, 1), (Instr.cas 3 4 20 13 5, 0, 1), (Instr.aadd 2 4 20 13, 128 * 8, 1), (Instr.aadd 2 4 20 13, 128 * 8, 2)],
      let i := p.1; let s := seatV i p.2.1 (addrs.map fun x => if x.2.1 = 20 then (x.1, 20, 0x200 + 4 * (x.1 / p.2.2)) else x)
      let flat := fun l => 0x40200 + 4 * (l / p.2.2)
      ∃ e x, Issues s i e ∧ accessOf e.mode i = some x ∧ (atomicStep e.mode (fun _ => 0) 0 i).isSome = true ∧ e.act ≠ 0
        ∧ Placed s e x 3 (atomicHost e.mode i) flat ∧ Unhindered s e x flat ∧ Sound s e x flat ∧ e.g.work.stores = []
        ∧ (∀ l k, has e.act l = true → has e.act k = true → flat l = flat k ∨ flat l + 4 ≤ flat k ∨ flat k + 4 ≤ flat l)
        ∧ x.size = 4 ∧ e.g.unread e.g.work.nextId = false ∧ Supported s e.act flat ∧ Whole s := by
  intro p hp
  simp only [List.mem_cons, List.not_mem_nil, or_false] at hp
  obtain rfl | rfl | rfl | rfl := hp
  all_goals
    refine ⟨_, _, ⟨rfl, rfl⟩, rfl, by decide +kernel, by decide +kernel, of_lanes ?_,
      ⟨by decide +kernel, .inr (of_lanes ?_), .inl (of_lanes ?_), fun h => absurd h (by decide +kernel)⟩, of_lanes ?_, by decide +kernel, fun l k _ _ => ?_,
      by decide +kernel, by decide +kernel, of_lanes ?_, by decide +kernel⟩
      <;> first | decide +kernel | (dsimp only at *; omega)

/-- Fences with nothing outstanding and with a load outstanding, XFENCE each way, PREF, and a store under a guard that no lane has. -/
theorem witness_FencesPrefetchAndIdleAccesses :
    (∀ sc ∈ [0, 1, 3], goes (.fence sc) (seat (.fence sc)) (fun e => e.g.counts == {}) = true)
    ∧ goes (.fence 1) (tune (seat (.fence 1)) fun g => { g with counts := { loads := 1 } }) (fun e => e.g.counts.loads == 1) = true
    ∧ goes (.xfence 0 1) (seat (.xfence 0 1)) (fun e => e.g.counts.stores == 0) = true
    ∧ (∀ i ∈ [Instr.xfence 3 0, .xfence 0 2], goes i (tune (seat i) fun g => { g with counts := { stores := 1 } }) (fun e => e.g.counts.stores == 1) = true)
    ∧ goes (.xfence 1 0) (tune (seat (.xfence 1 0)) fun g => { g with counts := { stores := 1 } }) (fun e => e.g.counts.stores == 1) = true
    ∧ goes (.pref 1 20) (seatV (.pref 1 20) 0 addrs) (fun e => e.act == 15#32) = true
    ∧ ∀ i ∈ [Instr.ld 4 20 0, .st 13 20 0, .redAdd 2 20 13, .aadd 2 4 20 13], goes i (seatV i 0x43 addrs) (fun e => e.act == 0#32) = true := by
  refine ⟨?_, ?_, ?_, ?_, ?_, ?_, ?_⟩ <;> decide +kernel

/-! ### The SRAM pool -/

def home (s : State) (f : Group → Group) : State := s.setGroup 1 (f (s.group 1))
/-- A partition of two consorts with eight stream contexts. -/
def wide (s : State) : State := s.setPart 0 { s.part 0 with consorts := 3, sshare := 8 }
def holding (s : State) (a : Nat) (bs : List Byte) : State := { s with mem := writeBytes s.mem a bs }

/-- v5 names a barrier object at 0x40 in every lane, v6 holds `n` and v7 `k`. -/
def atBar (i : Instr) (n k : Nat) : State :=
  seatV i 0 ((List.range 4).flatMap fun l => [(l, 5, 0x40), (l, 6, n), (l, 7, k)])
/-- A barrier of base 2 there, of the first generation. -/
def bar2 (s : State) : State := s.setBar (spadBase 1 + 0x40) (Bar.init 2)

/-- BINIT at both ends of its range and outside it; an arrival at an open phase, at one that is full, and behind a store; expected
bytes; a wait on a complete, an open and another phase; and a test. -/
theorem witness_BarrierInstructions :
    (∀ n ∈ [1, 65535, 0, 65536], let s := atBar (.binit 5 6) n 0
      goes (.binit 5 6) s (fun e => e.act == 15#32 && e.low 6 == n && (match s.barAt e.g.group (e.low 5) with | .ok f => f == spadBase 1 + 0x40 | _ => false)
        && !s.olderStore e.gk true [(spadBase 1 + 0x40, 64)] && !s.recordWaits e.gk) = true)
    ∧ (let s := bar2 (atBar (.barr 5 6) 0 0)
      goes (.barr 5 6) s (fun e => e.g.counts == {} && ((s.bar (spadBase 1 + 0x40)).arrive (e.low 6)).isSome) = true)
    ∧ (let s := (atBar (.barr 5 6) 0 0).setBar (spadBase 1 + 0x40) { Bar.init 2 with arr := [2, 0, 0, 0], xbytes := [8, 0, 0, 0] }
      goes (.barr 5 6) s (fun e => let o := s.bar (spadBase 1 + 0x40); o.isOpen (e.low 6) && decide (nth o.arr 0 = nth o.xarr 0)) = true)
    ∧ (let s := tune (bar2 (atBar (.barr 5 6) 0 0)) fun g => { g with counts := { stores := 1 } }
      goes (.barr 5 6) s (fun e => e.g.counts.stores == 1) = true)
    ∧ (let s := bar2 (atBar (.bexp 7 5 6) 0 512)
      goes (.bexp 7 5 6) s (fun e => ((s.bar (spadBase 1 + 0x40)).expect (e.low 6) (e.low 7)).isSome) = true)
    ∧ (let s := bar2 (atBar (.bexp 7 5 6) 4 512); goes (.bexp 7 5 6) s (fun e => !(s.bar (spadBase 1 + 0x40)).isOpen (e.low 6)) = true)
    ∧ (let s := bar2 (atBar (.bwait 5 6) 0xFFFFFFFF 0); goes (.bwait 5 6) s (fun e => (s.bar (spadBase 1 + 0x40)).complete (e.low 6)) = true)
    ∧ (let s := bar2 (atBar (.bwait 5 6) 0 0)
      goes (.bwait 5 6) s (fun e => let o := s.bar (spadBase 1 + 0x40); o.isOpen (e.low 6) && !o.complete (e.low 6) && o.flt == 0) = true)
    ∧ (let s := bar2 (atBar (.bwait 5 6) 4 0)
      goes (.bwait 5 6) s (fun e => let o := s.bar (spadBase 1 + 0x40); !o.isOpen (e.low 6) && !o.complete (e.low 6)) = true)
    ∧ goes (.btest 3 5 6) (bar2 (atBar (.btest 3 5 6) 0 0)) (fun e => e.act == 15#32) = true := by
  refine ⟨?_, ?_, ?_, ?_, ?_, ?_, ?_, ?_, ?_, ?_⟩ <;> decide +kernel

/-- The record of a push entry: base 0x1000, windows of one block, one window, full 0x40, free 0x80, program at 0. -/
def pushRecord : List Byte := [0x1000, 1, 0x40, 0x80, 0, 0, 0, 0].flatMap (toBytes 4)
def entry3 (c : CatEntry) (s : State) : State := home s fun g => { g with cat := [(3, c)] }
def stream3 (st : Nat) (s : State) : State := s.setStream 5 { group := 1, gang := 2, entry := 3, state := st }

/-- Each instruction at a state that meets its clause. -/
theorem witness_CatalogueAndStreamControl :
    (let s := holding (atBar (.catset 5 3) 0 0) (spadBase 1 + 0x40) pushRecord; goes (.catset 5 3) s (fun e => (match s.localAt e.g.group 32 32 (e.low 5) with | .ok f => f == spadBase 1 + 0x40 | _ => false)
        && !s.olderStore e.gk true [(spadBase 1 + 0x40, 32)] && s.catLegal e.g.group (s.bytes (spadBase 1 + 0x40) 32)
        && !s.entryBusy e.g.group 3) = true)
    ∧ (let s := stream3 4 (entry3 ({ valid := true, ctx := some 5 }) (seat (.catclr 3)))
      goes (.catclr 3) s (fun e => (s.entryStreams e.g.group 3).length == 1 && ((s.entryStreams e.g.group 3).all fun p => !p.2.running) && s.fillsOver e.g.group 3) = true)
    ∧ (let s := (stream3 1 (entry3 ({ valid := true, ctx := some 5 }) (seat (.catclr 3))))
      let s := s.setStream 5 { s.stream 5 with beats := [(0, [1])] }
      goes (.catclr 3) s (fun e => ((s.group e.g.group).entry 3).valid && !(s.stopEntry e.g.group 3).fillsOver e.g.group 3) = true)
    ∧ goes (.catqry 9 1 3) (seat (.catqry 9 1 3)) (fun e => e.act == 15#32) = true
    ∧ (∀ touch ∈ [true, false], let s := bar2 (entry3 { valid := true, cnt := 1, touch := touch, free := 0x40 } (atBar (.wrel 6 3) 0 0))
      goes (.wrel 6 3) s (fun e => let c := (s.group e.g.group).entry 3
        c.valid && c.touch == touch && c.free % 64 == 0 && e.g.counts == {} && ((s.bar (spadBase 1 + c.free)).arrive (e.low 6)).isSome) = true)
    ∧ (∀ v ∈ [true, false], let s := wide (entry3 { valid := v, prog := 8 } (atBar (.sego 9 5 3) 0 0))
      goes (.sego 9 5 3) s (fun e => (match s.localAt e.g.group 64 64 (e.low 5) with | .ok f => f == spadBase 1 + 0x40 | _ => false)
        && (s.group e.g.group).entry 3 == { valid := v, prog := 8 } && !(s.freeHandles e.g.core (s.partOf e.g)).isEmpty) = true)
    ∧ (let s := entry3 { valid := true } (atBar (.sego 9 5 3) 0 0)
      goes (.sego 9 5 3) s (fun e => s.freeHandles e.g.core (s.partOf e.g) == []) = true)
    ∧ (∀ st ∈ [1, 2], let s := stream3 st (seatV (.sestop 6) 0 [(0, 6, 5)])
      goes (.sestop 6) s (fun e => (s.ownStream e (s.ownHandle e (e.low 6))).any fun x => x.state == st && x.between) = true)
    ∧ (∀ st ∈ [1, 2, 6], let s := stream3 st (seatV (.sestop 6) 0 [(0, 6, 5)]); let s := s.setStream 5 { s.stream 5 with beats := [(0, [1])] }
      goes (.sestop 6) s (fun e => (s.ownStream e (s.ownHandle e (e.low 6))).any fun x => x.state == st && !x.between) = true)
    ∧ (let s := stream3 1 (seatV (.seresume 6) 0 [(0, 6, 5)])
      goes (.seresume 6) s (fun e => (s.ownStream e (s.ownHandle e (e.low 6))).any fun x => x.state != 3) = true)
    ∧ (let s := stream3 3 (seatV (.seresume 6) 0 [(0, 6, 5)])
      goes (.seresume 6) s (fun e => (s.ownStream e (s.ownHandle e (e.low 6))).any fun x => x.state == 3) = true)
    ∧ goes (.seqry 9 6) (stream3 3 (seatV (.seqry 9 6) 0 [(0, 6, 5)])) (fun e => e.act == 15#32) = true := by
  refine ⟨?_, ?_, ?_, ?_, ?_, ?_, ?_, ?_, ?_, ?_, ?_, ?_⟩ <;> decide +kernel

/-- A code table of one code of one bit, and a bulk request of 512 bytes from 0x40 to 0x2000 of the scratchpad. -/
def oneCode : List Byte := 0#8 :: 1#8 :: List.replicate 14 0#8 ++ [0x55#8]

def bulkBytes : List Byte := [0x200, 0x2000, 513, 0x4000].flatMap (toBytes 8) ++ [9, 1, 0, 0, 0, 0, 0, 0].flatMap (toBytes 4)

/-- A window with room for one more entry and a full one; an entry to take, and none; an end of nobody and of another gang; a table
and a request. -/
theorem witness_QueuesDecoderAndCopies :
    (∀ n ∈ [15, 16], let s := (wide (seat (.qpush 1 6))).setLink (linkKey 0 1) { window := List.replicate n (0, [], 0), owner := some 2 }
      goes (.qpush 1 6) s (fun e => (s.link (pushKey e 1)).window.length == n) = true)
    ∧ (let s := ((wide (seat (.qpop 9 1))).setLink (linkKey 0 1) { owner := some 2 }).setLink ((wide (seat (.qpop 9 1))).recvKey 2 1) { recv := [([7, 8], 5)] }
      goes (.qpop 9 1) s (fun e => !e.g.popWaits 1 && (s.link (s.popKey e.gk 1)).recv == [([7, 8], 5)]) = true)
    ∧ (∀ mode ∈ [0, 0x8000000], let s := seatV (.qpop 9 12) mode []
      goes (.qpop 9 12) s (fun e => !e.g.popWaits 12 && (s.link (s.popKey e.gk 12)).recv == [] && e.late == decide (mode ≠ 0)) = true)
    ∧ (∀ o ∈ [none, some 2, some 8], let s := (wide (seat (.qown 3 1))).setLink (linkKey 0 1) { owner := o }
      goes (.qown 3 1) s (fun e => (s.link (linkKey (e.g.core / 4) 1)).owner == o) = true)
    ∧ goes (.qownRel 1) ((wide (seat (.qownRel 1))).setLink (linkKey 0 1) { owner := some 2 }) (fun e => e.gk == 2) = true
    ∧ (let s := holding (atBar (.dectbl 5 2) 0 0) (spadBase 1 + 0x40) oneCode
      goes (.dectbl 5 2) s (fun e => (s.codeTable e.gk (spadBase 1 + 0x40)).any (fun t => t.symbols == [0x55#8])
        && (match s.localAt e.g.group 4 16 (e.low 5), s.localAt e.g.group 4 17 (e.low 5) with | .ok f, .ok g => f == spadBase 1 + 0x40 && g == f | _, _ => false)
        && !s.olderStore e.gk true [(spadBase 1 + 0x40, 272)]) = true)
    ∧ (let s := holding (atBar (.bxcopy 5) 0 0) (spadBase 1 + 0x40) bulkBytes
      goes (.bxcopy 5) s (fun e => (match s.localAt e.g.group 64 64 (e.low 5) with | .ok f => f == spadBase 1 + 0x40 | _ => false)
        && !s.olderStore e.gk true [(spadBase 1 + 0x40, 64)] && s.bulkLegal e.g.group (bulkReq (s.coreBytes e.gk (spadBase 1 + 0x40) 64))
        && !(bulkReq (s.coreBytes e.gk (spadBase 1 + 0x40) 64)).imp) = true)
    ∧ (let r : List Byte := [0x200, 0x2000, 513, 0x4000].flatMap (toBytes 8) ++ [9, 5, 0, 0, 0, 0, 0, 0].flatMap (toBytes 4)
      let s := holding (holding (atBar (.bxcopy 5) 0 0) (spadBase 1 + 0x40) r) 0x40208 (toBytes 8 513)
      goes (.bxcopy 5) s (fun e => let r := bulkReq (s.coreBytes e.gk (spadBase 1 + 0x40) 64)
        s.bulkLegal e.g.group r && r.imp && (s.recordLen e r.src).toOption == some r.len && !s.recordHeld e r.src) = true) := by
  refine ⟨?_, ?_, ?_, ?_, ?_, ?_, ?_, ?_⟩ <;> decide +kernel

/-! ### Axes -/

/-- A descriptor of eight 32-bit elements at 0x600, and of two axes, the first with a table at 0x800. -/
def line8 : TDesc := { rank := 1, base := 0x600, stride := [4], ext := [8], map := [.inline true 0 0] }
def tabled : TDesc := { rank := 2, base := 0x600, stride := [4, 64], ext := [8, 2], map := [.table 0x800, .inline true 0 0] }
def slotted (k : Nat) (D : TDesc) (s : State) : State := home s fun g => { g with td := [(k, D.bytes)] }
/-- A table of one entry, with room for four. -/
def table1 (s : State) : State :=
  holding (holding s 0x40800 (toBytes 4 1 ++ toBytes 4 4)) 0x40810 (AxEnt.bytes { lstart := 0, len := 8, pstart := 0, flags := 4 })
/-- v20 holds 0x600, v6 `n`, v8 to v11 an entry. -/
def editing (i : Instr) (n : Nat) (E : AxEnt) : State :=
  seatV i 0 ((List.range 4).flatMap fun l => [(l, 20, 0x600), (l, 6, n), (l, 8, E.lstart), (l, 9, E.len), (l, 10, E.pstart), (l, 11, E.flags)])

/-- A legal descriptor in memory; a slot that is empty and one that is not; a permutation and a word that is none; a map without a table. -/
theorem witness_DescriptorSlots :
    (let i := Instr.tdld 3 20 0; let s := holding (editing i 0 {}) 0x40600 line8.bytes
      goes i s (fun e => let va := e.pairAt 20 0; let x := pieces va; let ads := (List.range 8).map fun l => (l, (va + 16 * l) % 2 ^ 64)
        va % 16 == 0 && e.g.work.stores.isEmpty && !e.g.unread e.g.work.nextId && (List.range 8).all (fun l =>
          (e.g.pastAt e.g.work.nextId l (0x40600 + 16 * l) 16).isNone && (peerOf (0x40600 + 16 * l)).isNone && (match (s.warm e.gk x ads).laneAt e.gk x 0 true ((va + 16 * l) % 2 ^ 64) with | .ok f => f == 0x40600 + 16 * l && !isHost f | _ => false)
          && (List.range 16).all fun j => !s.isPoison (protAt (0x40600 + 16 * l + j)) && !s.unreachable (0x40600 + 16 * l + j))
        && descLegal ((List.range 8).flatMap fun l => s.bytes (0x40600 + 16 * l) 16)) = true)
    ∧ (let i := Instr.tdst 3 20 0; let s := slotted 3 line8 (editing i 0 {})
      goes i s (fun e => let va := e.pairAt 20 0; let x := pieces va
        ((find (s.group e.g.group).td 3).any fun bs => bs.length == 128) && va % 16 == 0 && e.g.work.stores.isEmpty
        && (List.range 8).all (fun l => match s.laneAt e.gk x 1 true ((va + 16 * l) % 2 ^ 64) with | .ok _ => true | _ => false)
        && segments va 128 == [(0x600, 128)] && !s.poisoned 0x40600 128 && !s.unreachable 0x40600
        && !isHost 0x40600 && (peerOf 0x40600).isNone && s.halves.isEmpty
        && (match s.laneAt e.gk { x with size := 128, align := 1 } 1 true 0x600 with | .ok f => f == 0x40600 | _ => false)) = true)
    ∧ (∀ i ∈ [Instr.tdst 3 20 0, .axperm 3 6], goes i (editing i 0 {}) (fun e => (find ((editing i 0 {}).group e.g.group).td 3).isNone) = true)
    ∧ (∀ w ∈ [1, 8, 0x40], let i := Instr.axperm 3 6; let s := slotted 3 tabled (editing i w {})
      goes i s (fun e => descLegal tabled.bytes && permOf (e.low 6) 2 == (if w = 1 then some [1, 0] else if w = 8 then some [0, 1] else none)) = true)
    ∧ (let i := Instr.axset 6 8; let s := slotted 3 tabled (editing i 0x13 { lstart := 0, len := 2, pstart := 5, flags := 4 })
      goes i s (fun e => let E := e.entry 8
        ctlOf (e.low 6) false == some (some (3, 1)) && descLegal tabled.bytes && (descOf tabled.bytes).map[1]? == some (.inline true 0 0)
        && E.valid && E.lstart == 0 && E.len == nth (descOf tabled.bytes).ext 1 && !E.remote && !E.spec && !E.ro) = true) := by
  refine ⟨?_, ?_, ?_, ?_, ?_⟩ <;> decide +kernel

/-- An entry in the middle set, one inserted, and a range deleted: three entries, three, and two. -/
theorem witness_EditsRewriteTheTable :
    ∀ p ∈ [(Instr.axset 6 8, (⟨2, 2, 40, 4⟩ : AxEnt), editSet, 3), (.axins 6 8, ⟨3, 2, 40, 4⟩, editIns, 3), (.axdel 6 8, ⟨3, 2, 0, 0⟩, fun E => editDel E.lstart E.len, 2)],
      let s := slotted 3 tabled (table1 (editing p.1 3 p.2.1))
      goes p.1 s (fun e =>
        let es' := (p.2.2.1 (e.entry 8) 8).table [⟨0, 8, 0, 4⟩]
        e.entry 8 == p.2.1 && e.act == 15#32 && ctlOf (e.low 6) false == some (some (3, 0)) && descLegal tabled.bytes
        && (descOf tabled.bytes).map[0]? == some (.table 0x800) && !s.olderStore e.gk false [(0, 2 ^ 64)]
        && (match s.xlate e.g.core (s.ctxOf e.g) 0x800 16 true with | .ok h _ => h == 0x40800 && isHbm h | _ => false)
        && (match headCount (s.bytes 0x40800 16) with | .ok n => n == 1 | _ => false)
        && (match s.tableEntries (coreWalker e.g.core (s.ctxOf e.g)) 0x800 1 with | .ok es => es == [⟨0, 8, 0, 4⟩] | _ => false)
        && (p.2.2.1 (e.entry 8) 8).legal && es'.length == p.2.2.2 && decide (es'.length ≤ s.num 0x40804 4)
        && (es'.all fun x => decide (x.lstart + x.len ≤ 2 ^ 32)) && !s.poisoned 0x40800 16 && isHbm 0x40810
        && (List.range es'.length).all fun j =>
          (match s.xlate e.g.core (s.ctxOf e.g) (0x810 + 16 * j) 16 true with | .ok f _ => f == 0x40810 + 16 * j | _ => false)
          && !s.poisoned (0x40810 + 16 * j) 16) = true := by
  decide +kernel

/-- v12 of lane `l` holds the index `l`, v13 the axis or the second index 0. -/
def coords (i : Instr) (mode : Nat) : State :=
  slotted 3 line8 (seatV i mode ((List.range 4).flatMap fun l => [(l, 12, l), (l, 6, 3), (l, 9, 7 + l)]))

/-- Lanes' coordinates that reach elements 0 to 3 for a gather at once, one deferred and a scatter; an index below an extent and one
that is not; an invalidation of all and of a table; and AXFENCE with and without a removal to wait for. -/
theorem witness_GatherScatterAndQuery :
    (∀ mode ∈ [0, 0x8000000], let i := Instr.tld 9 3 12; let s := coords i mode
      goes i s (fun e =>
        let x := xAccess 4 false [9] 2 4
        let r := (if e.late then s.tick1 else s).tlanes e.gk e.mode e.act e.g.readV line8 3 12 false
        find (s.group e.g.group).td 3 == some line8.bytes && descOf line8.bytes == line8
        && r.1 == (List.range 4).map (fun l => (l, TLane.at_ (0x600 + 4 * l) 0 false)) && e.g.work.stores.isEmpty && s.crossbarOk e.gk x && e.g.work.past.isEmpty && !e.g.unread e.g.work.nextId
        && e.late == decide (mode ≠ 0) && (List.range 4).all fun l =>
          (match (r.2.warm e.gk x ((List.range 4).map fun l => (l, 0x600 + 4 * l))).laneAt e.gk x 0 true (0x600 + 4 * l) with
            | .ok f => f == 0x40600 + 4 * l | _ => false)
          && !isHost (0x40600 + 4 * l) && (peerOf (0x40600 + 4 * l)).isNone && (e.g.pastAt e.g.work.nextId l (0x40600 + 4 * l) 4).isNone
          && !s.poisoned (0x40600 + 4 * l) 4 && (List.range 4).all fun j =>
            !s.isPoison (protAt (0x40600 + 4 * l + j)) && !s.unreachable (0x40600 + 4 * l + j)) = true)
    ∧ (let i := Instr.tst 9 3 12; let s := coords i 0
      goes i s (fun e =>
        let r := s.tlanes e.gk e.mode e.act e.g.readV line8 3 12 true
        r.1 == (List.range 4).map (fun l => (l, TLane.at_ (0x600 + 4 * l) 0 false)) && (e.g.slice (e.ss.headD 0)).reexec.isNone
        && match accessOf e.mode (tstInstr 0 i) with
          | some y => (List.range 4).all fun l =>
            match (r.2.warm e.gk y ((List.range 4).map fun l => (l, 0x600 + 4 * l))).laneAt e.gk y 1 true (0x600 + 4 * l) with
            | .ok f => f == 0x40600 + 4 * l | _ => false
          | none => false) = true)
    ∧ (let i := Instr.axqry 8 3 12; goes i (coords i 0) (fun e => (List.range 4).all fun l =>
        (e.g.readV l 12).toNat == l && (e.g.readV l 13).toNat == 0 && decide (l < nth line8.ext 0)) = true)
    ∧ (let i := Instr.axqry 8 3 6; goes i (coords i 0) (fun e => (List.range 4).all fun l => decide (line8.rank ≤ 1) && (e.g.readV l 6).toNat == 3) = true)
    ∧ (∀ i ∈ [Instr.axinvCore 6, .axinvCns 6, .axinvDev 6], goes i (editing i 0x100 {}) (fun e => ctlOf (e.low 6) true == some none) = true
      ∧ goes i (slotted 3 tabled (editing i 3 {})) (fun e => ctlOf (e.low 6) true == some (some (3, 0))
        && (descOf tabled.bytes).map[0]? == some (.table 0x800)) = true)
    ∧ goes .axfence (seat .axfence) (fun e => e.g.fenced) = true
    ∧ goes .axfence (tune (seat .axfence) fun g => { g with axinv := [(0, none)] }) (fun e => !e.g.fenced) = true := by
  refine ⟨?_, ?_, ?_, ?_, ?_, ?_, ?_⟩ <;> decide +kernel

/-! ### The matrix unit -/

def onCore (s : State) (f : Core → Core) : State := s.setCore 0 (f (s.core 0))
/-- f32 columns (layout 1), and f32 rows: a pitch of 512 bytes and an extent of 256 elements, two slabs of 128. -/
def colRec : OdRec := { base := 0, len := 4095, pitch := 1024, kext := 256, fmt := 8, layout := 1 }
def rowRec : OdRec := { colRec with layout := 0 }
/-- The gang holds band 1, bound to its quarter 0, of the FP32 kind; plane 0 holds a slab of `colRec`. -/
def bound (s : State) : State :=
  onCore s fun c => { c with bands := [{}, { owner := some 2, bind := some 0, inUse := true }, {}, {}]
                             slabs := [some colRec, none], planes := [{ loaded := true, od := colRec, kslab := 128 }, {}] }
/-- v2:v3 hold `x`, v4:v5 hold `y`, v6 `n` and v7 `m`, in each lane. -/
def pairs (i : Instr) (x y n m : Nat) : State :=
  seatV i 0 ((List.range 4).flatMap fun l => [(l, 2, x % 2 ^ 32), (l, 3, x / 2 ^ 32), (l, 4, y % 2 ^ 32), (l, 5, y / 2 ^ 32), (l, 6, n), (l, 7, m)])
def recorded (o : OdRec) (s : State) : State := home s fun g => { g with od := [(3, o)] }

/-- Legal pairs, and a column extent that is no multiple of 32; a copy of one unit; a slab of a column record; and MSWAP with nothing,
and with a slab load, before it. -/
theorem witness_ReservationsAndPlanes :
    (∀ kext ∈ [256, 257], let x := 4 * 2 ^ 12 + 16 * 2 ^ 24 + kext * 2 ^ 40; let s := pairs (.obres 3 2 4) x 8 0 0
      goes (.obres 3 2 4) s (fun e => e.act == 15#32 && (obRecord (e.g.readPair 0 2).toNat (e.g.readPair 0 4).toNat).isSome == decide (kext = 256)) = true)
    ∧ goes (.obrel 3) (recorded colRec (seat (.obrel 3))) (fun e => e.g.group == 1) = true
    ∧ (let s := recorded colRec (pairs (.obld 3 2 1) 0x400 0 0 0)
      goes (.obld 3 2 1) s (fun e => find (s.group e.g.group).od 3 == some colRec && (e.g.readPair 0 2).toNat == 0x400
        && segments 0x400 64 == [(0x400, 64)] && (match s.xlate e.g.core (s.ctxOf e.g) 0x400 64 false with | .ok f _ => f == 0x40400 | _ => false)) = true)
    ∧ (let s := recorded colRec (pairs (.mlds 3 6) 0 0 1 0)
      goes (.mlds 3 6) s (fun e => s.arrayRoom e 1 && find (s.group e.g.group).od 3 == some colRec && e.low 6 == 1
        && colRec.holds 31 (e.low 6) colRec.depth) = true)
    ∧ goes .mswap (seat .mswap) (fun e => e.swapOf.isNone && ((seat .mswap).core e.g.core).array.isEmpty && (seat .mswap).arrayRoom e 1) = true
    ∧ (let s := onCore (seat .mswap) fun c => { c with array := [{ cmd := .mlds colRec 0 1 }] }
      goes .mswap s (fun e => e.swapOf.isNone && s.arrayRoom e 1 && (s.core e.g.core).array == [{ cmd := .mlds colRec 0 1 }]) = true)
    ∧ (let s := onCore (seat .mswap) fun c => { c with array := List.replicate 16 { cmd := .mlds colRec 0 1 } }
      goes .mswap s (fun e => e.swapOf.isNone && !s.arrayRoom e 1) = true)
    ∧ ∀ b ∈ [true, false],
      let s := tune (onCore (seat .mswap) fun c => { c with array := if b then [{ gang := 2, cmd := .mswap 7 }] else [] })
        fun g => { g with swaps := [(0, (g.slice 0).pc, 7)] }
      goes .mswap s (fun e => e.swapOf == some 7 && (s.core e.g.core).swapQueued 7 == b) = true := by
  refine ⟨?_, ?_, ?_, ?_, ?_, ?_, ?_, ?_⟩ <;> decide +kernel

/-- A free band for the quarter; rows 0 to 3 of slab 1; a drain of f32 rows of 128 bytes to 0x1000; an image at the start of the
parking share, with the word of one band. -/
theorem witness_BandsPassesAndDrains :
    (let s := pairs (.mzero 6) 0 0 0x12 0; goes (.mzero 6) s (fun e => let c := s.core e.g.core; let bs := e.quarters.map fun q => e.qlow q 6 % 4
        e.quarters == [0] && c.bands.length == 4 && s.arrayRoom e 1 && bs == [2] && c.bandsFree e.gk bs
        && decide (e.qlow 0 6 < 64) && bits (e.qlow 0 6) 2 2 == 0 && bits (e.qlow 0 6) 4 2 == 1 && c.array.isEmpty
        && !s.olderClaim e.g.core (((e.g.slice (e.ss.headD 0)).bandWait.map (·.2)).getD s.clock)) = true)
    ∧ (let s := bound (recorded rowRec (pairs (.mstr 3 6) 0 0 0x10000 0))
      goes (.mstr 3 6) s (fun e => s.arrayRoom e 1 && find (s.group e.g.group).od 3 == some rowRec && e.quarters == [0]
        && e.qlow 0 6 == 0x10000 && (s.passReason e rowRec false 0 0 1).isNone) = true)
    ∧ (let s := bound (recorded rowRec (seat (.mstrP 3)))
      goes (.mstrP 3) s (fun e => s.arrayRoom e 1 && find (s.group e.g.group).od 3 == some rowRec && e.quarters == [0]
        && (s.passReason e rowRec true 0 0 0).isNone) = true)
    ∧ (let s := bound (pairs (.mdrn 6 7 2 0) 0 0 0x1000 (8 + 128 * 2 ^ 16))
      goes (.mdrn 6 7 2 0) s (fun e => s.arrayRoom e 1 && decide (mRnd e.mode < 5) && e.quarters == [0]
        && (s.core e.g.core).bound e.gk 0 == some 1 && drainLegal (e.qlow 0 7) (e.qlow 0 0) 0 0 e.g.fanSet && !bit (e.qlow 0 7) 8
        && (s.drainFault e { q := 0, ctl := e.qlow 0 7, cw := e.qlow 0 0, sa := e.qlow 0 6, band := 1, kind := 0 }).isNone) = true)
    ∧ (let s := bound (home (pairs (.mpark 9 6) 0 0 0 0) fun g => { g with parkShare := 1 })
      goes (.mpark 9 6) s (fun e => let c := s.core e.g.core
        c.bands.length == 4 && s.arrayRoom e 1 && (those 4 fun k => (c.band k).owner == some e.gk) == [1]
        && s.parkLegal e.g.group (e.low 6) (parkStride [(c.band 1).kind])) = true)
    ∧ (let s := home (pairs (.munpark 6 7) 0 0 0 0x4100) fun g => { g with parkShare := 1 }
      goes (.munpark 6 7) s (fun e => let c := s.core e.g.core; let w := e.low 7
        c.bands.length == 4 && s.arrayRoom e 1 && (those 4 fun k => bit (stateByte w k) 0) == [1]
        && ((List.range 4).all fun k => if bit (stateByte w k) 0 then bits (stateByte w k) 1 2 != 3 else stateByte w k == 0)
        && s.parkLegal e.g.group (e.low 6) (parkStride [bits (stateByte w 1) 1 2]) && c.bandsFree e.gk [1]
        && !s.olderClaim e.g.core (((e.g.slice (e.ss.headD 0)).bandWait.map (·.2)).getD s.clock)) = true)
    ∧ ∀ i ∈ [0, 1], goes (.mstat 9 i) (bound (seat (.mstat 9 i))) (fun e => e.act == 15#32) = true := by
  refine ⟨?_, ?_, ?_, ?_, ?_, ?_, ?_⟩ <;> decide +kernel

/-- One and 32 pairs of a merge, one and 1088 words of a sum, into an empty round. -/
theorem witness_ReductionContributions :
    ∀ p ∈ [(Instr.credAdd 6 7, 1, 1), (.credMax 6 7, 1088, 1088), (.credMin 6 7, 2, 2), (.credSmerge 6 7, 1, 34), (.credSmerge 6 7, 32, 1088)],
      let s := home (pairs p.1 0 0 0x1000 p.2.1) fun g => { g with cru := List.replicate p.2.2 7 }
      goes p.1 s (fun e => e.act == 15#32 && e.low 7 == p.2.1 && (get [] s.rounds (s.roundHome e.g.group)).isEmpty
        && decide (p.2.2 ≤ (s.group e.g.group).cru.length)
        && (match s.localAt e.g.group 4 (4 * p.2.2) (e.low 6) with | .ok f => f == spadBase 1 + 0x1000 | _ => false)) = true
      ∧ let u := home s fun g => { g with cru := g.cru.drop 1 }
        goes p.1 u (fun e => decide ((u.group e.g.group).cru.length < p.2.2)
          && (match u.localAt e.g.group 4 (4 * p.2.2) (e.low 6) with | .ok _ => true | _ => false)) = true := by
  decide +kernel

/-! ### Launches and the supervisor -/

/-- Queue 3 of the partition is bound and on, with two slots at 0x2000, its prod in memory and its cons. -/
def queue3 (prod cons : Nat) (s : State) : State :=
  holding (s.setQueue 0 3 { bound := true, on := true, ctx := 0, header := 0x2000, lsize := 1, cons := cons, prod := prod }) 0x42000 (toBytes 4 prod)

/-- LQSTAT off and on; LQPUSH to a queue that is off, behind a store, full, and with one slot free; EXITC with no addition pending, and
with one; LQCANCEL of the group, of a slot that is not there, of a launch that runs, of one that has ended, and of a record. -/
theorem witness_LaunchInstructions :
    (∀ sel ∈ [0, 1, 2, 3], goes (.lqstat 9 sel 3) (seat (.lqstat 9 sel 3)) (fun e => e.act == 15#32) = true
      ∧ goes (.lqstat 9 sel 3) (queue3 1 0 (seat (.lqstat 9 sel 3))) (fun e => e.act == 15#32) = true)
    ∧ (∀ prod ∈ [1, 2], let s := queue3 prod 0 (atBar (.lqpush 9 5 3) 0 0)
      goes (.lqpush 9 5 3) s (fun e => e.low 5 % 64 == 0 && (match s.localRange e.g.group (e.low 5) 128 with
          | .at_ f _ off => f == spadBase 1 + 0x40 && decide (off < 0x180000) | _ => false)
        && (s.queue 0 3).bound && (s.queue 0 3).on && e.g.counts == {} && (s.queue 0 3).fault.isNone && (s.queue 0 3).hfault.isNone
        && (match s.lnRead 0 0 0x2000 64 with | LnRes.got _ => true | _ => false) && !isHost 0x42000 && !isHost 0x420C0
        && (match s.lnPlaces 0 0x2000 8 true with | .ok ps => ps == [(0x42000, 8)] | _ => false) && !s.poisoned 0x42000 8
        && s.num 0x42000 4 == prod && decide (2 ^ (s.queue 0 3).lsize ≤ ahead 0 prod) == decide (prod = 2)
        && (match s.lnPlaces 0 ((s.queue 0 3).slotVa 1) 128 true with | .ok ps => ps == [(0x420C0, 128)] | _ => false) && !s.poisoned 0x420C0 128
        && (match (((s.storesSeen 2).setNum 0x42000 4 (prod + 1)).pushRecord 2 (spadBase 1 + 0x40) prod [(0x420C0, 128)]).lnRead 0 0 0x2000 64 with
          | LnRes.got hb => fromBytes (hb.take 4) == prod + 1 | _ => false)) = true)
    ∧ goes (.lqpush 9 5 3) (atBar (.lqpush 9 5 3) 0 0) (fun e => !((atBar (.lqpush 9 5 3) 0 0).queue (((atBar (.lqpush 9 5 3) 0 0)).partOf e.g) 3).on) = true
    ∧ goes (.lqpush 9 5 3) (tune (queue3 1 0 (atBar (.lqpush 9 5 3) 0 0)) fun g => { g with counts := { stores := 1 } }) (fun e => e.g.counts.stores == 1) = true
    ∧ (∀ x ∈ [none, some (8, 1)], let s := tune (pairs (.exitc 2 6) 0x608 0 5 0) fun g => { g with exitc := x }
      goes (.exitc 2 6) s (fun e => e.g.residualCount == 0 && e.g.work.faulted.isNone && e.g.exitc == x && (e.g.readPair 0 2).toNat == 0x608
        && (match s.xlate e.g.core (s.ctxOf e.g) 0x608 8 true with | .ok f _ => f == 0x40608 | _ => false)) = true)
    ∧ goes (.lqcancel 9 6 7) (pairs (.lqcancel 9 6 7) 0 0 0xFFFFFFFF 0) (fun e => e.low 6 == 0xFFFFFFFF && e.g.level == 1) = true
    ∧ (∀ x ∈ [(0, 1), (1, 1), (1, 2)], let s := queue3 x.2 0 (pairs (.lqcancel 9 6 7) 0 0 3 x.1)
      goes (.lqcancel 9 6 7) s (fun e => let k := s.queue 0 (e.low 6); let i := e.low 7
        k.on && k.fault.isNone && k.hfault.isNone && decide (ahead k.cons i < ahead k.cons k.prod) == decide (x.1 < x.2) && s.launches.isEmpty
        && (match s.lnRead 0 k.ctx (k.slotVa i) 128 with
          | LnRes.got bs => fromBytes ((bs.drop 0x60).take 4) == 0 && fromBytes ((bs.drop 0x70).take 4) == 0
            && (match s.recordCount 0 k.ctx (launchOf 0 3 i k.ctx (k.slotVa i) bs) bs with | .got _ => true | _ => false)
          | _ => false)) = true)
    ∧ ∀ st ∈ [2, 3], let s := (queue3 1 0 (pairs (.lqcancel 9 6 7) 0 0 3 0)).setLaunch 4 { queue := 3, placed := 1, status := st }
      goes (.lqcancel 9 6 7) s (fun e => (s.launches.find? fun x => x.2.part == 0 && x.2.queue == e.low 6 && x.2.slot == e.low 7).any fun x =>
        x.1 == 4 && x.2.status == st && x.2.ending.isNone && x.2.closing.isNone && decide (x.2.finished < x.2.placed)) = true := by
  refine ⟨?_, ?_, ?_, ?_, ?_, ?_, ?_, ?_⟩ <;> decide +kernel

/-- Every register that SWR writes; wdepth at the first depth above the resident window, at one that is no multiple of 32, and past
the ring. -/
theorem witness_SystemRegisterWrites :
    (∀ d ∈ [16, 17, 18, 19, 20, 24, 25, 26, 27, 28, 29, 32, 33, 34], goes (.swr d 2) (pairs (.swr d 2) 0x123456789 0 0 0)
      (fun e => e.act == 15#32) = true)
    ∧ ∀ n ∈ [0, 32, 33, 0x10000], let s := pairs (.swr 10 6) 0 0 n 0
      goes (.swr 10 6) s (fun e => let v := (e.g.readV 0 6).toNat
        (v % 32 == 0 && e.ss.all fun i => decide ((e.g.slice i).low ≤ v) && decide (v + 48 ≤ (s.group e.g.group).ring + (e.g.slice i).low))
          == decide (n ≤ 32)) = true := by
  refine ⟨?_, ?_⟩ <;> decide +kernel

/-- A window moved out and one moved back; a removal of one page's translation and of all; and a halt. -/
theorem witness_WindowsTranslationsAndHalt :
    (∀ p ∈ [(Instr.splv 2 6, 0, true), (.filv 2 6, 32, false)], let s := tune (pairs p.1 0x600 0 0 0) fun g => { g with slices := [{ base := 64, low := p.2.1 }] }
      goes p.1 s (fun e => e.low 6 == 0 && (e.g.readPair 0 2).toNat == 0x600 && e.g.nslices == 1 && e.g.work.stores.isEmpty
        && (match s.winPlaces e 0x600 p.2.2 with | .ok ps => ps == (List.range 4).map (fun k => (k, 0x40600 + 128 * k, 128)) | _ => false)
        && (List.range 4).all fun k => !isHost (0x40600 + 128 * k) && !s.poisoned (0x40600 + 128 * k) 128
          && (List.range 128).all fun j => !s.unreachable (0x40600 + 128 * k + j)) = true)
    ∧ (∀ w ∈ [0, 1, 18], goes (.tlbinv 2 6) (pairs (.tlbinv 2 6) 0x600 0 w 0) (fun e => e.low 6 == w && e.g.counts.stores == 0) = true)
    ∧ goes (.tlbinv 2 6) (tune (pairs (.tlbinv 2 6) 0x600 0 0 0) fun g => { g with counts := { stores := 1 } }) (fun e => e.g.counts.stores == 1) = true
    ∧ goes (.halt 6) (pairs (.halt 6) 0 0 77 0) (fun e => ((seat (.halt 6)).ctx ((seat (.halt 6)).ctxOf e.g)).state == .resident) = true
    ∧ (let s := (seat (.halt 6)).setCtx 0 { state := .failed }; goes (.halt 6) s (fun e => (s.ctx (s.ctxOf e.g)).state == .failed) = true) := by
  refine ⟨?_, ?_, ?_, ?_, ?_⟩ <;> decide +kernel

/-- Context 3 of the partition, in a state and a world; v6 names it, v2:v3 holds 0x1000. -/
def target (i : Instr) (st : CtxState) (world : Nat) : State :=
  (pairs i 0x1000 0 3 7).setCtx 3 { state := st, world := world }
/-- QUIESCE of a context that runs, that stands, and that is saved; of no context, of its own, and past 63. A save of one that runs, of a
protected one without a key, and of one that holds nothing; a load of that image. KEYSEL of a context in a world: what the key
names is the implementation's, so both of its answers hold of some key. -/
theorem witness_ContextsMove :
    (∀ p ∈ [(CtxState.resident, 0), (.stopping, 0), (.quiescent, 0), (.halted, 0), (.saved, 0), (.failed, 0), (.none, 0), (.quiescent, 5)],
      ∀ i ∈ [Instr.quiesce 9 6, .ctxsave 9 6 2, .ctxload 9 6 2, .keysel 9 6 7],
        goes i (target i p.1 p.2) (fun e => e.low 6 == 3 && ((target i p.1 p.2).ctx 3).state == p.1 && ((target i p.1 p.2).ctx 3).world == p.2
          && (target i p.1 p.2).ctxOf e.g != 3) = true)
    ∧ (∀ x ∈ [0, 64], goes (.quiesce 9 6) (pairs (.quiesce 9 6) 0 0 x 0) (fun e => e.low 6 == x) = true) := by
  refine ⟨?_, ?_⟩ <;> decide +kernel

/-- The image of a context that holds nothing is its header, one unit. -/
theorem witness_ContextsMove_save :
    let s := target (.ctxsave 9 6 2) .quiescent 0
    (s.takeImage 3 0).stored.length = 4096 ∧ goes (.ctxsave 9 6 2) s (fun e =>
      (match s.imagePlaces e 0x1000 1 true with | .ok ps => ps == [0x41000] | _ => false) && rising s.groups && !s.unreachable 0x41000) = true := by
  refine ⟨?_, ?_⟩ <;> decide +kernel

/-- What an image of one unit gives whose queues are all bound to nothing with index 0, and the device whose memory holds that image at
0x1000. -/
def onePage : Saved := { ctx := 3, queues := List.replicate 64 0 }
def imaged : State :=
  let s := holding (pairs (.ctxload 9 6 2) 0x1000 0 3 7) 0x41000 ([1, 0, 0, 0, 3, 1].flatMap (toBytes 4))
  s.setCtx 3 { state := .saved, saved := [onePage] }

set_option maxRecDepth 100000 in
theorem witness_ContextsMove_load :
    goes (.ctxload 9 6 2) imaged (fun e =>
        (imaged.ctx 3).state == .saved && (match imaged.imagePlaces e 0x1000 1 false with | .ok ps => ps == [0x41000] | _ => false)
        && !imaged.unreachable 0x41000 && imaged.poison.isEmpty && (placeBlocks (imaged.coreFree 0) imaged.free onePage.blocks []).isSome
        && (imaged.streamPlaces 0 [] onePage).isSome) = true
    ∧ imageLength (imaged.bytes 0x41000 4096) = 1
    ∧ State.checkImage (imaged.ctx 3) 3 (imaged.bytes 0x41000 4096) = .inr onePage := by
  refine ⟨?_, ?_, ?_⟩ <;> decide +kernel

/-! ### Stream programs -/

/-- A stream context about to execute a word, with registers: e1 holds 3, e2 0x600, e3 the most negative number; lc1 is 1 and lc2 is
5; slot 0 boxes two elements of `line8` from element 2 on; window 0 of a push entry of one window at 0x1000 is open. -/
def engine (i : Instr) (f : StreamCtx → StreamCtx) : State :=
  let s := { State.reset.bench true (toBytes 8 ((encodeStream i).getD 0).toNat) with cur := { ctx := 0 } }
  let s := home s fun g => { g with cat := [(0, { valid := true, rbase := 0x1000, wsize := 1, cnt := 1, full := 0x40, free := 0x80, ctx := some 0 })] }
  s.setStream 0 (f { s.stream 0 with regs :=
    { e := [(1, 3), (2, 0x600), (3, 0x8000000000000000)], lc := [(1, 1), (2, 5)], start := [(2, 16)], cur := some 0
      sd := [(0, { desc := line8.bytes, origin := [2], extent := [2] })] } })

/-- A context for every operation, with counters 0, 1 and 5, a slot that is set and one that is not, with and without credit owed. -/
theorem witness_StreamControlOperations :
    (let s := engine (.seFence 0 0 0 0) id;
    (find s.streams s.cur.ctx).any (fun c => c.regs.lc == [(1, 1), (2, 5)] && get 0 c.regs.e 1 == 3 && get 0 c.regs.e 0 == 0
        && (find c.regs.sd 0).any (fun b => (descOf b.desc).rank == 1) && (find c.regs.sd 1).isNone) && !s.owed 0) = true
    ∧ (let s := { engine (.seFence 0 0 0 0) id with credits := [{ stream := some 0 }] }
      (find s.streams s.cur.ctx).isSome && s.owed 0) = true := by
  refine ⟨?_, ?_⟩ <;> decide +kernel

/-- A box of two elements fetched to the window and to a port, gathered and fetched with a remote axis allowed; a fill of a touched
window, one whose barrier stands open, and one whose does not; an expectation; and a signal. -/
theorem witness_StreamDataOperations :
    (∀ i ∈ [Instr.seFetch 0 0 0 0, .seGather 0 0 2 1, .seKvfetch 0 0 0 0, .seFetch 0 0 0 0x20], let s := engine i id
      (find s.streams s.cur.ctx).any (fun c => (find c.regs.sd 0).any fun b =>
        let D := descOf b.desc; let axes := b.axes D; let ent := (s.group c.group).entry c.entry
        axes == [[2, 3]] && boxSize D.type 2 == some 8 && (s.windowFault c 8).isNone && !c.clearing && !c.stopping && (match s.readBox 0 c D false axes with
          | (.ok (src, pois), _) => src == List.replicate 8 0 && !pois | _ => false)
        && (match s.indexList 0 c (get 0 c.regs.e 2).toNat 1 with
          | .ok idx => idx.map Prod.fst == [0] && (match (idx.foldl (fun u p => u.streamAsk c 0 4 p.2) s).readBox 0 c D false (axes.set 0 (idx.map Prod.fst)) with
            | (.ok (src, _), _) => src.length == 4 | _ => false)
          | _ => false)
        && (match s.readBox 0 c D true axes with | (.ok (src, _), _) => src.length == 8 | _ => false)
        && (s.written c.group c.entry == [c.group]) && !s.poisoned (s.windowFlat c.group ent (0 % ent.cnt)) 8
        && (List.range 2).all fun j => D.place (4 * (j + 2)) == (0x608 + 4 * j, 0)
          && (match s.engXl 0 (s.streamCtxOf c) (0x608 + 4 * j) 4 false with | .ok f _ => f == 0x40608 + 4 * j | _ => false)) = true)
    ∧ (let s := engine (.seWaitf 0 0 0 0) fun c => { c with touch := some 0, regs := { c.regs with cur := none } }
      (find s.streams 0).any (fun c => c.touch == some 0 && c.regs.cur.isNone) = true)
    ∧ (∀ gen ∈ [0, 4], let s := (engine (.seWaitf 0 0 0 0) id).setBar (spadBase 1 + 0x40) { Bar.init 2 with gen := gen }
      (find s.streams 0).any (fun c => let ent := (s.group c.group).entry c.entry
        c.touch.isNone && s.written c.group c.entry == [c.group] && s.castAgrees c && decide (ent.next < ent.cnt)
        && (s.bar (spadBase c.group + ent.full)).isOpen ent.next == decide (gen = 0)) = true)
    ∧ (∀ b ∈ [false, true], let s := bar2 (engine (.seExpect 0 15 0 512) id); let s := if b then { s with credits := [{ stream := some 0 }] } else s
      (find s.streams 0).any (fun c => let o := s.bar (spadBase 1 + 0x40)
        s.owed 0 == b && s.written c.group c.entry == [c.group] && c.touch.isNone && c.regs.cur == some 0 && ((s.group c.group).entry c.entry).full % 64 == 0
        && (({ o with xbytes := o.xbytes.set 0 512 } : Bar).arrive 0).isSome) = true)
    ∧ (let s := engine (.seSignal 0 15 2 1) id
      (find s.streams 0).any (fun c => (get 0 c.regs.e 2).toNat % 8 == 0 && (match s.engXl 0 (s.streamCtxOf c) 0x600 8 true with
        | .ok f _ => f == 0x40600 | _ => false) && !isHost 0x40600 && (peerOf 0x40600).isNone && !s.unreachable 0x40600 && !s.poisoned 0x40600 8) = true)
    ∧ ∀ rest ∈ [[], [(256, [9])]], let s := engine (.seFetch 0 0 0 0) fun c => { c with beats := (128, [7, 8]) :: rest }
      (find s.streams 0).any (fun c => c.regs.cur == some 0 && s.written c.group c.entry == [c.group] && c.beats == (128, [7, 8]) :: rest
        && !s.poisoned (s.windowFlat c.group ((s.group c.group).entry c.entry) 0 + 128) 2 && !c.clearing && !c.stopping) = true := by
  refine ⟨?_, ?_, ?_, ?_, ?_, ?_⟩ <;> decide +kernel

/-! ### Events -/

/-- A slice that waits at 0x100 for register 0, all of whose lanes have arrived, and one whose register has a pending path; both in an
ageing group after 65,536 cycles and before; and a slice that waits to be joined with slice 1, which does not and which does. -/
def joining (age : Nat) (ps : List Path) : State :=
  home (tune (seat .nop) fun g => { g with slices := [{ wait := some (.join 0 0x100) }]
                                           rejoin := [(0, { expect := 15, arrived := 15, paths := ps, age := age })] }) fun g => { g with ageing := true }
def reganging (w : Option Wait) : State :=
  home (tune { seat .nop with clock := 70000 } fun g => { g with nslices := 2, slices := [{ wait := some (.regang 3 0x100 0) }, { cohort := 1, wait := w }], path := 0xFF })
    fun g => { g with ageing := true }

theorem witness_WaitsComplete :
    (let g := (joining 0 []).gang 2; let r := g.rejoinReg 0;
      g.stopped = false ∧ (∀ i, i < 1 → (g.slice i).held = 0) ∧ r.arrived = r.expect ∧ r.paths = []
        ∧ (g.slices.length = 1 ∧ r.expect &&& sliceMask 0 ≠ 0 ∧ (g.slice 0).wait = some (.join 0 0x100)))
    ∧ (∀ age ∈ [65535, 65536], let s := joining age [{ pc := 0x200, mask := 8 }]; let g := s.gang 2
      g.anyWaits 0 = true ∧ (g.rejoinReg 0).paths ≠ [] ∧ (s.group g.group).ageing = true ∧ (g.rejoinReg 0).age = age ∧ g.stopped = false ∧ (∀ i, i < 1 → (g.slice i).held = 0))
    ∧ (∀ w ∈ [none, some (Wait.regang 3 0x100 9)], let s := reganging w; let g := s.gang 2
      (g.slice 0).wait = some (.regang 3 0x100 0) ∧ (∀ i, i < 2 → (g.slice i).held = 0) ∧ (g.slice 1).wait = w ∧ (s.group g.group).ageing = true ∧ 0 + 65536 ≤ s.clock ∧ g.stopped = false) := by
  refine ⟨?_, ?_, ?_⟩ <;> decide +kernel

/-- A captured ADD with its sources, under the current tag and under an older one. -/
theorem witness_ResidualsRun :
    ∀ tag ∈ [1, 2], let e : Entry := { waiting with waits := [], dest := [(3, tag)], vals := [(1, 7), (2, 8)] }
      let s := tune (seat .nop) fun g => { g with sched := { active := true, can := 256 }, work := { g.work with residuals := [e] }, regs := { g.regs with pend := [(3, { on := true, tag := 2, mask := 15 })] } }
      let env : Env := { e.env e.active with uni := join64 (e.readV (lowest e.active) 126) (e.readV (lowest e.active) 127) }
      ∃ k, (s.mayDefer 2 = true ∧ s.nextGrant 0 [] = some 2 ∧ (s.gang 2).postedReady = false ∧ (s.readyResiduals 2).head? = some e) ∧ (s.gang 2).work.faulted = none ∧ (s.gang 2).work.residuals[0]? = some e ∧ e.keep = 0 ∧ (s.gang 2).supH = false
        ∧ kernelOf e.instr = some k ∧ (∃ o, destOf e.instr = some o ∧ o.kind ≠ .pred) ∧ raisingLanes (outcomes k env) (s.gang 2).sys.fpctl = 0
        ∧ (((s.gang 2).pend 3).tag = tag ↔ tag = 2) := by
  intro tag ht
  simp only [List.mem_cons, List.not_mem_nil, or_false] at ht
  obtain rfl | rfl := ht
  all_goals
    refine ⟨_, by decide +kernel, by decide +kernel, rfl, by decide +kernel, by decide +kernel, rfl, ⟨_, rfl, by decide +kernel⟩, by decide +kernel, by decide +kernel⟩

/-- A gang without a lane left; one inside a handler; and posted faults of a captured instruction, of an engine and of a page, outside
one, at each level. -/
theorem witness_PostedFaultsAreTaken :
    (let g := (tune (seat .nop) fun g => { g with exited := 15, work := { g.work with posted := [{ code := 0x20 }] } }).gang 2;
      g.live = true ∧ g.unexited = 0 ∧ g.stopped = false)
    ∧ (let g := (tune (seat .nop) fun g => { g with userH := true, work := { g.work with posted := [{ code := 0x20 }] } }).gang 2
      g.userH = true ∧ g.unexited ≠ 0)
    ∧ (∀ f ∈ [({ code := 0x30, aux := 5, more := 1 } : Posted), { code := 0x22, entry := some waiting, tmask := 3 }, { code := 0x20, entry := some waiting, tmask := 3 }],
      ∀ u ∈ [user, id], let s := (tune (seat .nop) fun g => u { g with work := { g.work with posted := [f] } }).setPart 0 { (seat .nop).part 0 with stvec := 0x800 }
      let g := s.gang 2
      g.work.posted = [f] ∧ g.live = true ∧ g.unexited ≠ 0 ∧ g.stopped = false ∧ g.userH = false ∧ g.supH = false ∧ g.page = none
        ∧ g.work.faulted = none ∧ g.boundary = [0] ∧ (∀ y ∈ g.slices, y.reexec = none) ∧ s.recordWaits 2 = false ∧ (s.part (s.partOf g)).stvec ≠ 0 ∧ StvecSettled s (s.partOf g)) := by
  refine ⟨?_, ?_, ?_⟩
  · decide +kernel
  · decide +kernel
  · intro f hf u hu
    simp only [List.mem_cons, List.not_mem_nil, or_false] at hf hu
    obtain rfl | rfl | rfl := hf <;> obtain rfl | rfl := hu <;> decide +kernel

/-- Where a translation and a range of a launcher lead; and that the launcher can read a range. -/
def goesTo (s : State) (x va n flat : Nat) : Bool := match s.xlateBy [] x va n true with | .ok f _ => f == flat | _ => false
def liesAt (s : State) (x va n flat : Nat) : Bool := match s.lnPlaces x va n true with | .ok ps => ps == [(flat, n)] | _ => false
def reads (s : State) (va n : Nat) : Bool := match s.lnRead 0 0 va n with | LnRes.got _ => true | _ => false

/-- The bench's gang with its place in the scheduler changed; gangs 10 to 17 active beside it. -/
def sched (x : Sched) : State := tune (seat .nop) fun g => { g with sched := x }
def crowd (s : State) : State :=
  (List.range 8).foldl (fun s k => s.setGang (10 + k) { (s.gang 2) with sched := { active := true, born := k, slot := k + 1 } }) s
/-- A gang that stands still: one of its slices waits for v3, or as given. -/
def still (x : Slice) (quiet : Nat) : State :=
  tune (sched { active := true, quiet := quiet }) fun g => { g with
    regs := { g.regs with pend := [(3, { on := true })] }, work := { g.work with residuals := [waiting] }, slices := [x] }
/-- The group's launch 4, whose groups count at 0x608 and whose status word stands at 0x20B0. -/
def launched (l : Launch) (s : State) : State := (home s fun g => { g with launch := some 4 }).setLaunch 4 { l with recVa := 0x2040 }

/-- The active set with room, full, and without a candidate; a gang that has waited; the five causes to park, and a drain point at its
64th cycle and before; a hang at its bound and before; a gang that ends alone, with an addition, and with work outstanding. -/
theorem witness_SchedulerEvents :
    (∀ x ∈ [({} : Sched), { yielded := true }], let s := sched x
      (s.activeGangs 0).length < 8 ∧ s.pendingGangs 0 = [2] ∧ (s.core 0).entered ≠ some s.clock)
    ∧ (let s := crowd (sched { outside := 4096 })
      8 ≤ (s.activeGangs 0).length ∧ 2 ∈ s.pendingGangs 0 ∧ 10 ∈ s.activeGangs 0 ∧ 4096 ≤ (s.gang 2).sched.outside ∧ (s.gang 10).sched.waited < 4096)
    ∧ (∀ w ∈ [4095, 4096], let s := sched { active := true, waited := w, can := 1 }
      2 ∈ s.activeGangs 0 ∧ (s.gang 2).sched.waited = w ∧ s.grantable 2 0 = true ∧ s.nextGrant 0 [] = some 2
        ∧ 2 ∉ (s.core 0).granted ∧ s.nextUnit 2 0 ∉ (s.core 0).used)
    ∧ (∀ p ∈ [(({ stall := some (.phase (spadBase 1) 0 false) } : Slice), some Park.barrier), ({ stall := some (.queue 12) }, some .queue),
        ({ wait := some (.join 0 0) }, some .join), ({ stall := some .exitWait }, some .exit), ({ stall := some (.sources [3]) }, none)],
      ∀ quiet ∈ [63, 64], let s := still p.1 quiet
      (s.gang 2).live = true ∧ (s.gang 2).stopped = false ∧ (s.gang 2).sched.active = true ∧ s.ready 2 = false ∧ s.parkCause 2 = p.2 ∧ (p.2 = none → s.drainStalled 2 = true)
        ∧ (s.gang 2).sched.quiet = quiet)
    ∧ (let s := tune (still { stall := some .residualFull } 0) fun g => { g with work := { g.work with residuals := List.replicate 32 waiting } }
      (s.gang 2).live = true ∧ (s.gang 2).stopped = false ∧ (s.gang 2).sched.active = true ∧ s.ready 2 = false ∧ s.parkCause 2 = some .residual)
    ∧ (∀ n ∈ [2 ^ 24 - 1, 2 ^ 24], let s := sched { idle := n }
      (s.gang 2).live = true ∧ (s.gang 2).stopped = false ∧ (s.gang 2).sched.hung = false ∧ (s.gang 2).sched.idle = n
        ∧ (s.part 0).waiting = [] ∧ (s.part 0).hangs = [] ∧ s.ringRoom 0 = false ∧ (s.part 0).linked = true ∧ (s.part 0).fring + 64 ≤ 2 ^ 51)
    ∧ (let s := holding (sched { idle := 2 ^ 24 }) (hostBase + 8) (toBytes 4 4)
      (s.gang 2).live = true ∧ (s.gang 2).sched.hung = false ∧ (s.part 0).waiting = [] ∧ (s.part 0).hangs = [] ∧ s.ringRoom 0 = true)
    ∧ (∀ x ∈ [none, some (0x608, 3)], ∀ n ∈ [({} : Counts), { copies := 1 }],
      let s := launched { status := 2, next := 1, ngroups := 2 } (tune (seat .nop) fun g => { g with exited := 15, exitc := x, counts := n }); let g := s.gang 2
      g.live = true ∧ g.unexited = 0 ∧ g.stopped = false ∧ g.page = none ∧ g.owed = none ∧ s.recordWaits 2 = false ∧ g.work.posted = [] ∧ g.work.faulted = none ∧ g.exitc = x ∧ g.counts = n
        ∧ (s.group g.group).launch = some 4 ∧ (s.launch 4).status < 3 ∧ (s.launch 4).next < (s.launch 4).ngroups ∧ (s.launch 4).ending = none
        ∧ (s.launch 4).closing = none ∧ (s.launch 4).addWait = none ∧ (s.launch 4).adds = [] ∧ (s.launch 4).stats = [] ∧ goesTo s (s.launch 4).ctx 0x608 8 0x40608 = true
        ∧ s.queueParked 0 0 = false ∧ isHost 0x40608 = false ∧ (∀ q ∈ s.launches, q.2.status < 3) ∧ s.poisoned 0x40608 8 = false ∧ s.unreachable 0x40608 = false) := by
  refine ⟨?_, ?_, ?_, ?_, ?_, ?_, ?_, ?_⟩ <;> decide +kernel

/-- A group whose gang has ended: of no launch, of one that goes on, and the last of one. -/
theorem witness_SchedulerEvents_group :
    ∀ p ∈ [((seat .nop), none), (launched { status := 2, next := 1, ngroups := 2, cctr := 0x608 } (seat .nop), some 4),
        (launched { status := 2, next := 1, ngroups := 1, placed := 1 } ((seat .nop).setQueue 0 0 { cons := 7 }), some 4)],
      let s := tune p.1 fun g => { g with live := false }
      (find s.groups 1).any (fun g => g.launch == p.2 && (s.ctx g.ctx).state == .resident) = true
        ∧ ((s.launch 4).closing = none ∧ (s.launch 4).detached = false ∧ (s.launch 4).statWait = none ∧ (p.2 = none ∨ (s.launch 4).cctr ≠ 0
            ∨ (s.queue 0 0).cons ≠ (s.launch 4).slot))
        ∧ (∀ p ∈ s.gangs, p.2.group = 1 → p.2.live = false) ∧ rising s.gangs = true ∧ rising s.streams = true ∧ rising s.launches = true
        ∧ goesTo (s.removeGroup 1) 0 0x608 8 0x40608 = true
        ∧ liesAt (s.removeGroup 1) 0 (0x2040 + 0x70) 8 0x420B0 = true
        ∧ (∀ a ∈ [0x40608, 0x420B0], s.poisoned a 8 = false ∧ s.unreachable a = false ∧ a + 8 ≤ spadBase 1 ∧ isHost a = false)
        ∧ s.queueParked 0 0 = false ∧ (∀ q ∈ s.launches, q.2.status < 3) ∧ (s.launch 4).addFailed = false ∧ (s.launch 4).adds = [] := by
  decide +kernel

/-- A legal record of one gang of one slice, with a stack, a scratchpad and `n` groups, for slot `slot`; `d` waits for the word at 0x600. -/
def record (slot n : Nat) (d : Bool) : List Byte :=
  ((toBytes 8 0 ++ toBytes 8 0x4000 ++ toBytes 4 0 ++ toBytes 4 0x101 ++ toBytes 4 n ++ toBytes 4 0 ++ toBytes 8 0
    ++ toBytes 8 (if d then 0x600 else 0) ++ toBytes 8 (if d then 1 else 0)) ++ List.replicate 40 0 ++ toBytes 4 slot ++ List.replicate 28 0)
def dispatching (n : Nat) (d : Bool) : State :=
  let s := queue3 1 0 (seat .nop)
  holding (s.setQueue 0 3 { s.queue 0 3 with fresh := false }) 0x42040 (record 0 n d)
/-- A launch that places its first of two groups; core 4 of a wide partition takes it. -/
def placing : State :=
  ((wide (seat .nop)).setLaunch 4 { queue := 3, status := 1, ngroups := 2, pword := 0x101, recVa := 0x2040 }).setQueue 0 3
    { bound := true, on := true, fresh := false, header := 0x2000, lsize := 1, cur := some 4, prod := 1, dispatch := 1 }

/-- Doorbells of an unbound, a bound and a waiting queue; a record that is legal, one without groups, and one with a dependence; a
placement; a queue that has waited to its bound; and a budget period at its end and before. -/
theorem witness_LauncherEvents :
    (∀ b ∈ [false, true], ∀ x ∈ [none, some (0, 0x2000)], let s := (queue3 1 0 (seat .nop)); let s := s.setQueue 0 3 { s.queue 0 3 with bound := b, bind := x }
      (s.part 0).live = true ∧ (s.part 0).linked = true ∧ (s.queue 0 3).bound = b ∧ (s.queue 0 3).bind = x
        ∧ reads s 0x2000 64 = true)
    ∧ (∀ n ∈ [0, 1], ∀ d ∈ [false, true], ∀ m ∈ [false, true], let s := dispatching n d; let s := s.setQueue 0 3 { s.queue 0 3 with depMet := m, cons := 0xFFFFFFFF }
      let k := s.queue 0 3
      s.queueReady 0 3 = true ∧ s.headerDue 0 3 = false ∧ k.consDue = false ∧ s.queueParked 0 3 = false ∧ k.cons ≠ k.dispatch ∧ k.depMet = m ∧ (n = 1 → s.fits 0 3 = (m || !d)) ∧ s.launches = [] ∧ (match s.lnRead 0 k.ctx (k.slotVa k.dispatch) 128 with
        | LnRes.got bs => fromBytes ((bs.drop 0x60).take 4) == k.dispatch && depsOf bs == (if d then [(0x600, 1)] else [])
            && s.recordReason (launchOf 0 3 0 0 0x2040 bs) bs == (if n = 0 then some 3 else none)
        | _ => false) = true
        ∧ reads s 0x600 8 = true ∧ reads s 0x4000 128 = true
        ∧ liesAt s 0 (0x2040 + 0x70) 8 0x420B0 = true ∧ s.poisoned 0x420B0 8 = false)
    ∧ (placing.placingOf 0 3).any (fun (n, l) => n == 4 && placing.granted 0 3 && !placing.queueParked 0 3 && placing.coreTakes l 4 && l.cons == 0 && !l.rdrv
        && decide (l.next + 1 < l.ngroups) && l.adds.isEmpty && l.stats.isEmpty && l.closing.isNone
        && (placing.launches.all fun x => decide (x.2.status < 3)) && placing.gangs.all fun x => x.2.group != placing.names) = true
    ∧ (let s := { placing.setQueue 0 3 { placing.queue 0 3 with since := some 0 } with clock := 65536 }; let s := s.setPart 0 { s.part 0 with consorts := 0 }
      (s.queue 0 3).since = some 0 ∧ (s.queue 0 3).reserving = none ∧ 0 + 65536 ≤ s.clock ∧ s.headOf 0 3 ≠ none ∧ s.fits 0 3 = false)
    ∧ (let s := queue3 1 0 (seat .nop); let s := s.setQueue 0 3 { s.queue 0 3 with reread := true }
      s.headerDue 0 3 = true ∧ reads s 0x2000 64 = true ∧ (s.queue 0 3).consDue = false)
    ∧ (let s := queue3 1 1 (seat .nop); let s := s.setQueue 0 3 { s.queue 0 3 with consDue := true, fresh := false, dispatch := 1 }
      s.queueReady 0 3 = false ∧ s.headerDue 0 3 = false ∧ (s.queue 0 3).consDue = true ∧ (s.queue 0 3).hfault = none
        ∧ goesTo s (s.queue 0 3).ctx (0x2000 + 4) 4 0x42004 = true ∧ s.poisoned 0x42004 4 = false)
    ∧ (∀ t ∈ [24999, 25000], let s := { seat .nop with clock := t }
      (s.part 0).live = true ∧ ((s.part 0).period < s.clock / 25000 ↔ t = 25000) ∧ (s.part 0).budgets[0]? = some 0xFFFFFFFF ∧ (s.part 0).balance[0]? = some 0) := by
  refine ⟨?_, ?_, ?_, ?_, ?_, ?_, ?_⟩ <;> decide +kernel

/-- A pass of one quarter at the head of the array queue, a slab, a drain to 0x1000, a parked and a restored band. -/
def heading (cmd : ArrayCmd) : State :=
  let s := bound (tune (seat .nop) fun g => { g with nslices := 2, path := 0xFF, slices := [{}, {}], counts := { tiles := 1 } })
  { onCore s fun c => { c with array := [{ gang := 2, group := 1, cmd := cmd }]
                               planes := [{ loaded := true, od := colRec, kslab := 128, bytes := List.replicate 2 [], scales := [[], []] }, {}] } with clock := 9 }
/-- A pass of one lane of the quarter, and of four. -/
theorem witness_ArrayAndQueueEvents_pass :
    ∀ m ∈ [1, 15], let r : QReq := { q := 0, band := 1, lanes := m, od := rowRec }; let s := heading (.pass 3 0 [r]); let P := (s.core 0).plane 0
      (s.core 0).array = [{ gang := 2, group := 1, cmd := .pass 3 0 [r] }]
        ∧ ((s.core 0).bands.length = 4 ∧ (s.gang 2).core = 0 ∧ s.credits = [] ∧ 0 + 4 < s.clock ∧ P.faulted = false ∧ P.bytes.length ≤ 32
          ∧ ∀ l, l < 8 → has (s.gang 2).present l = true)
        ∧ s.poison = [] := by
  intro m hm
  simp only [List.mem_cons, List.not_mem_nil, or_false] at hm
  obtain rfl | rfl := hm <;> exact ⟨rfl, by decide +kernel, rfl⟩

/-- The other commands of the array queue, a round, a table, a chunk, and a queue's receiver and sender at their bounds. -/
theorem witness_ArrayAndQueueEvents :
    (let s := heading (.mlds colRec 0 1);
      (s.core 0).planes.length = 2 ∧ ∀ n, n < 32 → s.poisoned (bufBase 0 + colRec.rowAt n 0 colRec.depth) (colRec.slabBytes colRec.depth) = false
        ∧ s.poisoned (bufBase 0 + colRec.scaleAt n 0 colRec.depth) (colRec.scaleCount colRec.depth) = false)
    ∧ (∀ ph ∈ [none, some (spadBase 1 + 0x40, 0)], let r : DReq := { band := 1, lanes := 15, addr := 0x1000, ctl := 8 + 128 * 2 ^ 16, phase := ph }
      let s := heading (.drain r); let at_ (l : Nat) := s.localFlat 1 (r.addr + l % 8 * (r.ctl / 2 ^ 16 % 2 ^ 16))
      bit r.ctl 8 = false ∧ (∀ l, l < 4 → at_ l = spadBase 1 + 0x1000 + 128 * l ∧ s.poisoned (at_ l) 128 = false
        ∧ (drainRow 8 0 0 0 none (fun _ => 0) (fun _ => 0)).1.length = 128))
    ∧ (let s := heading (.park 0 [(1, 0)] 1024); ([(1, 0)] : List (Nat × Nat)).map Prod.fst = [1] ∧ imageBytes 0 ≤ 1024 ∧ s.poisoned (parkBase 1 + 1024) 1024 = false)
    ∧ (let s := heading (.unpark 0 [(1, 0, false)] 1024); s.poisoned (parkBase 1 + 0 + 1 * 1024) (imageBytes 0) = false)
    ∧ (let r : Round := { number := 0, op := 0, n := 1, parts := [(0, { gang := 2, dst := spadBase 1 + 0x1000, words := [7] })] }
      let s := { seat .nop with rounds := [(1, [r])] }
      s.rounds = [(1, [r])] ∧ r.parts.length = r.size ∧ (s.gang 2).core / 4 = 0 ∧ (s.group 1).live = true ∧ (s.link (portKey 2 12)).window.length < 16 ∧ s.poisoned (spadBase 1 + 0x1000) 4 = false)
    ∧ (let s := onCore (seat .nop) fun c => { c with decLoad := [(2, {})] }; (s.core 0).decLoad = [(2, {})])
    ∧ (∀ n ∈ [7, 8], let s := (tune (seat .nop) fun g => { g with chunks := List.replicate n none }).setLink (portKey 2 13) { recv := [([1], 1)] }
      (s.link (portKey 2 13)).recv = [([1], 1)] ∧ (s.gang 2).chunks.length = n ∧ s.still 2 = false)
    ∧ (∀ n ∈ [7, 8], let s := (seat .nop).setLink (linkKey 0 1) { window := [(5, [1], 1)], recv := List.replicate n ([], 0) }
      qkey (linkKey 0 1) = .link 0 1 ∧ (s.link (linkKey 0 1)).refused = false ∧ (s.link (linkKey 0 1)).window = [(5, [1], 1)] ∧ (s.link (linkKey 0 1)).recv.length = n)
    ∧ (let s := ((seat .nop).setLink (cruKey 1) { recv := [([1], 1)] }).setLink (portKey 2 3) { recv := [([1], 1)] }
      qkey (cruKey 1) = .cru 1 ∧ qkey (portKey 2 3) = .port 2 3 ∧ (s.link (cruKey 1)).window = [] ∧ (s.group 1).cru.length + 1 ≤ 1088 ∧ (s.gang 2).rowRoom 3 [1] 1 = true)
    ∧ (∀ t ∈ [31, 32], let s := { (seat .nop).setLink (linkKey 0 1) { refused := true, resume := 32 } with clock := t }
      (s.link (linkKey 0 1)).refused = true ∧ ((s.link (linkKey 0 1)).resume ≤ s.clock ↔ t = 32)) := by
  refine ⟨?_, ?_, ?_, ?_, ?_, ?_, ?_, ?_, ?_, ?_⟩ <;> decide +kernel

/-- The device as the bench leaves it, with page 5 of memory private to world 2, and room in the fault ring at 0 of host memory. -/
def device : State :=
  let s := seat .nop
  holding { s with prov := put (put s.prov 5 9) 6 2 } (hostBase + 8) (toBytes 4 4)
/-- Context 3 in a state, of world 2. -/
def context3 (c : Ctx) (s : State) : State := s.setCtx 3 { c with world := 2 }

/-- A context that filled a touched window and none; credits and marks of open and closed phases; a copy that is done and one that waits;
an operand copy; walks; the ring; a stopped context; an export; and an import whose version does not agree. -/
theorem witness_EngineAndTranslationEvents :
    (∀ st ∈ [3, 4], let c : StreamCtx := { group := 1, gang := 2, entry := 3, touch := some 1, fillNo := 6, state := st }
      let s := home (device.setStream 5 c) fun g => { g with cat := [(3, { valid := true, wstate := [(1, .filling)], wfill := [(1, 6)] })] }
      rising s.streams = true ∧ find s.streams 5 = some c ∧ ((s.group 1).entry 3).win 1 = .filling ∧ find ((s.group 1).entry 3).wfill 1 = some c.fillNo)
    ∧ (∀ ph ∈ [0, 1], ∀ m ∈ [none, some 0xFFFF], let c : Credit := { obj := spadBase 1 + 0x40, phase := 4 * ph, nbytes := 8, tile := some (2, 7), mark := m }
      let s := { bar2 device with credits := [c] }
      s.credits[0]? = some c ∧ ((s.bar c.obj).isOpen c.phase = true ↔ ph = 0) ∧ s.creditStill c = false ∧ s.poisoned c.obj 64 = false ∧ (s.core (s.gang 2).core).array = [])
    ∧ (∀ todo ∈ [[], [1]], let x : Bulk := { gang := 2, group := 1, ring := 0x4000, len := 600, todo := todo, got := 600, ended := some (1, 5, 9) }
      let s := holding { device with bulks := [(4, x)] } 0x44000 (toBytes 4 7 ++ toBytes 4 1)
      find s.bulks 4 = some x ∧ s.bulkParked 0 4 = false ∧ x.fault = none ∧ x.noRec = false ∧ x.imp = false ∧ (s.ctx x.ctx).state = .resident ∧ s.num 0x44004 4 = 1 ∧ s.poisoned 0x44000 4 = false ∧ s.poisoned 0x44060 32 = false
        ∧ (match s.engXl 0 0 0x4000 64 true with | .ok f _ => f == 0x44000 | _ => false) = true
        ∧ (match s.engXl 0 0 (0x4000 + 0x40 + 32 * (s.num 0x44000 4 % 2)) 32 true with | .ok f _ => f == 0x44060 | _ => false) = true)
    ∧ (∀ src ∈ [0x40000, hostBase], ∀ l ∈ [true, false], let x : Obld := { gang := 2, base := 64, src := [(src, 128)] }; let s := { device with oblds := [(1, x)] }
      let s := s.setPart 0 { s.part 0 with up := l }
      find s.oblds 1 = some x ∧ (isHost src = true ↔ src = hostBase) ∧ peerOf src = none ∧ (s.part (s.partOf (s.gang 2))).linked = l ∧ s.mayStart (s.partOf (s.gang 2)) 4 = true ∧ s.veils = [] ∧ src + 128 ≤ 2 ^ 56)
    ∧ (∀ va ∈ [0x600, 0x10000], (match device.pageOf [0, 1024] 0 va with | .ok f _ => f == 0x40000 | _ => false) = decide (va = 0x600)
      ∧ (device.core 0).ctx = some 0 ∧ (device.core 1).ctx ≠ some 0 ∧ (device.ctx 0).state = .resident)
    ∧ (∀ w ∈ [[], [({ kind := 5, detail := 3 } : FaultRec)]], let s := device.setPart 0 { device.part 0 with waiting := w }
      (s.part 0).waiting = w ∧ (s.part 0).hangs = [] ∧ s.launches = [] ∧ s.ringRoom 0 = true ∧ ∀ g ∈ s.gangs, g.2.owed = none)
    ∧ (let s := tune (device.setPart 0 { device.part 0 with waiting := [{ kind := 3, gang := some 2 }] }) fun g => { g with owed := some ([0], { code := 0x30 }) }
      (s.gangs.filter fun y => y.2.owed.isSome).map Prod.fst = [2] ∧ (s.gang 2).owed = some ([0], { code := 0x30 }) ∧ s.partOf (s.gang 2) = 0
        ∧ s.ringRoom 0 = true)
    ∧ (∀ n ∈ [1023, 1024], ∀ e ∈ [true, false], let s := device.setCtx 3 { state := .stopping, quietFor := n, ending := e }
      (s.ctx 3).state = .stopping ∧ s.stopSettled 3 = true ∧ (s.ctx 3).quietFor = n ∧ (s.ctx 3).ending = e ∧ s.streams = [] ∧ s.halves = [] ∧ s.launches = [] ∧ s.queues = []
        ∧ (s.part (s.ctx 3).part).closing = 0)
    ∧ (let s := context3 { state := .resident } device
      (s.ctx 3).world ≠ 0 ∧ (s.ctx 3).state ≠ .none ∧ isHbm 0x50000 = true ∧ s.provOf 0x50000 = 4 * (s.ctx 3).world + 1 ∧ (s.part (s.ctx 3).part).linked = true)
    ∧ (let s := context3 { state := .resident } { device with chip := { device.chip with tickets := [(1, { ctx := 3, world := 2, version := 9 })] } }
      find s.chip.tickets 1 = some { ctx := 3, world := 2, version := 9 } ∧ (s.ctx 3).part = 0 ∧ isHbm 0x60000 = true ∧ s.provOf 0x60000 = 2
        ∧ s.num (hostBase + 0x1000 + 65536) 8 ≠ 9) := by
  refine ⟨?_, ?_, ?_, ?_, ?_, ?_, ?_, ?_, ?_, ?_⟩ <;> decide +kernel

/-- A page's command with its arguments, on a live partition with a page of world 2, of world 0 and shared with the host. -/
def page (k : Nat) (args : List Nat) (s : State) : State := s.setPage k { args := args.map w64 }
/-- A creation block at 0x1000 of host memory: a share of 8, rings at 0x10000 and 0x20000. -/
def creation (s : State) : State :=
  holding s (hostBase + 0x1014) (toBytes 4 8 ++ toBytes 8 0x10000 ++ toBytes 8 0x20000)

/-- Arguments that each command takes, and some that it refuses. -/
theorem witness_HostCommands :
    (let s := page 0 [3, 0x2000, 0, 0] device;
      (s.part 0).linked = true ∧ (s.part 0).live = true ∧ (s.part 0).closing = 0 ∧ (s.page 0).busy = false)
    ∧ ((page 1 [0, 0, 0, 0] device).part 1).live = false
    ∧ (∀ y ∈ [0, 7], let s := page 0 [3 + 256 * y, 0x2000, 0, 0] device; let y' := bits (s.page 0).args.head!.toNat 8 6
      (y' = y) ∧ ((s.ctx y).state ≠ .none ↔ y = 0))
    ∧ (∀ x ∈ [0, 3], let s := page 0 [x, 0x40000, 0, 0] (device.setPart 0 { device.part 0 with halves := 1 })
      ((s.ctx x).state = .none ↔ x = 3) ∧ isHbm 0x40000 = true ∧ bit (s.part 0).halves (0x40000 / 2 ^ 35) = true ∧ s.provOf 0x40000 = 1)
    ∧ (∀ st ∈ [CtxState.resident, .stopping, .quiescent, .halted, .saved, .failed], let s := page 0 [3, 0x600, 0, 0] (device.setCtx 3 { state := st })
      (s.ctx 3).state = st ∧ (s.ctx 3).part = 0 ∧ s.launches = [] ∧ s.queues = [])
    ∧ (∀ k ∈ [1, 2, 5], let s := page 0 [9, 0, 0, 0] (device.setPart 0 { device.part 0 with faults := [(9, { kind := k, ctx := 0, gang := some 2 })] })
      find (s.part 0).faults 9 = some { kind := k, ctx := 0, gang := some 2 } ∧ (s.ctx 0).state = .resident ∧ s.launches = [])
    ∧ (let s := tune device fun g => { g with page := some { seq := 9, slices := [0], lanes := 3 } }
      (s.gang 2).page = some { seq := 9, slices := [0], lanes := 3 } ∧ s.partOf (s.gang 2) = 0)
    ∧ (∀ l ∈ [true, false], let s := page 0 [0, 0, 0, 0] (context3 { state := .quiescent, linkStop := l } device)
      let s := { s with chip := { s.chip with session := true } }; let s := s.setPart 0 { s.part 0 with ide := true }
      s.chip.session = true ∧ (s.part 0).session = true ∧ (s.part 0).ide = true ∧ (s.ctx 3).linkStop = l ∧ (s.ctx 3).world = 2)
    ∧ (let s := page 0 [0, 0x1000, 16, 0] (device.setCtx 0 { device.ctx 0 with binding := some [] })
      (s.ctx 0).binding = some [] ∧ s.ecolPlaces 0 (0x1000 + 4096) 16 false = some [(0x42000, 16)] ∧ s.ecolPlaces 0 0x1000 4096 true = some [(0x41000, 4096)]
        ∧ s.poison = [])
    ∧ (∀ b ∈ [0, 2], let s := page 0 [0x60000, 1, b, 0] (device.setPart 0 { device.part 0 with halves := 1 }); s.pgsetOk 0 0x60000 b = true)
    ∧ (let s := page 0 [0x50000, 1, 0, 0] (context3 { state := .resident } (device.setPart 0 { device.part 0 with halves := 1, worlds := 4 })); s.pgsetOk 0 0x50000 0 = false)
    ∧ (let s := page 0 [0x40000, 1, 0, 0] (device.setPart 0 { device.part 0 with halves := 1 })
      isHbm 0x40000 = true ∧ bit (s.part 0).halves 0 = true ∧ s.provOf 0x40000 = 1)
    ∧ (∀ b ∈ [true, false], let s := page 8 [1, 2, 2, 0x1000] (creation device); let s := { s with chip := { s.chip with boot := some b } }; s.firmwareValid = b)
    ∧ (let s := page 8 [1, 2, 2, 0x1000] (creation device)
      (s.page 8).busy = false ∧ (s.part 1).live = false ∧ (s.part 0).live = true ∧ s.partCtxs 0 = [0] ∧ rising s.ctxs = true)
    ∧ (let s := (page 8 [0, 0, 0, 0] device).setCtx 0 {}; s.partCtxs 0 = [] ∧ (s.part 0).live = true ∧ (s.part 0).closing = 0 ∧ (s.part 0).ptlen = 0)
    ∧ (∀ up ∈ [true, false], let s := { device with chip := { device.chip with ports := [(3, { up := up })] } }
      find s.chip.ports 3 = some { up := up }) := by
  refine ⟨?_, ?_, ?_, ?_, ?_, ?_, ?_, ?_, ?_, ?_, ?_, ?_, ?_, ?_, ?_, ?_⟩ <;> decide +kernel

/-- The creation block is one that PCREATE takes, and memory is canonical there. -/
theorem witness_HostCommands_create :
    (creation device).createOk 2 2 0x1000 ((creation device).bytes (hostBase + 0x1000) 256) = true ∧ Memory.wf (creation device).mem := by
  refine ⟨?_, ?_⟩ <;> decide +kernel

/-- A partition of no context and one of a context; a link with a record to write; accesses of every shape to memory that the host sees,
and to memory that it does not; and an SPDM connection at each of its stages. -/
theorem witness_ResetsLinksAndSessions :
    ((device.part 0).live = true ∧ (device.part 0).closing = 0 ∧ device.partCtxs 0 = [0] ∧ rising device.ctxs = true ∧ (device.ctx 0).state = .resident)
    ∧ ((device.setCtx 0 {}).partCtxs 0 = [] ∧ (device.part 0).ptlen = 0 ∧ (device.part 1).live = false)
    ∧ (∀ w ∈ [[], [({ kind := 5 } : FaultRec)]], let s := device.setPart 0 { device.part 0 with up := false, waiting := w }
      (s.part 0).waiting = w ∧ (s.part 0).hangs = [] ∧ s.launches = [] ∧ (∀ g ∈ s.gangs, g.2.owed = none) ∧ (s.setPart 0 { s.part 0 with up := true, tdi := .run }).ringRoom 0 = true)
    ∧ (∀ a ∈ [0x60000, 0x50000], ∀ n ∈ [4, 8], (∀ q ∈ device.parts, q.2.live = true → isHbm a = true → bit q.2.halves (a / 2 ^ 35) = true → q.2.linked = true)
      ∧ (device.provOf (65536 * (a / 65536)) % 4 = 2 ↔ a = 0x60000) ∧ a % n = 0 ∧ a + n ≤ 0xC000000000 ∧ (a + n - 1) / 65536 = a / 65536 ∧ device.poisoned a n = false)
    ∧ ((device.part 0).up = true ∧ (device.part 1).up = true ∧ (device.page 0).args.length = 4 ∧ (device.page 0).stat < 2 ^ 31
        ∧ device.chip.ering < 2 ^ 64 ∧ device.chip.corr < 2 ^ 64)
    ∧ ((State.reset.chip.broken = [] ∧ State.reset.chip.fwlen = 0) ∧ device.chip.broken = [] ∧ ({ device.chip with fwlen := 64 } : Chip).fwlen ≠ 0)
    ∧ (device.markPoison (protAt 0x60000) true).poisoned 0x60000 4 = true
    ∧ ∀ k ∈ [0, 1, 2, 3, 4], ∀ b ∈ [true, false], let s := { device with chip := { device.chip with spdm := k, session := b } }; s.chip.spdm = k ∧ s.chip.session = b := by
  refine ⟨?_, ?_, ?_, ?_, ?_, ?_, ?_, ?_⟩ <;> decide +kernel

/-- A chip with port 3 open to chip 6, which it admits. -/
def linked (f : Flits) : State :=
  { device with clock := 20000, chip := { device.chip with ports := [(3, { up := true, chip := 6 })], admitted := [(6, 1, 2)], flits := [(6, f)] } }

/-- Ports; flits in sequence, ahead at both ends of the buffer, and beyond it; a resend on time, late and the last; a request; a peer's
access with and without a second stage; records due and not, with room; words of memory; ways and slices; and a containment. -/
theorem witness_HuturRecordsAndRepair :
    (let c := (linked {}).chip; (6, 1, 2) ∈ c.admitted ∧ (6, 1, 3) ∉ c.admitted ∧ (¬ ∀ q ∈ c.ports, q.2.up = false) ∧ ∀ q ∈ device.chip.ports, q.2.up = false)
    ∧ (∀ seq ∈ [5, 6, 69, 70], let s := linked { expect := 5, ahead := [(7, 9)] }; let f := get {} s.chip.flits 6
      seq < 2 ^ 32 ∧ f.expect < 2 ^ 32 ∧ (seq + 2 ^ 32 - f.expect) % 2 ^ 32 = seq - 5 ∧ ∀ a ∈ f.ahead, a.1 ≠ seq)
    ∧ (∀ n ∈ [0, 63, 64], ∀ t ∈ [10000, 10001], ∀ b ∈ [true, false], let u : Flit := { seq := 4, at_ := t, tries := n, sent := b }
      let s := linked { unacked := [u] }
      find s.chip.flits 6 = some { unacked := [u] } ∧ (t + 10000 ≤ s.clock ↔ t = 10000) ∧ (s.part u.part).hold = false)
    ∧ (∀ t ∈ [17952, 17953], let s := tune (linked {}) fun g => { g with work := { g.work with flight := [{ id := 7, loads := true, at_ := t }] } }
      s.underway[0]? = some (2, 7) ∧ (t + 2048 ≤ s.clock ↔ t = 17952))
    ∧ (let s := linked { unacked := [{ seq := 4, flat := 0x80000, len := 8 }] }
      (get {} s.chip.flits 6).unacked.any (fun u => u.seq == 4 && (protWords u.flat u.len).contains 0x80000) = true)
    ∧ (let d : Deliv := { id := 7, loads := true, cross := some (3, 4) }
      let s := tune { linked {} with chip := { (linked {}).chip with flows := [(3, { expect := 5 })] } } fun g => { g with work := { g.work with flight := [d] } }
      s.underway[0]? = some (2, 7) ∧ d.at_ + 2048 ≤ s.clock ∧ 4 < (get {} s.chip.flows 3).expect)
    ∧ (∀ n ∈ [0, 1], let s := (linked {}).setPart 0 { (linked {}).part 0 with sstab := 0x44000, sscount := n }
      let s := holding s 0x44000 (toBytes 8 0x40000 ++ toBytes 4 0x10000 ++ toBytes 4 0x100)
      (s.part 0).live = true ∧ (s.part 0).hold = false ∧ s.secondStage 0 0 0x600 8 0 0 true = (if n = 0 then none else some 0x40600) ∧ isHost 0x40600 = false
        ∧ s.poisoned 0x40600 4 = false ∧ s.refusedByPoison 0x40600 4 = false ∧ (s.markPoison (protAt 0x40600) true).refusedByPoison 0x40600 4 = true)
    ∧ (∀ t ∈ [2499999999, 2500000000], let s := { device with clock := t }
      (s.part 0).live = true ∧ ((s.part 0).born + 2500000000 * ((s.part 0).seconds + 1) ≤ s.clock ↔ t = 2500000000))
    ∧ (let s := holding (device.setPart 0 { device.part 0 with uring := 0x10000, held := [{ seq := 1 }] }) (hostBase + 0x10008) (toBytes 4 2)
      (s.part 0).held = [{ seq := 1 }] ∧ s.usageRoom 0 = true)
    ∧ (let s := { device with chip := { device.chip with ering := 0x40000, elsize := 4, errors := [{ kind := 1 }] } }
      s.chip.errors = [{ kind := 1 }] ∧ s.recRoom (hostBase + s.chip.ering) s.chip.elsize = true)
    ∧ (device.scrubbed 0x40000 = true ∧ device.isPoison (protAt 0x40000) = false ∧ device.scrubbed (2 ^ 57) = false
      ∧ isHost 0x40000 = false ∧ isHost hostBase = true ∧ isHbm 0x40000 = true ∧ device.isPoison (sliceMark 0x40000) = false
      ∧ (device.markPoison (sliceMark 0x40000) true).isPoison (sliceMark 0x40000) = true
      ∧ device.ownerAt 0x40000 = device.ownerAt (protAt 0x40000) ∧ device.ownerAt 0x40000 = device.ownerAt (markPlace (sliceMark 0x40000)))
    ∧ (∀ e ∈ [(32, 32), (0, 32), (0, 1)], let s := { device with chip := { device.chip with hmap := [(224, BitVec.ofNat 8 e.1), (225, BitVec.ofNat 8 e.2)] } }
      s.hmapNum 0 224 1 = e.1 ∧ s.hmapNum 0 225 1 = e.2 ∧ s.hmapNum 0 224 1 % 32 ≠ 5 ∧ s.hmapNum 0 225 1 % 32 ≠ 5)
    ∧ (∀ b ∈ [true, false], ∀ row ∈ [some 4, none], let s := { device with chip := { device.chip with
          hmap := (List.range 120).map fun o => (o, if b then 64 else 0), broken := [(9, none)] } }
      0 ∉ s.chip.failing ∧ s.hasSpare 8 row = b ∧ (8, row.map (s.physicalRow 8)) ∉ s.chip.broken ∧ (9, none) ∈ s.chip.broken ∧ State.reset.liveGangs = [])
    ∧ (bit 1 0 = true ∧ (device.part 0).live = true ∧ rising device.ctxs = true ∧ (device.ctx 0).state = .resident) := by
  refine ⟨?_, ?_, ?_, ?_, ?_, ?_, ?_, ?_, ?_, ?_, ?_, ?_⟩ <;> decide +kernel

/-! ### Words, steps and sealed pages -/

/-- A word and its instruction; a stream word; a word that decodes, each way. -/
theorem witness_WordsAndInstructionsAgree :
    encode (.add 3 1 2) = some 0x01003042#32 ∧ decodeWord 0x01003042#32 = .ok (.add 3 1 2)
      ∧ Sys2Proof.wellFormed (.seAdd 1 3 15 5) = true ∧ encodeStream (.seAdd 1 3 15 5) = some 0x0213F00000000005#64
      ∧ decodeStream 0x0213F00000000005#64 = .ok (.seAdd 1 3 15 5) := by decide

/-- A gang about to be granted at an ADD, a stream context at a word, and an event. -/
theorem witness_StepRunsTheDecodedInstruction :
    (let s := State.reset.withFetchWord 32 0x01003042; let u := s.taken (.issue 0 []) []; let v := (u.noteLate 0 []).beforeGrant 2 0; let g := v.gang 2
      s.agenda = [.issue 0 []] ∧ u.nextGrant 0 [] = some 2 ∧ g.postedReady = false ∧ v.defers 2 0 = false ∧ v.chosenSlice 2 0 = some 0
        ∧ g.fillDue (g.issuing 0) = none ∧ (g.slice 0).rep = none ∧ pcIdx (g.slice 0).pc = 0
        ∧ (v.fetch 2 (pcAddr (g.slice 0).pc)).toOption = some 0x01003042#32 ∧ decodeWord 0x01003042#32 = .ok (.add 3 1 2))
    ∧ (let s := State.reset.withFetchWord 64 0x0213F00000000005; let u := s.taken (.stream 0) []; let c := u.stream 0
        let v := { u with engines := put u.engines 0 { last := some 0, at_ := some u.clock } }
      s.agenda = [.stream 0] ∧ u.nextStream 0 = some 0 ∧ c.beats = [] ∧ c.out = [] ∧ c.regs.pc % 8 = 0
        ∧ (match v.streamWord 0 c with | .ok (w, x) => w == 0x0213F00000000005#64 && x.mayStart (x.streamPart c) 4 | _ => false) = true
        ∧ decodeStream 0x0213F00000000005#64 = .ok (.seAdd 1 3 15 5) ∧ movesData (.seAdd 1 3 15 5) = false)
    ∧ ({ State.reset with agenda := [.event (.doorbell 0 3 1)] } : State).agenda = [.event (.doorbell 0 3 1)] ∧ isEvent (.doorbell 0 3 1) = true := by
  refine ⟨?_, ?_, ?_, ?_⟩ <;> decide +kernel

/-- A gang and a stream context that exist, and a gang that does not. -/
theorem witness_EveryInstructionAnswers :
    (encode (.add 3 1 2)).isSome = true ∧ find (seat (.add 3 1 2)).gangs (seat (.add 3 1 2)).cur.gang ≠ none
      ∧ (encodeStream (.seFence 0 0 0 0)).isSome = true ∧ find (engine (.seFence 0 0 0 0) id).streams (engine (.seFence 0 0 0 0) id).cur.ctx ≠ none
      ∧ isEvent .hotReset = true ∧ find State.reset.gangs State.reset.cur.gang = none := by decide +kernel

/-- A page as its export leaves it in a host buffer at 0x1000, and its ticket. -/
def sealedPage : List Byte := (List.range 65536).map (Config.sealed 4 (List.replicate 65536 0))
def ticket9 : Ticket := { ctx := 3, world := 2, version := 9, tag := 5, plain := List.replicate 65536 0, sealing := 4 }
/-- Bytes written at 0x1000 of host memory, and how they read. -/
def sealing (s : State) (bs : List Byte) : State := { s with mem := writeBytes s.mem (hostBase + 0x1000) bs }
theorem byte_sealing (s : State) (bs : List Byte) (i : Nat) (h : i < bs.length) : (sealing s bs).byte (hostBase + 0x1000 + i) = bs.getD i 0 := by
  unfold sealing
  show get Config.unwritten (writeBytes s.mem _ bs) _ = _
  rw [get_writeBytes, if_pos (by omega), Nat.add_sub_cancel_left]

theorem bytes_sealing (s : State) (xs ys zs : List Byte) :
    (sealing s (xs ++ ys ++ zs)).bytes (hostBase + 0x1000 + xs.length) ys.length = ys := by
  refine List.ext_getElem (by simp [State.bytes]) fun i h _ => ?_
  have hi : i < ys.length := by simpa [State.bytes] using h
  simp only [State.bytes, List.getElem_map, List.getElem_range]
  rw [Nat.add_assoc, byte_sealing _ _ _ (by simp; omega)]
  simp [List.getD, List.getElem?_append, hi]

def exported : State :=
  sealing { context3 { state := .resident } device with chip := { device.chip with tickets := [(1, ticket9)] } } (sealedPage ++ toBytes 8 9 ++ toBytes 16 5)

theorem witness_EngineAndTranslationEvents_genuine :
    exported.chip.tickets = [(1, ticket9)] ∧ (∀ i, i < 65536 → exported.byte (hostBase + 0x1000 + i) = Config.sealed ticket9.sealing ticket9.plain i)
      ∧ exported.num (hostBase + 0x1000 + 65536) 8 = ticket9.version ∧ exported.num (hostBase + 0x1000 + 65544) 16 = ticket9.tag
      ∧ ticket9.plain.length = 65536 := by
  have hl : sealedPage.length = 65536 := by rw [sealedPage, List.length_map, List.length_range]
  have hp : ticket9.plain.length = 65536 := List.length_replicate ..
  refine ⟨rfl, fun i h => ?_, ?_, ?_, hp⟩
  · rw [exported, byte_sealing _ _ _ (by simp only [List.length_append, hl]; omega), List.getD_append _ _ _ _ (by simp only [List.length_append, hl]; omega),
      List.getD_append _ _ _ _ (by omega), sealedPage, List.getD_eq_getElem?_getD, List.getElem?_map, List.getElem?_range h]
    rfl
  · have := bytes_sealing { context3 { state := .resident } device with chip := { device.chip with tickets := [(1, ticket9)] } } sealedPage (toBytes 8 9) (toBytes 16 5)
    rw [hl] at this
    exact congrArg fromBytes this |>.trans (by decide)
  · have := bytes_sealing { context3 { state := .resident } device with chip := { device.chip with tickets := [(1, ticket9)] } } (sealedPage ++ toBytes 8 9) (toBytes 16 5) []
    rw [List.append_nil, List.length_append, hl] at this
    exact congrArg fromBytes this |>.trans (by decide)

/-! ### One step, with results worked out by hand -/

/-- In the four lanes of the bench, v3 holds `x` afterwards. -/
def gives (i : Instr) (mode : Nat) (xs : List (Nat × Nat)) (x : Nat) (p : State → Bool) : Bool :=
  leads i (seatV i mode ((List.range 4).flatMap fun l => xs.map fun y => (l, y.1, y.2))) fun t =>
    ((List.range 4).all fun l => ((t.gang 2).readV l 3).toNat == x) && p t

/-- Integers: reduction, clamping with isat, and division by zero (04 R96, R99, R106). -/
theorem test_add_wraps : gives (.add 3 1 2) 0 [(1, 0xFFFFFFFF), (2, 1)] 0 (fun t => (t.gang 2).sys.gflags == 0) = true := by decide +kernel
theorem test_sub_saturates :
    gives (.sub 3 1 2) (2 ^ 20 + 128) [(1, 0), (2, 16)] 0 (fun t => (t.gang 2).sys.gflags == 4) = true := by decide +kernel
theorem test_div_by_zero : gives (.div 3 1 2) 0 [(1, 7)] 0xFFFFFFFF (fun t => (t.gang 2).sys.fpflags == 0) = true := by decide +kernel

/-- Floating: 1.0 + 1.0 is 2.0; 1.0 / 0.0 is infinite and raises divide-by-zero alone (02 R43, R55; 04 R99). -/
theorem test_add_f32 : gives (.add 3 1 2) (8 * 128) [(1, 0x3F800000), (2, 0x3F800000)] 0x40000000 (fun t => (t.gang 2).sys.fpflags == 0) = true := by
  decide +kernel
theorem test_div_f32 : gives (.div 3 1 2) (8 * 128) [(1, 0x3F800000)] 0x7F800000 (fun t => (t.gang 2).sys.fpflags == 2) = true := by decide +kernel

/-- CVT of 0.1 and of 500.0 into a byte of f8e4m3x4, saturating (the worked case of 04 R111). -/
theorem test_cvt_worked_case :
    gives (.cvt 2 3 4 3) (12 * 128 + 8 * 4096 + 2 ^ 20) [(3, 0xC238), (4, 0x3DCCCCCD)] 0x1DC238 (fun t => (t.gang 2).sys.fpflags == 16) = true
    ∧ gives (.cvt 3 3 4 3) (12 * 128 + 8 * 4096 + 2 ^ 20) [(3, 0x1DC238), (4, 0x43FA0000)] 0x7E1DC238 (fun t => (t.gang 2).sys.fpflags == 20) = true := by
  refine ⟨?_, ?_⟩ <;> decide +kernel

/-- A load reads the least significant byte first and moves the program counter by four (07 R157; 03 R67). -/
theorem test_load_little_endian :
    leads (.ld 3 20 16) (holding (seatV (.ld 3 20 16) 0 addrs) 0x40210 [1, 2, 3, 4]) (fun t =>
      (t.gang 2).readV 0 3 == 0x04030201 && ((t.gang 2).slice 0).pc == 4) = true := by decide +kernel

/-- Where lanes share an address the highest lane's store stands (07 R163). -/
theorem test_store_highest_lane :
    leads (.storeQueueRetire 2) (queuing { (entryOf (.st 13 20 0) 0) with
      entry := { (entryOf (.st 13 20 0) 0).entry with vals := (List.range 4).flatMap fun l => [(128 * l + 13, w32 (l + 1)), (128 * l + 20, 0x200)] } })
      (fun t => t.num 0x40200 4 == 4 && t.mem.length == (queuing (entryOf .nop 0)).mem.length + 1 && (t.gang 2).counts.stores == 0) = true := by decide +kernel

/-- The stack shares that 01 R17 works out: 112 slots, and 154. -/
theorem test_ring_sizes : ringOf 8 32 = 112 ∧ ringOf 1 3 = 154 := by decide

/-- A phase completes with its last arrival (11 R241, R242): base 2, second arrival. -/
theorem test_barrier_completes :
    leads (.barr 5 6) ((atBar (.barr 5 6) 0 0).setBar (spadBase 1 + 0x40) { Bar.init 2 with arr := [1, 0, 0, 0] })
      (fun t => (t.bar (spadBase 1 + 0x40)).gen == 1) = true := by decide +kernel

/-- A trap from user level saves the address after the word and enters the user's handler at 0x400 (05 R139). -/
theorem test_trap_enters :
    leads (.trap 5) (tune (seat (.trap 5)) user) (fun t => (t.gang 2).frame.tpc == 4 && (t.gang 2).frame.taux == 5 && ((t.gang 2).slice 0).pc == 0x400 && (t.gang 2).userH
      && (t.gang 2).level == 0 && (t.gang 2).frame.tmask == 0 && (t.gang 2).frame.tdone == 15) = true := by decide +kernel

/-- A privileged word at user level traps to the supervisor with cause 0x05 and the supervisor's bit (01 R28, R38). -/
theorem test_privilege :
    leads (.halt 6) (tune ((seat (.halt 6)).setPart 0 { (seat (.halt 6)).part 0 with stvec := 0x800 }) user)
      (fun t => (t.gang 2).frame.tcause == 0x205 && ((t.gang 2).slice 0).pc == 0x800 && (t.gang 2).level == 1) = true := by decide +kernel

/-- The first instruction after withFetchWord runs: ADD of the manual's word 0x01004146 moves the program counter. -/
theorem test_first_step :
    (match step (State.reset.withFetchWord 32 0x01004146) with | .next t => ((t.gang 2).slice 0).pc == 4 && (t.core 0).granted == [2] | _ => false) = true := by
  decide +kernel
end Sys2Proof.Tests
end

/-! SUPPORT. Writes of uniform registers by WMOV (01 R22, R23; 04 R114): what a write that no owner forbids leaves in the group,
and the end of the instruction with and without active lanes. -/

namespace Sys2Proof.Machine

/-! ### Retirement in a state whose gangs stand -/

/-- An instruction retires with respect to the state that it began in, where its effect left the clock and the gang alone. -/
theorem State.retires_advance {s u : State} {e : Issue} (hc : u.clock = s.clock) (hg : u.gang e.gk = s.gang e.gk) :
    Retires s (u.advance e.gk e.ss) e := by
  rw [State.advance_eq, Retires, State.gang_setGang_same, hc, hg]
  exact ⟨rfl, rfl⟩

/-- Retiring changes no register. -/
theorem State.regs_advance (s : State) (gk : Nat) (ss : List Nat) : ((s.advance gk ss).gang gk).regs = (s.gang gk).regs := by
  rw [State.advance_eq, State.gang_setGang_same]
  rfl

@[simp] theorem State.group_advance (s : State) (gk : Nat) (ss : List Nat) (k : Nat) : (s.advance gk ss).group k = s.group k := rfl

/-- Retiring changes the gang that retires and nothing else. -/
theorem State.onlyGang_advance (s : State) (gk : Nat) (ss : List Nat) : OnlyGang s (s.advance gk ss) gk :=
  ⟨rfl, fun _ hk => State.gang_setGang_other s _ _ hk⟩

/-! ### The uniform registers of a group -/

/-- No other gang owns the register in this span: it has no owner, or the gang is its owner (01 R23). -/
def Group.mayWriteUni (gr : Group) (gk n : Nat) : Prop := find gr.owner n = none ∨ find gr.owner n = some gk

/-- The group after a gang wrote a uniform register: the register holds the value, the gang owns it, and the value ends the
history of the span (01 R23, R24). -/
def Group.writeUni (gr : Group) (gk n : Nat) (x : W64) : Group :=
  { gr with
    wreg := set 0 gr.wreg n x
    owner := put gr.owner n gk
    span := put gr.span n ((find gr.span n).getD [get 0 gr.wreg n] ++ [x]) }

@[simp] theorem Group.wreg_writeUni_same (gr : Group) (gk n : Nat) (x : W64) : get 0 (gr.writeUni gk n x).wreg n = x :=
  get_set_same 0 gr.wreg n x

theorem Group.wreg_writeUni_other (gr : Group) (gk : Nat) {n m : Nat} (x : W64) (h : m ≠ n) :
    get 0 (gr.writeUni gk n x).wreg m = get 0 gr.wreg m :=
  get_set_other 0 gr.wreg x h

@[simp] theorem Group.owner_writeUni_same (gr : Group) (gk n : Nat) (x : W64) : find (gr.writeUni gk n x).owner n = some gk :=
  find_put_same gr.owner n gk

/-- A write that no other owner forbids succeeds, and changes the group of the writing gang alone (01 R23). -/
theorem State.uniWrite_ok {s : State} {gk n : Nat} (x : W64) (h : (s.group (s.gang gk).group).mayWriteUni gk n) :
    s.uniWrite gk n x = .ok (s.setGroup (s.gang gk).group ((s.group (s.gang gk).group).writeUni gk n x)) :=
  if_pos h

/-! ### WMOV -/

/-- The value that WMOV takes: the pair or the word in the lowest active lane, by the type of MODE (01 R22; 04 R114). -/
def Issue.lowestValue (e : Issue) (a : Nat) : W64 :=
  if is64 (mType e.mode) then e.g.readPair (lowest e.act) a
  else if mType e.mode = 0 then (e.g.readV (lowest e.act) a).signExtend 64 else (e.g.readV (lowest e.act) a).setWidth 64

section

variable {s : State} {e : Issue} {d a : BitVec 6}

/-- With no active lane WMOV does nothing but retire (01 R22). -/
theorem exec_wmov_no_lane (hf : s.front (.wmov d a) = .go e) (hact : e.act = 0) :
    exec (.wmov d a) s = .next (s.advance e.gk e.ss) := by
  show execWmov d a s = _
  simp only [execWmov, issue_go hf, if_pos hact]

/-- With an active lane, and no other owner, WMOV writes the lowest lane's value to its group's register and retires. -/
theorem exec_wmov_writes (hf : s.front (.wmov d a) = .go e) (hact : e.act ≠ 0)
    (hown : (s.group e.g.group).mayWriteUni e.gk (d.toNat + 64 * s.cur.hiD)) :
    exec (.wmov d a) s = .next ((s.setGroup e.g.group
      ((s.group e.g.group).writeUni e.gk (d.toNat + 64 * s.cur.hiD) (e.lowestValue a.toNat))).advance e.gk e.ss) := by
  have hw := State.uniWrite_ok (e.lowestValue a.toNat) (State.front_gang hf ▸ hown)
  rw [State.front_gang hf] at hw
  show execWmov d a s = _
  simp only [Issue.lowestValue] at hw ⊢
  simp only [execWmov, issue_go hf, if_neg hact, hw]

end

/-- Settles O15: with no active lane the instruction only retires; with one, its whole effect is one write of the lowest lane's
value in the gang's group, and then it retires. -/
theorem uniformWritesTakeTheLowestLane : Obligations.UniformWritesTakeTheLowestLane := by
  intro s e d a ⟨hf, _⟩
  refine ⟨fun hact => ?_, fun hact hown => ?_⟩
  · exact ⟨_, exec_wmov_no_lane hf hact, s.onlyGang_advance _ _, State.retires_advance rfl rfl, s.regs_advance _ _⟩
  · refine ⟨_, exec_wmov_writes hf hact hown, rfl, fun _ => rfl, State.retires_advance rfl rfl, ?_, fun k hk => ?_, ?_, ?_,
      fun m hm => ?_⟩
    · exact State.regs_advance _ _ _
    · exact State.group_setGroup_other s _ _ hk
    · rw [State.group_advance, State.group_setGroup_same, Group.wreg_writeUni_same]; rfl
    · rw [State.group_advance, State.group_setGroup_same, Group.owner_writeUni_same]
    · rw [State.group_advance, State.group_setGroup_same, Group.wreg_writeUni_other _ _ _ hm]

end Sys2Proof.Machine

/-! SUPPORT. Writes of rejoin registers by JSET, JSET.ACT and JARR (05 R127, R128): what reads after such a write return, when a
register is in use, and the end of the instruction on each side of its check. -/

namespace Sys2Proof.Machine

/-! ### Rejoin registers after a write -/

@[simp] theorem Gang.rejoinReg_setRejoin_same (g : Gang) (k : Nat) (r : Rejoin) : (g.setRejoin k r).rejoinReg k = r :=
  get_put_same _ g.rejoin k r

theorem Gang.rejoinReg_setRejoin_other (g : Gang) {k j : Nat} (r : Rejoin) (h : j ≠ k) :
    (g.setRejoin k r).rejoinReg j = g.rejoinReg j :=
  get_put_other _ g.rejoin r h

/-- A register is in use where it holds a pending path or parked lanes, or a slice waits on it (05 R127). -/
theorem Gang.rejoinBusy_iff (g : Gang) (k : Nat) :
    g.rejoinBusy k = true ↔ (g.rejoinReg k).paths ≠ [] ∨ (g.rejoinReg k).parked ≠ 0 ∨ g.anyWaits k = true := by
  simp only [Gang.rejoinBusy, Bool.or_eq_true, Bool.not_eq_true', List.isEmpty_eq_false_iff, decide_eq_true_eq]
  tauto

/-- Adding lanes changes a mask just where one of them is new. -/
theorem Mask.or_ne_self_iff (m n : Mask) : m ||| n ≠ m ↔ n &&& ~~~m ≠ 0 := by
  have hnew : n &&& ~~~m = (m ||| n) &&& ~~~m := by
    ext l hl
    cases hm : m[l] <;> simp [hm]
  have hor : m ||| n = m ||| (n &&& ~~~m) := by
    ext l hl
    cases hm : m[l] <;> simp [hm]
  refine not_congr ⟨fun h => ?_, fun h => ?_⟩
  · rw [hnew, h, BitVec.and_not_self]
  · rw [hor, h]; exact BitVec.or_zero

/-! ### An instruction that writes one rejoin register -/

/-- The state after the cohort's instruction wrote rejoin register `k` and retired. -/
def State.retireRejoin (s : State) (e : Issue) (k : Nat) (r : Rejoin) : State :=
  (s.setGang e.gk (e.g.setRejoin k r)).advance e.gk e.ss

/-- The instruction has retired with `r` in rejoin register `k` of its gang, and beside that nothing differs. -/
def LeavesRejoin (s t : State) (e : Issue) (k : Nat) (r : Rejoin) : Prop :=
  OnlyGang s t e.gk ∧ SameMemory s t ∧ Retires s t e ∧ OnlyControl (s.gang e.gk) (t.gang e.gk)
    ∧ (t.gang e.gk).rejoinReg k = r ∧ ∀ j, j ≠ k → (t.gang e.gk).rejoinReg j = e.g.rejoinReg j

/-- The issuing gang after it wrote a rejoin register and retired. -/
theorem State.gang_retireRejoin (s : State) (e : Issue) (k : Nat) (r : Rejoin) :
    (s.retireRejoin e k r).gang e.gk =
      { (e.g.setRejoin k r).onSlices e.ss (fun _ x => x.advance s.clock) with sched := e.g.sched.retire } := by
  rw [State.retireRejoin, State.advance_eq, State.gang_setGang_same, State.gang_setGang_same]
  rfl

theorem State.retireRejoin_leaves {s : State} {e : Issue} (hg : s.gang e.gk = e.g) (k : Nat) (r : Rejoin) :
    LeavesRejoin s (s.retireRejoin e k r) e k r := by
  refine ⟨⟨rfl, fun j hj => ?_⟩, fun _ => rfl, ?_, ?_, ?_, fun j hj => ?_⟩
  · exact ((State.onlyGang_advance _ e.gk e.ss).2 j hj).trans (State.gang_setGang_other _ _ _ hj)
  · rw [Retires, State.gang_retireRejoin, hg]
    exact ⟨rfl, rfl⟩
  · rw [OnlyControl, State.gang_retireRejoin, hg]
    rfl
  · rw [State.gang_retireRejoin]
    exact e.g.rejoinReg_setRejoin_same k r
  · rw [State.gang_retireRejoin]
    exact e.g.rejoinReg_setRejoin_other r hj

/-! ### JSET, JSET.ACT and JARR -/

/-- What a set register holds: its new lanes are expected and none has arrived (05 R127). -/
def Rejoin.expecting (r : Rejoin) (m : Mask) : Rejoin := { r with expect := m, arrived := 0, age := 0 }

/-- What the register holds when lanes have arrived; in ageing mode a new lane starts its age again (05 R128). -/
def Rejoin.arriving (r : Rejoin) (ageing : Bool) (m : Mask) : Rejoin :=
  { r with arrived := r.arrived ||| m, age := if ageing = true ∧ m &&& ~~~r.arrived ≠ 0 then 0 else r.age }

/-- A new lane has arrived just where the record of the arrived lanes changes. -/
theorem Rejoin.arriving_eq (r : Rejoin) (ageing : Bool) (m : Mask) :
    r.arriving ageing m = { r with
      arrived := r.arrived ||| m, age := if ageing = true ∧ r.arrived ||| m ≠ r.arrived then 0 else r.age } := by
  simp only [Rejoin.arriving, Mask.or_ne_self_iff]

section

variable {s : State} {e : Issue}

theorem State.jset_busy {k : Nat} (m : Mask) (h : e.g.rejoinBusy k = true) : s.jset e k m = s.badOperand e 0 k := if_pos h

theorem State.jset_free {k : Nat} (m : Mask) (h : ¬ e.g.rejoinBusy k = true) :
    s.jset e k m = s.retireRejoin e k ((e.g.rejoinReg k).expecting m) := if_neg h

/-- An instruction whose effect is to set a rejoin register traps where the register is in use, and sets it elsewhere. -/
theorem setsRejoin {i : Instr} {k : Nat} {m : Mask} (hf : s.front i = .go e) (hx : exec i s = .next (s.jset e k m)) :
    ((e.g.rejoinReg k).paths ≠ [] ∨ (e.g.rejoinReg k).parked ≠ 0 ∨ e.g.anyWaits k = true → exec i s = .next (s.badOperand e 0 k))
      ∧ (¬ ((e.g.rejoinReg k).paths ≠ [] ∨ (e.g.rejoinReg k).parked ≠ 0 ∨ e.g.anyWaits k = true) →
          EndsIn i s fun t => LeavesRejoin s t e k ((e.g.rejoinReg k).expecting m)) := by
  rw [← Gang.rejoinBusy_iff]
  refine ⟨fun hbusy => ?_, fun hfree => ⟨_, ?_, State.retireRejoin_leaves (State.front_gang hf) k _⟩⟩
  · rw [hx, State.jset_busy m hbusy]
  · rw [hx, State.jset_free m hfree]

theorem exec_jset {d a : BitVec 6} (hf : s.front (.jset d a) = .go e) :
    exec (.jset d a) s = .next (s.jset e d.toNat (e.g.readV (lowest e.path) a.toNat &&& e.g.present)) := by
  show execJset d a s = _
  rw [execJset, issue_go hf]

theorem exec_jsetAct {d : BitVec 6} (hf : s.front (.jsetAct d) = .go e) :
    exec (.jsetAct d) s = .next (s.jset e d.toNat e.path) := by
  show execJsetAct d s = _
  rw [execJsetAct, issue_go hf]

/-- JARR with a lane that the register does not expect traps (05 R128). -/
theorem exec_jarr_unexpected (hf : s.front .jarr = .go e) (h : e.path &&& ~~~(e.g.rejoinReg (mJsel e.mode)).expect ≠ 0) :
    exec .jarr s = .next (s.badOperand e 1 (mJsel e.mode)) := by
  show execJarr s = _
  rw [execJarr, issue_go hf]
  exact congrArg _ (if_pos h)

/-- JARR with lanes that the register expects records them and retires (05 R128). -/
theorem exec_jarr_expected (hf : s.front .jarr = .go e) (h : e.path &&& ~~~(e.g.rejoinReg (mJsel e.mode)).expect = 0) :
    exec .jarr s = .next (s.retireRejoin e (mJsel e.mode)
      ((e.g.rejoinReg (mJsel e.mode)).arriving (s.group e.g.group).ageing e.path)) := by
  show execJarr s = _
  rw [execJarr, issue_go hf, Rejoin.arriving_eq]
  exact congrArg _ (if_neg (not_not_intro h))

end

/-- Settles O19: JSET and JSET.ACT are one setting of a register with two masks, split on whether the register is in use; JARR
splits on whether the path holds a lane outside what is expected. -/
theorem rejoinRegistersSetAndArrive : Obligations.RejoinRegistersSetAndArrive := by
  intro s e d a
  refine ⟨fun ⟨hf, _⟩ => setsRejoin hf (exec_jset hf), fun ⟨hf, _⟩ => setsRejoin hf (exec_jsetAct hf),
    fun ⟨hf, _⟩ => ⟨exec_jarr_unexpected hf, fun h => ?_⟩⟩
  exact ⟨_, exec_jarr_expected hf h, State.retireRejoin_leaves (State.front_gang hf) _ _⟩

end Sys2Proof.Machine
